-- ==== Sys2Proof/Word.lean ====
section
/-! DEFINITION. The word type of the scalar registers and the byte (R8, R81). -/
namespace Sys2Proof

/-- A scalar register, an instruction word or a 64-bit memory word (03 Table 3.2, R81). -/
abbrev Word := BitVec 64

/-- One byte of memory (R8). -/
abbrev Byte := BitVec 8

end Sys2Proof
end

