-- ==== Sys2Proof/Syntax.lean ====
section
/-! DEFINITION. The instruction and event forms: one constructor per row of the opcode table.

An instruction word's constructor carries the fields of its format (04 Table 4.1) as the word holds them.
A constructor of a step record, a command or an event of the device carries what names the agent that it
concerns, so that the rest is read from the state. -/
namespace Sys2Proof

/-- Fields of format RR below bit 50 (04 Table 4.1). -/
structure RrF where
  d : BitVec 5
  a : BitVec 5
  b : BitVec 5
  c : BitVec 5
  deriving DecidableEq, Repr

/-- Fields of format RI. -/
structure RiF where
  d : BitVec 5
  a : BitVec 5
  b : BitVec 5
  imm : BitVec 35
  deriving DecidableEq, Repr

/-- Fields of format LI. -/
structure LiF where
  d : BitVec 5
  imm : BitVec 45
  deriving DecidableEq, Repr

/-- Fields of format BR; the condition stands in FN. -/
structure BrF where
  d : BitVec 5
  a : BitVec 5
  b : BitVec 5
  off : BitVec 35
  deriving DecidableEq, Repr

/-- Fields of format VV. -/
structure VvF where
  d : BitVec 5
  a : BitVec 5
  b : BitVec 5
  c : BitVec 5
  msk : BitVec 3
  mn : BitVec 1
  ew : BitVec 3
  ty : BitVec 3
  sat : BitVec 1
  rm : BitVec 3
  imm : BitVec 16
  deriving DecidableEq, Repr

/-- Fields of format VM. -/
structure VmF where
  d : BitVec 5
  a : BitVec 5
  b : BitVec 5
  c : BitVec 5
  msk : BitVec 3
  mn : BitVec 1
  ew : BitVec 3
  ord : BitVec 3
  scope : BitVec 3
  ff : BitVec 1
  off : BitVec 16
  deriving DecidableEq, Repr

/-- Fields of format SG. -/
structure SgF where
  d : BitVec 5
  a : BitVec 5
  b : BitVec 5
  trn : BitVec 4
  scope : BitVec 3
  off : BitVec 28
  deriving DecidableEq, Repr

/-- Fields of format CL. -/
structure ClF where
  d : BitVec 5
  a : BitVec 5
  b : BitVec 5
  c : BitVec 5
  cmp : BitVec 4
  kind : BitVec 4
  lreg : BitVec 5
  deriving DecidableEq, Repr

/-- Fields of format SY. -/
structure SyF where
  d : BitVec 5
  a : BitVec 5
  sreg : BitVec 12
  imm : BitVec 28
  deriving DecidableEq, Repr

/-- Fields of format BT. -/
structure BtF where
  d : BitVec 5
  a : BitVec 5
  b : BitVec 5
  msk : BitVec 3
  mn : BitVec 1
  deriving DecidableEq, Repr

/-- Where a REGISTER_WRITE event lands: a system register of the acting sequencer, a register of a
function's BAR0 (26 Table 26.7), or a policy register that service firmware writes (24 Table 24.4). -/
inductive RegTarget where
  | sys (n : BitVec 12)
  | bar0 (fn off : Nat)
  | quantum
  | grace
  | ackTmo
  | scrubPeriod
  | route (dst i : Nat)
  | poolFrame (frame : Nat)
  deriving DecidableEq, Repr

/-- One memory request of a host requester (26 R503, R305): the function, whether it is a CXL.mem request,
whether it writes, the physical address, the bytes written, the length read. -/
structure HostReq where
  fn : Nat
  cxl : Bool
  write : Bool
  addr : Nat
  data : List Byte
  len : Nat
  deriving DecidableEq, Repr

/-- What a token for a change of life cycle shows (24 R469): whether its RSASSA-PSS and its SLH-DSA signature verify. -/
structure LifeToken where
  rsa : Bool
  slh : Bool
  deriving DecidableEq, Repr

/-- The rows of the opcode table. -/
inductive Instr where
  /-- R132: Writes the 64-bit wrapping sum of two scalar registers. -/
  | add (f : RrF)
  /-- R132: Writes the 64-bit wrapping difference of two scalar registers. -/
  | sub (f : RrF)
  /-- R132: Writes the low 64 bits of the product of two scalar registers. -/
  | mul (f : RrF)
  /-- R132: Writes the high 64 bits of the signed product. -/
  | mulh (f : RrF)
  /-- R132: Writes the high 64 bits of the natural product. -/
  | mulhn (f : RrF)
  /-- R133: Signed division toward zero, with fixed results for division by zero and overflow. -/
  | div (f : RrF)
  /-- R133: Natural division, with all ones for division by zero. -/
  | divn (f : RrF)
  /-- R133: Signed remainder with the sign of the dividend, with fixed results for division by zero and overflow. -/
  | rem (f : RrF)
  /-- R133: Natural remainder; gives the dividend for division by zero. -/
  | remn (f : RrF)
  /-- R132: Bitwise AND of two scalar registers. -/
  | and (f : RrF)
  /-- R132: Bitwise OR of two scalar registers. -/
  | or (f : RrF)
  /-- R132: Bitwise XOR of two scalar registers. -/
  | xor (f : RrF)
  /-- R132: AND of one register with the complement of another. -/
  | andn (f : RrF)
  /-- R132: Shifts left by the low six bits of a register. -/
  | shl (f : RrF)
  /-- R132: Logical right shift by the low six bits of a register. -/
  | shr (f : RrF)
  /-- R132: Arithmetic right shift by the low six bits of a register. -/
  | sra (f : RrF)
  /-- R132: Rotates left by the low six bits of a register. -/
  | rotl (f : RrF)
  /-- R132: Writes the signed minimum of two registers. -/
  | min (f : RrF)
  /-- R132: Writes the signed maximum of two registers. -/
  | max (f : RrF)
  /-- R132: Writes the natural minimum of two registers. -/
  | minn (f : RrF)
  /-- R132: Writes the natural maximum of two registers. -/
  | maxn (f : RrF)
  /-- R134: Selects a or b according to whether a third register is non-zero. -/
  | sel (f : RrF)
  /-- R134: Funnel shift left over the 128-bit pair a:b. -/
  | fshl (f : RrF)
  /-- R134: Funnel shift right over the 128-bit pair a:b. -/
  | fshr (f : RrF)
  /-- R135: Adds a signed 35-bit immediate. -/
  | addi (f : RiF)
  /-- R135: ANDs with a sign-extended immediate. -/
  | andi (f : RiF)
  /-- R135: ORs with a sign-extended immediate. -/
  | ori (f : RiF)
  /-- R135: XORs with a sign-extended immediate. -/
  | xori (f : RiF)
  /-- R135: Shifts left by an immediate count. -/
  | shli (f : RiF)
  /-- R135: Logical right shift by an immediate count. -/
  | shri (f : RiF)
  /-- R135: Arithmetic right shift by an immediate count. -/
  | srai (f : RiF)
  /-- R135: Rotates left by an immediate count. -/
  | rotli (f : RiF)
  /-- R136: Extracts a zero-extended bit field. -/
  | bext (f : RiF)
  /-- R136: Inserts low bits of a register into a field of the destination. -/
  | bins (f : RiF)
  /-- R137: Counts leading zero bits. -/
  | clz (f : RrF)
  /-- R137: Counts trailing zero bits. -/
  | ctz (f : RrF)
  /-- R137: Counts one bits. -/
  | popc (f : RrF)
  /-- R147: Reads the INDEX of a loop-stack entry into a scalar register. -/
  | rdls (f : RrF)
  /-- R138: Writes 1 or 0 according to a comparison condition. -/
  | setc (cc : BitVec 3) (f : RrF)
  /-- R139: Loads a sign-extended 45-bit immediate. -/
  | li (f : LiF)
  /-- R139: Replaces bits 63 to 45 of a register with an immediate. -/
  | lih (f : LiF)
  /-- R140: Writes the PC plus a signed byte offset. -/
  | pcadd (f : RiF)
  /-- R321: Plain scalar load of 1, 2, 4 or 8 bytes, zero-extended. -/
  | ld (sz : BitVec 2) (f : RiF)
  /-- R321: Plain scalar store of 1, 2, 4 or 8 bytes. -/
  | st (sz : BitVec 2) (f : RiF)
  /-- R322: Naturally aligned scalar load with an order side at a scope. -/
  | ldOrdered (f : VmF)
  /-- R322: Naturally aligned scalar store with an order side at a scope. -/
  | stOrdered (f : VmF)
  /-- R141: Branches on a comparison of two registers. -/
  | bc (cc : BitVec 3) (f : BrF)
  /-- R142: Jumps PC-relative. -/
  | j (f : BrF)
  /-- R142: Jumps PC-relative and writes the return address. -/
  | jl (f : BrF)
  /-- R143: Jumps to a register target, writes the return address, and traps ALIGN on a misaligned target. -/
  | jr (f : RrF)
  /-- R148: Opens a counted hardware loop, or skips the body on a zero count. -/
  | loop (f : BrF)
  /-- R151: Pops the innermost loop and applies the end step at its last address. -/
  | lbrk (f : RrF)
  /-- R145: Changes only the PC. -/
  | nop (f : RrF)
  /-- R162: Element-wise wrapping add, second operand from a vector. -/
  | vaddVv (f : VvF)
  /-- R162: Element-wise wrapping add, second operand from a scalar register. -/
  | vaddVs (f : VvF)
  /-- R162: Element-wise wrapping add, second operand from an immediate. -/
  | vaddVi (f : VvF)
  /-- R162: Element-wise wrapping subtract, vector operand. -/
  | vsubVv (f : VvF)
  /-- R162: Element-wise wrapping subtract, scalar operand. -/
  | vsubVs (f : VvF)
  /-- R162: Element-wise wrapping subtract, immediate operand. -/
  | vsubVi (f : VvF)
  /-- R162: Element-wise low product, vector operand. -/
  | vmulVv (f : VvF)
  /-- R162: Element-wise low product, scalar operand. -/
  | vmulVs (f : VvF)
  /-- R162: Element-wise low product, immediate operand. -/
  | vmulVi (f : VvF)
  /-- R162: Element-wise high product, vector operand. -/
  | vmulhVv (f : VvF)
  /-- R162: Element-wise high product, scalar operand. -/
  | vmulhVs (f : VvF)
  /-- R162: Element-wise high product, immediate operand. -/
  | vmulhVi (f : VvF)
  /-- R162: Element-wise multiply-accumulate, vector operand. -/
  | vmacVv (f : VvF)
  /-- R162: Element-wise multiply-accumulate, scalar operand. -/
  | vmacVs (f : VvF)
  /-- R162: Element-wise multiply-accumulate, immediate operand. -/
  | vmacVi (f : VvF)
  /-- R162: Element-wise saturating add, vector operand. -/
  | vaddsVv (f : VvF)
  /-- R162: Element-wise saturating add, scalar operand. -/
  | vaddsVs (f : VvF)
  /-- R162: Element-wise saturating add, immediate operand. -/
  | vaddsVi (f : VvF)
  /-- R162: Element-wise saturating subtract, vector operand. -/
  | vsubsVv (f : VvF)
  /-- R162: Element-wise saturating subtract, scalar operand. -/
  | vsubsVs (f : VvF)
  /-- R162: Element-wise saturating subtract, immediate operand. -/
  | vsubsVi (f : VvF)
  /-- R162: Element-wise rounded average, vector operand. -/
  | vavgVv (f : VvF)
  /-- R162: Element-wise rounded average, scalar operand. -/
  | vavgVs (f : VvF)
  /-- R162: Element-wise rounded average, immediate operand. -/
  | vavgVi (f : VvF)
  /-- R162: Element-wise absolute difference, vector operand. -/
  | vabsdVv (f : VvF)
  /-- R162: Element-wise absolute difference, scalar operand. -/
  | vabsdVs (f : VvF)
  /-- R162: Element-wise absolute difference, immediate operand. -/
  | vabsdVi (f : VvF)
  /-- R162: Element-wise minimum, vector operand. -/
  | vminVv (f : VvF)
  /-- R162: Element-wise minimum, scalar operand. -/
  | vminVs (f : VvF)
  /-- R162: Element-wise minimum, immediate operand. -/
  | vminVi (f : VvF)
  /-- R162: Element-wise maximum, vector operand. -/
  | vmaxVv (f : VvF)
  /-- R162: Element-wise maximum, scalar operand. -/
  | vmaxVs (f : VvF)
  /-- R162: Element-wise maximum, immediate operand. -/
  | vmaxVi (f : VvF)
  /-- R162: Element-wise AND, vector operand. -/
  | vandVv (f : VvF)
  /-- R162: Element-wise AND, scalar operand. -/
  | vandVs (f : VvF)
  /-- R162: Element-wise AND, immediate operand. -/
  | vandVi (f : VvF)
  /-- R162: Element-wise OR, vector operand. -/
  | vorVv (f : VvF)
  /-- R162: Element-wise OR, scalar operand. -/
  | vorVs (f : VvF)
  /-- R162: Element-wise OR, immediate operand. -/
  | vorVi (f : VvF)
  /-- R162: Element-wise XOR, vector operand. -/
  | vxorVv (f : VvF)
  /-- R162: Element-wise XOR, scalar operand. -/
  | vxorVs (f : VvF)
  /-- R162: Element-wise XOR, immediate operand. -/
  | vxorVi (f : VvF)
  /-- R162: Element-wise left shift, vector count. -/
  | vshlVv (f : VvF)
  /-- R162: Element-wise left shift, scalar count. -/
  | vshlVs (f : VvF)
  /-- R162: Element-wise left shift, immediate count. -/
  | vshlVi (f : VvF)
  /-- R162: Element-wise logical right shift, vector count. -/
  | vshrVv (f : VvF)
  /-- R162: Element-wise logical right shift, scalar count. -/
  | vshrVs (f : VvF)
  /-- R162: Element-wise logical right shift, immediate count. -/
  | vshrVi (f : VvF)
  /-- R162: Element-wise arithmetic right shift, vector count. -/
  | vsraVv (f : VvF)
  /-- R162: Element-wise arithmetic right shift, scalar count. -/
  | vsraVs (f : VvF)
  /-- R162: Element-wise arithmetic right shift, immediate count. -/
  | vsraVi (f : VvF)
  /-- R162: Element-wise funnel shift left, vector lower half. -/
  | vfshlVv (f : VvF)
  /-- R162: Element-wise funnel shift left, scalar lower half. -/
  | vfshlVs (f : VvF)
  /-- R162: Element-wise funnel shift left, immediate lower half. -/
  | vfshlVi (f : VvF)
  /-- R162: Element-wise funnel shift right, vector lower half. -/
  | vfshrVv (f : VvF)
  /-- R162: Element-wise funnel shift right, scalar lower half. -/
  | vfshrVs (f : VvF)
  /-- R162: Element-wise funnel shift right, immediate lower half. -/
  | vfshrVi (f : VvF)
  /-- R163: Counts leading zeros of each element. -/
  | vclz (f : VvF)
  /-- R163: Counts one bits of each element. -/
  | vpopc (f : VvF)
  /-- R164: Compares elements and writes a mask register. -/
  | vcmp (f : VvF)
  /-- R165: Selects elements of two vectors under a selector mask. -/
  | vsel (f : VvF)
  /-- R167: Widens integer elements to a larger width. -/
  | vwid (f : VvF)
  /-- R167: Narrows integer elements, optionally saturating. -/
  | vnar (f : VvF)
  /-- R170: Unpacks 10-, 12- or 14-bit packed samples into 16-bit elements. -/
  | vpxu (f : VvF)
  /-- R171: Packs 16-bit elements into packed sample fields. -/
  | vpxp (f : VvF)
  /-- R173: Element-wise float add, vector operand. -/
  | vfaddVv (f : VvF)
  /-- R173: Element-wise float add, scalar operand. -/
  | vfaddVs (f : VvF)
  /-- R173: Element-wise float subtract, vector operand. -/
  | vfsubVv (f : VvF)
  /-- R173: Element-wise float subtract, scalar operand. -/
  | vfsubVs (f : VvF)
  /-- R173: Element-wise float multiply, vector operand. -/
  | vfmulVv (f : VvF)
  /-- R173: Element-wise float multiply, scalar operand. -/
  | vfmulVs (f : VvF)
  /-- R173: Element-wise fused multiply-add, vector operand. -/
  | vfmaVv (f : VvF)
  /-- R173: Element-wise fused multiply-add, scalar operand. -/
  | vfmaVs (f : VvF)
  /-- R174: Element-wise float minimum, vector operand. -/
  | vfminVv (f : VvF)
  /-- R174: Element-wise float minimum, scalar operand. -/
  | vfminVs (f : VvF)
  /-- R174: Element-wise float maximum, vector operand. -/
  | vfmaxVv (f : VvF)
  /-- R174: Element-wise float maximum, scalar operand. -/
  | vfmaxVs (f : VvF)
  /-- R173: Element-wise float divide, vector operand. -/
  | vfdivVv (f : VvF)
  /-- R173: Element-wise float divide, scalar operand. -/
  | vfdivVs (f : VvF)
  /-- R175: Correctly rounded square root of each element. -/
  | vfsqrt (f : VvF)
  /-- R175: Correctly rounded reciprocal of each element. -/
  | vfrcp (f : VvF)
  /-- R175: Correctly rounded reciprocal square root of each element. -/
  | vfrsq (f : VvF)
  /-- R175: Correctly rounded base-2 exponential of each element. -/
  | vfexp2 (f : VvF)
  /-- R175: Correctly rounded base-2 logarithm of each element. -/
  | vflog2 (f : VvF)
  /-- R177: Writes a one-hot class code for each element. -/
  | vfclass (f : VvF)
  /-- R176: Rounds each element to an integral value of its format. -/
  | vfround (f : VvF)
  /-- R178: Compares float elements and writes a mask register. -/
  | vfcmp (f : VvF)
  /-- R179: Converts elements between two float formats. -/
  | vfcvt (f : VvF)
  /-- R180: Converts elements between integer and float types. -/
  | vficvt (f : VvF)
  /-- R184: Moves one vector element to a scalar register. -/
  | vmvx (f : VvF)
  /-- R185: Writes a scalar value into element 0. -/
  | vmvs (f : VvF)
  /-- R185: Broadcasts a scalar value into every active element. -/
  | vbc (f : VvF)
  /-- R186: Slides elements up by a scalar count. -/
  | vslu (f : VvF)
  /-- R186: Slides elements down by a scalar count. -/
  | vsld (f : VvF)
  /-- R186: Gathers elements within a register by an index vector. -/
  | vperm (f : VvF)
  /-- R187: Packs active elements to the low positions. -/
  | vcomp (f : VvF)
  /-- R187: Spreads low source elements to active positions. -/
  | vexp (f : VvF)
  /-- R187: Adds the count of lower active elements to each active element. -/
  | viota (f : VvF)
  /-- R188: Integer sum reduction into element 0. -/
  | vredsum (f : VvF)
  /-- R188: Maximum reduction into element 0. -/
  | vredmax (f : VvF)
  /-- R188: Minimum reduction into element 0. -/
  | vredmin (f : VvF)
  /-- R188: Bitwise AND reduction into element 0. -/
  | vredand (f : VvF)
  /-- R188: Bitwise OR reduction into element 0. -/
  | vredor (f : VvF)
  /-- R190: Float sum reduction into element 0, canonical or unspecified order by CANON. -/
  | vfredsum (f : VvF)
  /-- R192: Folds active elements into a canonical carry group. -/
  | vfredsumFold (f : VvF)
  /-- R192: Finishes a carry group by the pairwise tree into element 0. -/
  | vfredsumFin (f : VvF)
  /-- R192: Clears a carry group. -/
  | vfredsumInit (f : VvF)
  /-- R193: Writes the maximum, or maximum magnitude, of each group of 32 elements. -/
  | vgmax (f : VvF)
  /-- R194: Writes inclusive or exclusive running sums. -/
  | vscan (f : VvF)
  /-- R195: Mask AND. -/
  | mand (f : VvF)
  /-- R195: Mask OR. -/
  | mor (f : VvF)
  /-- R195: Mask XOR. -/
  | mxor (f : VvF)
  /-- R195: Mask AND with complement. -/
  | mandn (f : VvF)
  /-- R195: Mask complement. -/
  | mnot (f : VvF)
  /-- R196: Counts active set mask bits into a scalar register. -/
  | mpopc (f : VvF)
  /-- R196: Writes the index of the first active set mask bit, or all ones. -/
  | mfirst (f : VvF)
  /-- R198: Quantises elements into Decnor E2M1 blocks, codes and headers. -/
  | vqblk (f : VvF)
  /-- R199: Decodes E2M1 codes under block headers into float elements. -/
  | vdqblk (f : VvF)
  /-- R200: Scales block partial sums and adds them into a vector accumulator. -/
  | vsacc (f : VvF)
  /-- R324: Unit-stride vector load, all-or-nothing toward faults. -/
  | vld (f : VmF)
  /-- R325: Fault-first vector load that trims VL at the first failing element. -/
  | vldff (f : VmF)
  /-- R324: Strided vector load. -/
  | vlds (f : VmF)
  /-- R324: Indexed vector load. -/
  | vldx (f : VmF)
  /-- R327: Segment load of k fields per element into k registers. -/
  | vldseg (fn : BitVec 6) (f : VmF)
  /-- R330: Element-ordered sequentially consistent unit-stride load. -/
  | vldscUnit (f : VmF)
  /-- R330: Element-ordered sequentially consistent strided load. -/
  | vldscStrided (f : VmF)
  /-- R330: Element-ordered sequentially consistent indexed load. -/
  | vldscIndexed (f : VmF)
  /-- R324: Unit-stride vector store. -/
  | vst (f : VmF)
  /-- R324: Strided vector store. -/
  | vsts (f : VmF)
  /-- R324: Indexed vector store. -/
  | vstx (f : VmF)
  /-- R327: Segment store of k registers as k fields per element. -/
  | vstseg (fn : BitVec 6) (f : VmF)
  /-- R329: Stores a scalar-counted run of bytes under a byte mask. -/
  | vstbm (f : VmF)
  /-- R330: Element-ordered sequentially consistent unit-stride store. -/
  | vstscUnit (f : VmF)
  /-- R330: Element-ordered sequentially consistent strided store. -/
  | vstscStrided (f : VmF)
  /-- R330: Element-ordered sequentially consistent indexed store. -/
  | vstscIndexed (f : VmF)
  /-- R331: Atomic swap. -/
  | amoSwap (f : VmF)
  /-- R331: Atomic compare-and-swap. -/
  | amoCas (f : VmF)
  /-- R331: Atomic add. -/
  | amoAdd (f : VmF)
  /-- R331: Atomic AND. -/
  | amoAnd (f : VmF)
  /-- R331: Atomic OR. -/
  | amoOr (f : VmF)
  /-- R331: Atomic XOR. -/
  | amoXor (f : VmF)
  /-- R331: Atomic signed minimum. -/
  | amoMin (f : VmF)
  /-- R331: Atomic signed maximum. -/
  | amoMax (f : VmF)
  /-- R331: Atomic natural minimum. -/
  | amoMinn (f : VmF)
  /-- R331: Atomic natural maximum. -/
  | amoMaxn (f : VmF)
  /-- R332: Per-element atomic swap. -/
  | vamoSwap (f : VmF)
  /-- R332: Per-element atomic compare-and-swap. -/
  | vamoCas (f : VmF)
  /-- R332: Per-element atomic add. -/
  | vamoAdd (f : VmF)
  /-- R332: Per-element atomic AND. -/
  | vamoAnd (f : VmF)
  /-- R332: Per-element atomic OR. -/
  | vamoOr (f : VmF)
  /-- R332: Per-element atomic XOR. -/
  | vamoXor (f : VmF)
  /-- R332: Per-element atomic signed minimum. -/
  | vamoMin (f : VmF)
  /-- R332: Per-element atomic signed maximum. -/
  | vamoMax (f : VmF)
  /-- R332: Per-element atomic natural minimum. -/
  | vamoMinn (f : VmF)
  /-- R332: Per-element atomic natural maximum. -/
  | vamoMaxn (f : VmF)
  /-- R333: Scatter-adds elements to memory through the combining units without waiting. -/
  | vsadd (f : VmF)
  /-- R313: A combining unit performs a pending scatter-add as a read-modify-write. -/
  | scatterAddPerform (n : Nat)
  /-- R334: Waits for, or polls the count of, older vector memory instructions of selected classes. -/
  | vwait (f : RrF)
  /-- R335: Gives scoped ordering edges, and a ticket under sc. -/
  | fence (f : VmF)
  /-- R336: Walks the translation and reports the mapping without accessing memory. -/
  | probe (f : VmF)
  /-- R411: Initialises a barrier line with scope and expected count. -/
  | binit (f : RrF)
  /-- R411: Arrives on a barrier with a count of 1 or a mask popcount, with a release side. -/
  | arrive (f : RrF)
  /-- R411: Waits for a barrier to complete, then reads it with an acquire side. -/
  | bwait (f : RrF)
  /-- R411: A parked bwait completes once an arrival makes the barrier complete. -/
  | barrierWaitWake (n : Nat)
  /-- R357: Staged load that performs a named transition. -/
  | sld (sz : BitVec 2) (f : SgF)
  /-- R357: Staged store that performs a named transition. -/
  | sst (sz : BitVec 2) (f : SgF)
  /-- R357: Performs a staged transition with no data and returns the old state. -/
  | strn (f : SgF)
  /-- R354: Loads a staged table image into a table slot. -/
  | stbl (f : RiF)
  /-- R355: Binds a range of lines to a table slot in state 0. -/
  | sbind (f : RiF)
  /-- R356: Removes a binding with an exact range. -/
  | sunbind (f : RiF)
  /-- R358: Reads a line's staged state and park count. -/
  | sqry (f : SgF)
  /-- R347: After a transition on a line, parked accesses are re-judged in FIFO order and performed when legal. -/
  | parkRejudge (line : Nat)
  /-- R349: A sequencer access parked for PARKLIM cycles leaves the FIFO and traps. -/
  | parkLimit (n : Nat)
  /-- R254: Defines a column descriptor. -/
  | cdef (f : ClF)
  /-- R256: Loads column rows into a vector register. -/
  | cld (f : ClF)
  /-- R257: Appends active vector elements to a column. -/
  | cst (f : ClF)
  /-- R255: Reads a column's LEN. -/
  | clen (f : ClF)
  /-- R255: Reads a column's PEND. -/
  | cpend (f : ClF)
  /-- R255: Sets a column's LEN to 0. -/
  | cclr (f : ClF)
  /-- R258: Selects rows comparing against a scalar into a position list. -/
  | cselScalar (f : ClF)
  /-- R258: Selects rows comparing two columns row by row. -/
  | cselColumn (f : ClF)
  /-- R258: Selects rows named by an input position list. -/
  | cselList (f : ClF)
  /-- R259: Gathers column values by position list. -/
  | cprj (f : ClF)
  /-- R260: Inner join emitting left and right position pairs. -/
  | cjoinInner (f : ClF)
  /-- R260: Semi join emitting matching left rows. -/
  | cjoinSemi (f : ClF)
  /-- R260: Anti join emitting unmatched left rows. -/
  | cjoinAnti (f : ClF)
  /-- R261: Numbers runs of equal keys and records run starts. -/
  | cgrp (f : ClF)
  /-- R262: Counts rows per group of keys. -/
  | caggCnt (f : ClF)
  /-- R263: Sums values per group of keys. -/
  | caggSum (f : ClF)
  /-- R262: Least value per group of keys. -/
  | caggMin (f : ClF)
  /-- R262: Greatest value per group of keys. -/
  | caggMax (f : ClF)
  /-- R262: Counts the rows of a whole column. -/
  | caggCntWhole (f : ClF)
  /-- R263: Sums a whole column. -/
  | caggSumWhole (f : ClF)
  /-- R262: Least value of a whole column. -/
  | caggMinWhole (f : ClF)
  /-- R262: Greatest value of a whole column. -/
  | caggMaxWhole (f : ClF)
  /-- R264: Stable ascending sort into a position list. -/
  | csort (f : ClF)
  /-- R264: Stable descending sort into a position list. -/
  | csortDesc (f : ClF)
  /-- R264: Emits the lowest row of each distinct key. -/
  | cuniq (f : ClF)
  /-- R264: Emits the k largest rows. -/
  | ctopk (f : ClF)
  /-- R264: Emits the k smallest rows. -/
  | ctopkMin (f : ClF)
  /-- R224: Checks and copies a tile-task record to the cluster scheduler and returns a handle or refusal code. -/
  | tenq (f : RrF)
  /-- R225: Returns a task's status. -/
  | tqry (f : RrF)
  /-- R226: Requests cancellation of a task. -/
  | tcancel (f : RrF)
  /-- R362: Judges and accepts engine command records from vector registers and writes a result mask. -/
  | batch (f : BtF)
  /-- R373: Swaps the frames of publish pairs as one event. -/
  | publ (f : RrF)
  /-- R387: Loads a transducer table image into a transducer slot. -/
  | xtbl (f : RiF)
  /-- R448: Reads a system register. -/
  | csrr (f : SyF)
  /-- R448: Writes a system register and returns its old value. -/
  | csrw (f : SyF)
  /-- R448: Sets bits of a system register and returns its old value. -/
  | csrs (f : SyF)
  /-- R448: Clears bits of a system register and returns its old value. -/
  | csrc (f : SyF)
  /-- R449: Completes and raises TRAPI. -/
  | trap (f : SyF)
  /-- R450: Returns from a trap handler. -/
  | rft (f : SyF)
  /-- R451: Makes the sequencer's earlier stores fetchable. -/
  | isync (f : SyF)
  /-- R452: Stops the instance as a halted landing. -/
  | halt (f : SyF)
  /-- R449: Completes and raises BRKPT. -/
  | brk (f : SyF)
  /-- R453: Invalidates the context's TLB entries for one page package-wide. -/
  | tlbinvPage (f : SyF)
  /-- R453: Invalidates every TLB entry of the context package-wide. -/
  | tlbinvAll (f : SyF)
  /-- R454: Writes vector state to a vector save block. -/
  | vsave (f : SyF)
  /-- R455: Loads vector state from a vector save block. -/
  | vrest (f : SyF)
  /-- R402: Checks and submits a launch record to the Headframe. -/
  | launch (f : RrF)
  /-- R407: Offers an instruction boundary for switching out. -/
  | yield (f : RrF)
  /-- R406: Ends the instance and frees its sequencer and lane group. -/
  | exit (f : RrF)
  /-- R414: Opens the next chute slot for filling. -/
  | chputOpen (f : RrF)
  /-- R414: Writes the slot header and makes the slot FULL. -/
  | chputClose (f : RrF)
  /-- R414: Opens the next FULL chute slot for draining. -/
  | chgetOpen (f : RrF)
  /-- R414: Returns a drained chute slot to EMPTY. -/
  | chgetClose (f : RrF)
  /-- R412: Binds WMARK to a watermark line and waits for a count. -/
  | wmbind (f : RrF)
  /-- R412: Raises a watermark count with a release side. -/
  | wmpub (f : RrF)
  /-- R412: A parked wmbind completes once COUNT reaches its target. -/
  | watermarkWaitWake (n : Nat)
  /-- R72: Requests a vector length and type, waiting for a lane group if needed. -/
  | setvl (f : VvF)
  /-- R73: Sets the number of vector registers and zeroes vector state. -/
  | vcfg (f : VvF)
  /-- R446: An enabled breakpoint matches before an instruction and raises BRKPT or halts. -/
  | breakpointMatch (n : Nat)
  /-- R482: A checking-lane mismatch reissues the window, and a third mismatch ends the context. -/
  | checkLaneMismatch (n : Nat)
  /-- R436: An imprecise POISON or MCHECK stops every instance of the context and cancels its tasks and commands. -/
  | contextEnd (mcheck : Bool)
  /-- R442: The save sequencer saves the former owner's vector state and restores the newcomer's. -/
  | vfirst
  /-- R438: A pre-emption request lands, saves the instance and releases its lane group. -/
  | preempt (q : Nat)
  /-- R437: After PREEMPT_GRACE cycles a pending request lands at any instruction boundary. -/
  | preemptGraceExpiry (q : Nat)
  /-- R443: The Headframe resumes an instance with a lane group of its saved VLMAX. -/
  | switchIn (n q : Nat)
  /-- R400: The Headframe starts a stage instance with its initial state. -/
  | instanceStart (serial stage q : Nat)
  /-- R403: When every instance has exited, chute lines are unbound and the completion is performed. -/
  | launchEnd (serial : Nat)
  /-- R409: A launch waiting 2^24 cycles with no start is raised one priority class. -/
  | launchAging (serial : Nat)
  /-- R425: An instance that has run a full quantum while another waits may be switched out. -/
  | quantumExpiry (q : Nat)
  /-- R417: The Headframe decides a new lane partition when the set of wanting sequencers changes. -/
  | laneRepartition (core : Nat)
  /-- R418: A sequencer waiting in setvl is granted a lane group. -/
  | laneGrant (q : Nat)
  /-- R419: A holder that has not applied a repartition within 65,536 cycles is pre-empted. -/
  | repartitionTimeout (q : Nat)
  /-- R420: The power controller halves or doubles a core's power cap. -/
  | pcapAdjust (core : Nat) (up : Bool)
  /-- R221: The scheduler performs a task's wait transition when legal. -/
  | taskWaitEntry (h : Word)
  /-- R422: The scheduler issues a READY task to a free matrix engine. -/
  | taskIssue (cluster : Nat)
  /-- R422: A READY task that has waited 2^20 cycles is raised one class. -/
  | taskAging (h : Word)
  /-- R220: An interrupted task is resumed from its spill area on an engine. -/
  | taskResume (cluster : Nat)
  /-- R222: After the last step the scheduler writes STATUS and performs the signal entries. -/
  | taskDone (h : Word)
  /-- R208: Loads an A panel into an A slot of the operand latch. -/
  | lda (h : Word)
  /-- R208: Loads a B panel into a B slot of the operand latch. -/
  | ldb (h : Word)
  /-- R211: Forms the products of one K-block into a tile or the partial-sum buffer. -/
  | mma (h : Word)
  /-- R212: Scales the partial-sum buffer and adds it into a tile. -/
  | sacc (h : Word)
  /-- R213: Converts a tile and writes its rows to memory. -/
  | acvt (h : Word)
  /-- R215: Clears tiles and optionally the partial-sum buffer. -/
  | zero (h : Word)
  /-- R210: Loads sparsity bitmaps for a latch slot. -/
  | spmask (h : Word)
  /-- R216: Performs a staged transition of kind engine from a task. -/
  | trn (h : Word)
  /-- R374: Copies SIZE bytes from SRC to DST, carrying line poison. -/
  | copy (id : Nat)
  /-- R374: Writes a repeated 8-byte pattern. -/
  | fill (id : Nat)
  /-- R377: Converts elements between formats, including block and error-feedback conversions. -/
  | cvt (id : Nat)
  /-- R382: Decodes a Sluice block stream, optionally through a transducer lane. -/
  | decode (id : Nat)
  /-- R381: Encodes 4 KiB blocks into a Sluice block stream. -/
  | encode (id : Nat)
  /-- R384: Unpacks packed samples into 16-bit values. -/
  | xformUnpack (id : Nat)
  /-- R385: Runs a transducer table over source bytes into four ways. -/
  | xformRun (id : Nat)
  /-- R389: Reads an NVMe namespace into memory through submission queues. -/
  | storrd (id : Nat)
  /-- R389: A STORRD consumes an NVMe completion entry and rings the CQ doorbell. -/
  | nvmeCompletion (id : Nat)
  /-- R389: TMO expiry fails a STORRD with IOERR and closes its aperture windows. -/
  | storrdTimeout (id : Nat)
  /-- R368: A command writes its status and performs its completion signal. -/
  | commandComplete (id : Nat)
  /-- R279: The Headframe sets MIG on a FLOAT page and copies it into an attic frame. -/
  | migrationStart (ctx va : Nat)
  /-- R279: After the copy the Headframe replaces the entry, invalidates TLBs and releases stalled accesses. -/
  | migrationPublish (n : Nat)
  /-- R509: A written line is later written to the DRAM array across the bus. -/
  | lineWriteback (line : Nat)
  /-- R479: The patrol scrubber reads, decodes and writes back a row's lines. -/
  | scrubRead (line : Nat)
  /-- R482: A mesh or die link CRC failure is retried and logged, and 16 failures stop the package. -/
  | meshLinkRetry (die link attempts : Nat)
  /-- R491: Arms a DRAM cell injection on a target line. -/
  | errinjDramCell (v : Word)
  /-- R491: Arms a one-attempt vertical-bus parity injection. -/
  | errinjBusOnce (v : Word)
  /-- R491: Arms a stuck pin-group injection for COUNT attempts. -/
  | errinjBusStuck (v : Word)
  /-- R486: A read of a bank STAT with V = 1 sets SEEN. -/
  | errbankStatRead (die bank : Nat)
  /-- R487: Writing 1 to STAT.V clears the whole bank. -/
  | errbankClear (die bank : Nat)
  /-- R413: Reads the bound watermark COUNT with an acquire side. -/
  | wmarkRead
  /-- R9: A write to a register with no behaviour of its own. -/
  | registerWrite (t : RegTarget) (v : Word)
  /-- R492: A port checks a received flit's CRC and acknowledges or NAKs it. -/
  | flitReceive (port : Nat) (flit : List Byte)
  /-- R492: Sixteen failed retransmissions or 2^16 silent cycles take a port down. -/
  | linkDown (port : Nat)
  /-- R496: A remote read is served through an export entry and answered. -/
  | rd (port : Nat)
  /-- R496: A remote write is served through an export entry. -/
  | wr (port : Nat)
  /-- R499: A remote atomic is performed once and its response cached. -/
  | atomicRemote (port : Nat)
  /-- R352: A remote staged access is judged, parked or performed at the owning device. -/
  | sa (port : Nat)
  /-- R496: A remote scatter-add is performed at the owning device. -/
  | sadd (port : Nat)
  /-- R497: A response completes an outstanding remote request, delivering faults precisely. -/
  | rsp (port : Nat)
  /-- R498: An acknowledgement frees retry-buffer entries below OPND. -/
  | ack (port : Nat)
  /-- R500: Withdraws a parked remote staged access for PARK_LIMIT. -/
  | wdr (port : Nat)
  /-- R501: On port down or ACKTMO a window moves to the next route and replays. -/
  | routeMove (dst cls : Nat)
  /-- R305: A host PCIe or CXL.mem requester accesses device memory. -/
  | hostMemRequest (r : HostReq)
  /-- R503: An inbound peer write to the aperture lands through a Sluice lane. -/
  | peerApertureWrite (id : Nat) (off : Nat) (data : List Byte)
  /-- R463: Writes a context's isolation entry. -/
  | createReq (fn : Nat)
  /-- R463: Sets a context's TVL. -/
  | settvl (fn : Nat)
  /-- R463: Lands and saves every instance of a context. -/
  | suspend (fn : Nat)
  /-- R463: Makes suspended and halted instances eligible again. -/
  | resume (fn : Nat)
  /-- R446: Writes one breakpoint register of a context. -/
  | setbp (fn : Nat)
  /-- R464: Ends, cancels, unbinds and zeroes a context and frees it. -/
  | teardown (fn : Nat)
  /-- R468: Produces a signed attestation report. -/
  | attest (fn : Nat)
  /-- R495: Writes a fabric window entry. -/
  | winmap (fn : Nat)
  /-- R496: Writes an export entry. -/
  | exportReq (fn : Nat)
  /-- R504: Writes the power limit and throttle threshold from the physical function. -/
  | pwrset (fn : Nat)
  /-- R504: Returns THERM and the average package power. -/
  | pwrget (fn : Nat)
  /-- R505: Enables a host queue for a context the function owns. -/
  | qctlWrite (fn q : Nat) (v : Word)
  /-- R506: Writes a host queue TAIL, or PTAIL while the queue is switched out. -/
  | hostqTailWrite (fn q : Nat) (v : Word)
  /-- R505: The Headframe consumes a host queue entry and launches its record. -/
  | hostqEntry (fn q : Nat)
  /-- R506: A host queue's state is saved to its memory descriptor. -/
  | hostqSwitchOut (fn q : Nat)
  /-- R506: A host queue is restored, taking PTAIL when valid. -/
  | hostqSwitchIn (fn q : Nat)
  /-- R513: Writes the power limit and throttle threshold. -/
  | thermWrite (v : Word)
  /-- R514: Every 2^20 cycles PCAP halves or doubles per die against TTHR. -/
  | thermalThrottle (die temp : Nat)
  /-- R514: A die at 110 C ends every context and stops the package. -/
  | thermalTrip (die : Nat)
  /-- R518: Reads and clears the management event register. -/
  | evtRead
  /-- R517: Writes the device number while no window is mapped. -/
  | deviceNumberWrite (v : Word)
  /-- R517: An SMBus Block Write to a management index. -/
  | mgmtBlockWrite (ix : Nat) (v : Word)
  /-- R517: An SMBus Block Read from a management index. -/
  | mgmtBlockRead (ix : Nat)
  /-- R515: Runs link training, boot, DRAM training, wipe and link bring-up. -/
  | coldReset
  /-- R464: Tears down every context of a virtual function. -/
  | functionLevelReset (fn : Nat)
  /-- R469: Advances the life-cycle state, derives keys and wipes. -/
  | lifeCycleChange (token : LifeToken)
  /-- R466: Trusted firmware stops every context and waits for reset. -/
  | serviceFirmwareFault
  /-- R96: Program order reaches a word whose OP is reserved or whose function is unassigned, and it traps ILLEGAL. -/
  | nonInstructionWord (w : Word)
  /-- R144: An instruction fetch meets an unmapped, non-executable or poisoned target and raises XLATE, PROT or POISON at the fetch. -/
  | fetchFault
  /-- R492: Service firmware retrains a Linkirun port that is down, bringing it up again. -/
  | linkRetrain (port : Nat)
  /-- R502: Service firmware clears the unreachable mark of a destination device. -/
  | destinationMarkClear (dev : Nat)
  /-- R464: Trusted firmware takes a frame from one tenant, wipes it and assigns it to another. -/
  | frameReassign (frame tenant : Nat)
  deriving DecidableEq, Repr

end Sys2Proof
end

