-- ==== Sys2Proof/Machine/Opcode.lean ====
section
/-! DEFINITION. The instruction words as words: their fields (04 Table 4.1) and the functions that OP and FN name
(04 Table 4.6), as a plain enumeration `Op` beside the constructors of `Instr` that carry operands. -/
namespace Sys2Proof

/-- OP, bits [63:56] (R81). -/
def opOf (w : Word) : Nat := (w.extractLsb' 56 8).toNat
/-- FN, bits [55:50] (R81). -/
def fnOf (w : Word) : Nat := (w.extractLsb' 50 6).toNat

/-- The fields of format RR. -/
def rrOf (w : Word) : RrF :=
  { d := w.extractLsb' 45 5, a := w.extractLsb' 40 5, b := w.extractLsb' 35 5, c := w.extractLsb' 30 5 }
/-- The fields of format RI. -/
def riOf (w : Word) : RiF :=
  { d := w.extractLsb' 45 5, a := w.extractLsb' 40 5, b := w.extractLsb' 35 5, imm := w.extractLsb' 0 35 }
/-- The fields of format LI. -/
def liOf (w : Word) : LiF := { d := w.extractLsb' 45 5, imm := w.extractLsb' 0 45 }
/-- The fields of format BR. -/
def brOf (w : Word) : BrF :=
  { d := w.extractLsb' 45 5, a := w.extractLsb' 40 5, b := w.extractLsb' 35 5, off := w.extractLsb' 0 35 }
/-- The fields of format VV. -/
def vvOf (w : Word) : VvF :=
  { d := w.extractLsb' 45 5, a := w.extractLsb' 40 5, b := w.extractLsb' 35 5, c := w.extractLsb' 30 5
    msk := w.extractLsb' 27 3, mn := w.extractLsb' 26 1, ew := w.extractLsb' 23 3, ty := w.extractLsb' 20 3
    sat := w.extractLsb' 19 1, rm := w.extractLsb' 16 3, imm := w.extractLsb' 0 16 }
/-- The fields of format VM. -/
def vmOf (w : Word) : VmF :=
  { d := w.extractLsb' 45 5, a := w.extractLsb' 40 5, b := w.extractLsb' 35 5, c := w.extractLsb' 30 5
    msk := w.extractLsb' 27 3, mn := w.extractLsb' 26 1, ew := w.extractLsb' 23 3, ord := w.extractLsb' 20 3
    scope := w.extractLsb' 17 3, ff := w.extractLsb' 16 1, off := w.extractLsb' 0 16 }
/-- The fields of format SG. -/
def sgOf (w : Word) : SgF :=
  { d := w.extractLsb' 45 5, a := w.extractLsb' 40 5, b := w.extractLsb' 35 5, trn := w.extractLsb' 31 4
    scope := w.extractLsb' 28 3, off := w.extractLsb' 0 28 }
/-- The fields of format CL. -/
def clOf (w : Word) : ClF :=
  { d := w.extractLsb' 45 5, a := w.extractLsb' 40 5, b := w.extractLsb' 35 5, c := w.extractLsb' 30 5
    cmp := w.extractLsb' 26 4, kind := w.extractLsb' 22 4, lreg := w.extractLsb' 17 5 }
/-- The fields of format SY. -/
def syOf (w : Word) : SyF :=
  { d := w.extractLsb' 45 5, a := w.extractLsb' 40 5, sreg := w.extractLsb' 28 12, imm := w.extractLsb' 0 28 }
/-- The fields of format BT. -/
def btOf (w : Word) : BtF :=
  { d := w.extractLsb' 45 5, a := w.extractLsb' 40 5, b := w.extractLsb' 35 5, msk := w.extractLsb' 27 3
    mn := w.extractLsb' 26 1 }


/-- The instructions of 04 Table 4.6, without their operands. -/
inductive Op where
  | add | sub | mul | mulh | mulhn | div | divn | rem | remn | and | or | xor | andn | shl | shr | sra | rotl
  | min | max | minn | maxn | sel | fshl | fshr | addi | andi | ori | xori | shli | shri | srai | rotli | bext
  | bins | clz | ctz | popc | rdls | setc | li | lih | pcadd | ld | st | ldOrdered | stOrdered | bc | j | jl
  | jr | loop | lbrk | nop | vaddVv | vaddVs | vaddVi | vsubVv | vsubVs | vsubVi | vmulVv | vmulVs | vmulVi
  | vmulhVv | vmulhVs | vmulhVi | vmacVv | vmacVs | vmacVi | vaddsVv | vaddsVs | vaddsVi | vsubsVv | vsubsVs
  | vsubsVi | vavgVv | vavgVs | vavgVi | vabsdVv | vabsdVs | vabsdVi | vminVv | vminVs | vminVi | vmaxVv
  | vmaxVs | vmaxVi | vandVv | vandVs | vandVi | vorVv | vorVs | vorVi | vxorVv | vxorVs | vxorVi | vshlVv
  | vshlVs | vshlVi | vshrVv | vshrVs | vshrVi | vsraVv | vsraVs | vsraVi | vfshlVv | vfshlVs | vfshlVi
  | vfshrVv | vfshrVs | vfshrVi | vclz | vpopc | vcmp | vsel | vwid | vnar | vpxu | vpxp | vfaddVv | vfaddVs
  | vfsubVv | vfsubVs | vfmulVv | vfmulVs | vfmaVv | vfmaVs | vfminVv | vfminVs | vfmaxVv | vfmaxVs | vfdivVv
  | vfdivVs | vfsqrt | vfrcp | vfrsq | vfexp2 | vflog2 | vfclass | vfround | vfcmp | vfcvt | vficvt | vmvx
  | vmvs | vbc | vslu | vsld | vperm | vcomp | vexp | viota | vredsum | vredmax | vredmin | vredand | vredor
  | vfredsum | vfredsumFold | vfredsumFin | vfredsumInit | vgmax | vscan | mand | mor | mxor | mandn | mnot
  | mpopc | mfirst | vqblk | vdqblk | vsacc | vld | vldff | vlds | vldx | vldseg | vldscUnit | vldscStrided
  | vldscIndexed | vst | vsts | vstx | vstseg | vstbm | vstscUnit | vstscStrided | vstscIndexed | amoSwap
  | amoCas | amoAdd | amoAnd | amoOr | amoXor | amoMin | amoMax | amoMinn | amoMaxn | vamoSwap | vamoCas
  | vamoAdd | vamoAnd | vamoOr | vamoXor | vamoMin | vamoMax | vamoMinn | vamoMaxn | vsadd | vwait | fence
  | probe | binit | arrive | bwait | sld | sst | strn | stbl | sbind | sunbind | sqry | cdef | cld | cst
  | clen | cpend | cclr | cselScalar | cselColumn | cselList | cprj | cjoinInner | cjoinSemi | cjoinAnti
  | cgrp | caggCnt | caggSum | caggMin | caggMax | caggCntWhole | caggSumWhole | caggMinWhole | caggMaxWhole
  | csort | csortDesc | cuniq | ctopk | ctopkMin | tenq | tqry | tcancel | batch | publ | xtbl | csrr | csrw
  | csrs | csrc | trap | rft | isync | halt | brk | tlbinvPage | tlbinvAll | vsave | vrest | launch | yield
  | exit | chputOpen | chputClose | chgetOpen | chgetClose | wmbind | wmpub | setvl | vcfg
  deriving DecidableEq, Repr

end Sys2Proof
end

