-- ==== Sys2Proof/Machine/Legal.lean ====
section
/-! DEFINITION. The checks of 04 Table 4.7 that read the word alone: reserved fields (step 3), codes, register
numbers and immediates (step 4), implemented type combinations (step 5). -/
namespace Sys2Proof.Legal
open Sys2Proof

/-- Table 2.1: the pairs of EW and TY that are types. -/
def pairOk (ew ty : BitVec 3) : Bool :=
  match ty.toNat with
  | 0 | 1 => ew.toNat ≤ 3
  | 2 => 1 ≤ ew.toNat && ew.toNat ≤ 3
  | 3 => ew.toNat == 1
  | 4 | 5 => ew.toNat == 0
  | 6 => ew.toNat == 4
  | _ => false

/-- R85: codes that an instruction that reads EW and TY accepts at all. -/
def codesOk (ew ty : BitVec 3) : Bool := ew.toNat ≤ 4 && ty.toNat ≤ 6

/-- TY 000b or 001b. -/
def isInt (ty : BitVec 3) : Bool := ty.toNat ≤ 1

/-- TY 010b or 011b. -/
def isIeee (ty : BitVec 3) : Bool := ty.toNat == 2 || ty.toNat == 3

/-- The source EW of a two-type instruction (R87). -/
def srcEw (f : VvF) : BitVec 3 := f.imm.extractLsb' 3 3

/-- The source TY of a two-type instruction (R87). -/
def srcTy (f : VvF) : BitVec 3 := f.imm.extractLsb' 0 3

/-- The formats of R179: `.f16`, `.bf16`, `.f32`, `.f64`, `.e4m3`, `.e5m2`. -/
def floatPair (ew ty : BitVec 3) : Bool := pairOk ew ty && 2 ≤ ty.toNat && ty.toNat ≤ 5

/-- The formats of R172: `.f16`, `.bf16`, `.f32`, `.f64`. -/
def ieeePair (ew ty : BitVec 3) : Bool := pairOk ew ty && isIeee ty

/-- The integer types of Table 2.1. -/
def intPair (ew ty : BitVec 3) : Bool := pairOk ew ty && isInt ty

/-- `.f16`, `.bf16` or `.f32`: the quantiser's formats (R120). -/
def quantPair (ew ty : BitVec 3) : Bool := ieeePair ew ty && ew.toNat ≤ 2

/-- `.e2m1`. -/
def e2m1Pair (ew ty : BitVec 3) : Bool := ew.toNat == 4 && ty.toNat == 6

/-- RR with D, A and B used. -/
def rrAbc (f : RrF) : Bool := f.c == 0
/-- RR with D and A used. -/
def rrAb (f : RrF) : Bool := f.b == 0 && f.c == 0
/-- RR with no field used. -/
def rrNone (f : RrF) : Bool := f.d == 0 && f.a == 0 && f.b == 0 && f.c == 0

/-- VV with SAT, RM and IMM16 reserved. -/
def vvPlain (f : VvF) : Bool := f.sat == 0 && f.rm == 0 && f.imm == 0
/-- Integer binary forms under OP 0x20 and 0x28 (R161). -/
def vvInt (f : VvF) : Bool := f.c == 0 && vvPlain f
/-- Integer binary forms under OP 0x30 (R161). -/
def vvImm (f : VvF) : Bool := f.b == 0 && f.c == 0 && f.sat == 0 && f.rm == 0
/-- `vmac`, `vfshl` and `vfshr` under OP 0x30. -/
def vvImmC (f : VvF) : Bool := f.b == 0 && f.sat == 0 && f.rm == 0
/-- Float binary forms that read RM (R172). -/
def vvFlt (f : VvF) : Bool := f.c == 0 && f.sat == 0 && f.imm == 0
/-- Float unary forms that read RM (R175). -/
def vvUn (f : VvF) : Bool := f.b == 0 && f.c == 0 && f.sat == 0 && f.imm == 0
/-- Bits [15:n] of IMM16 are zero. -/
def immHi (f : VvF) (n : Nat) : Bool := f.imm.toNat < 2 ^ n
/-- Reductions: B and C reserved (R188). -/
def vvRed (f : VvF) : Bool := f.b == 0 && f.c == 0

/-- Table 4.7 step 3: every reserved field, unused register field and reserved sub-field of the
constructor's format is zero. Bits outside the fields of the format are checked on the word. Of `vscan` RM is read, and SAT
reserved, for every TY that is no integer, the reserved 111b too, which step 4 then refuses (DESIGN CHOICE, log 67). -/
def rsvdOk (o : Op) (w : Word) : Bool :=
  match o with
  | .add | .sub | .mul | .mulh | .mulhn | .div | .divn | .rem | .remn | .and | .or | .xor | .andn | .shl
  | .shr | .sra | .rotl | .min | .max | .minn | .maxn => rrAbc (rrOf w)
  | .setc => rrAbc (rrOf w)
  | .binit | .arrive | .publ | .launch | .chputOpen | .chputClose | .wmbind | .wmpub => rrAbc (rrOf w)
  | .clz | .ctz | .popc | .rdls | .jr | .vwait | .bwait | .tenq | .tqry | .tcancel | .chgetOpen | .chgetClose => rrAb (rrOf w)
  | .lbrk | .nop | .yield | .exit => rrNone (rrOf w)
  | .addi | .andi | .ori | .xori | .shli | .shri | .srai | .rotli => (riOf w).b == 0
  | .bext | .bins => (riOf w).b == 0 && (riOf w).imm.toNat < 2 ^ 13
  | .pcadd => (riOf w).a == 0 && (riOf w).b == 0
  | .ld => (riOf w).b == 0
  | .st => (riOf w).d == 0
  | .stbl | .sunbind => (riOf w).imm == 0
  | .sbind => (riOf w).imm.toNat < 2 ^ 4
  | .xtbl => (riOf w).b == 0 && (riOf w).imm.toNat < 2 ^ 3
  | .bc => (brOf w).d == 0
  | .j => (brOf w).d == 0 && (brOf w).a == 0 && (brOf w).b == 0
  | .jl => (brOf w).a == 0 && (brOf w).b == 0
  | .loop => (brOf w).d == 0 && (brOf w).b == 0
  | .vaddVv | .vaddVs | .vsubVv | .vsubVs | .vmulVv | .vmulVs | .vmulhVv | .vmulhVs | .vaddsVv | .vaddsVs
  | .vsubsVv | .vsubsVs | .vavgVv | .vavgVs | .vabsdVv | .vabsdVs | .vminVv | .vminVs | .vmaxVv | .vmaxVs
  | .vandVv | .vandVs | .vorVv | .vorVs | .vxorVv | .vxorVs | .vshlVv | .vshlVs | .vshrVv | .vshrVs | .vsraVv
  | .vsraVs => vvInt (vvOf w)
  | .vmacVv | .vmacVs | .vfshlVv | .vfshlVs | .vfshrVv | .vfshrVs => vvPlain (vvOf w)
  | .vaddVi | .vsubVi | .vmulVi | .vmulhVi | .vaddsVi | .vsubsVi | .vavgVi | .vabsdVi | .vminVi | .vmaxVi
  | .vandVi | .vorVi | .vxorVi | .vshlVi | .vshrVi | .vsraVi => vvImm (vvOf w)
  | .vmacVi | .vfshlVi | .vfshrVi => vvImmC (vvOf w)
  | .vclz | .vpopc => (vvOf w).b == 0 && (vvOf w).c == 0 && vvPlain (vvOf w)
  | .vcmp | .vfcmp => (vvOf w).c == 0 && (vvOf w).sat == 0 && (vvOf w).rm == 0 && immHi (vvOf w) 4
  | .vsel => (vvOf w).c == 0 && (vvOf w).sat == 0 && (vvOf w).rm == 0 && immHi (vvOf w) 3
  | .vwid => vvRed (vvOf w) && (vvOf w).sat == 0 && (vvOf w).rm == 0 && immHi (vvOf w) 6
  | .vnar => vvRed (vvOf w) && (vvOf w).rm == 0 && immHi (vvOf w) 6
  | .vpxu => vvRed (vvOf w) && (vvOf w).sat == 0 && (vvOf w).rm == 0 && immHi (vvOf w) 5
  | .vpxp => vvRed (vvOf w) && (vvOf w).rm == 0 && immHi (vvOf w) 5
  | .vfaddVv | .vfaddVs | .vfsubVv | .vfsubVs | .vfmulVv | .vfmulVs | .vfdivVv | .vfdivVs => vvFlt (vvOf w)
  | .vfmaVv | .vfmaVs => (vvOf w).sat == 0 && (vvOf w).imm == 0
  | .vfminVv | .vfminVs | .vfmaxVv | .vfmaxVs => vvInt (vvOf w)
  | .vfsqrt | .vfrcp | .vfrsq | .vfexp2 | .vflog2 | .vfround => vvUn (vvOf w)
  | .vfclass => vvUn (vvOf w) && (vvOf w).rm == 0
  | .vfcvt => vvRed (vvOf w) && immHi (vvOf w) 6
  | .vficvt => vvRed (vvOf w) && (vvOf w).sat == 0 && immHi (vvOf w) 6
  | .vmvx => (vvOf w).c == 0 && (vvOf w).msk == 0 && (vvOf w).mn == 0 && vvPlain (vvOf w)
  | .vmvs | .vbc | .vcomp | .vexp | .viota => vvRed (vvOf w) && vvPlain (vvOf w)
  | .vslu | .vsld | .vperm => (vvOf w).c == 0 && vvPlain (vvOf w)
  | .vredsum => vvRed (vvOf w) && (vvOf w).rm == 0 && (vvOf w).imm == 0
  | .vredmax | .vredmin | .vredand | .vredor => vvRed (vvOf w) && vvPlain (vvOf w)
  | .vfredsum | .vfredsumFold | .vfredsumFin => vvRed (vvOf w) && (vvOf w).sat == 0 && immHi (vvOf w) 2
  | .vfredsumInit => vvRed (vvOf w) && (vvOf w).a == 0 && (vvOf w).msk == 0 && (vvOf w).mn == 0 && (vvOf w).sat == 0 && (vvOf w).rm == 0 && immHi (vvOf w) 2
  | .vgmax => vvRed (vvOf w) && (vvOf w).sat == 0 && (vvOf w).rm == 0 && immHi (vvOf w) 1
  | .vscan => vvRed (vvOf w) && immHi (vvOf w) 1 && (if isInt (vvOf w).ty then (vvOf w).rm == 0 else (vvOf w).sat == 0)
  | .mand | .mor | .mxor | .mandn => (vvOf w).c == 0 && (vvOf w).ew == 0 && (vvOf w).ty == 0 && vvPlain (vvOf w)
  | .mnot | .mpopc | .mfirst => vvRed (vvOf w) && (vvOf w).ew == 0 && (vvOf w).ty == 0 && vvPlain (vvOf w)
  | .vqblk => (vvOf w).c == 0 && (vvOf w).sat == 0 && (vvOf w).rm == 0 && (vvOf w).msk == 0 && (vvOf w).mn == 0 && immHi (vvOf w) 6
  | .vdqblk | .vsacc => (vvOf w).c == 0 && (vvOf w).sat == 0 && immHi (vvOf w) 6
  | .setvl => (vvOf w).b == 0 && (vvOf w).c == 0 && (vvOf w).msk == 0 && (vvOf w).mn == 0 && vvPlain (vvOf w)
  | .vcfg => (vvOf w).d == 0 && (vvOf w).a == 0 && (vvOf w).b == 0 && (vvOf w).c == 0 && (vvOf w).msk == 0 && (vvOf w).mn == 0 && (vvOf w).ew == 0 && (vvOf w).ty == 0
      && (vvOf w).sat == 0 && (vvOf w).rm == 0
  | .ldOrdered => (vmOf w).b == 0 && (vmOf w).c == 0 && (vmOf w).msk == 0 && (vmOf w).mn == 0 && (vmOf w).ff == 0
  | .stOrdered => (vmOf w).d == 0 && (vmOf w).c == 0 && (vmOf w).msk == 0 && (vmOf w).mn == 0 && (vmOf w).ff == 0
  | .vld => (vmOf w).b == 0 && (vmOf w).c == 0 && (vmOf w).ff == 0
  | .vldff => (vmOf w).b == 0 && (vmOf w).c == 0 && (vmOf w).ff == 1
  | .vldscUnit | .vst | .vstscUnit => (vmOf w).b == 0 && (vmOf w).c == 0 && (vmOf w).ff == 0
  | .vldseg | .vstseg => (vmOf w).b == 0 && (vmOf w).c == 0 && (vmOf w).ff == 0
  | .vlds | .vldx | .vsts | .vstx | .vldscStrided | .vldscIndexed | .vstscStrided | .vstscIndexed | .vsadd => (vmOf w).c == 0 && (vmOf w).ff == 0
  | .vstbm => (vmOf w).c == 0 && (vmOf w).ew == 0 && (vmOf w).ff == 0
  | .amoCas => (vmOf w).msk == 0 && (vmOf w).mn == 0 && (vmOf w).ff == 0
  | .amoSwap | .amoAdd | .amoAnd | .amoOr | .amoXor | .amoMin | .amoMax | .amoMinn | .amoMaxn =>
      (vmOf w).c == 0 && (vmOf w).msk == 0 && (vmOf w).mn == 0 && (vmOf w).ff == 0
  | .vamoSwap | .vamoCas | .vamoAdd | .vamoAnd | .vamoOr | .vamoXor | .vamoMin | .vamoMax | .vamoMinn
  | .vamoMaxn => (vmOf w).ff == 0
  | .fence => (vmOf w).d == 0 && (vmOf w).a == 0 && (vmOf w).b == 0 && (vmOf w).c == 0 && (vmOf w).msk == 0 && (vmOf w).mn == 0 && (vmOf w).ew == 0 && (vmOf w).ff == 0
      && (vmOf w).off == 0
  | .probe => (vmOf w).b == 0 && (vmOf w).c == 0 && (vmOf w).msk == 0 && (vmOf w).mn == 0 && (vmOf w).ew == 0 && (vmOf w).ord == 0 && (vmOf w).scope == 0 && (vmOf w).ff == 0
  | .sld => (sgOf w).b == 0
  | .strn => (sgOf w).b == 0
  | .sst => (sgOf w).d == 0
  | .sqry => (sgOf w).b == 0 && (sgOf w).trn == 0 && (sgOf w).scope == 0
  | .cdef => (clOf w).c == 0 && (clOf w).cmp == 0 && (clOf w).lreg == 0
  | .cld => (clOf w).cmp == 0 && (clOf w).kind == 0
  | .cst => (clOf w).b == 0 && (clOf w).cmp == 0 && (clOf w).kind == 0
  | .clen | .cpend => (clOf w).b == 0 && (clOf w).c == 0 && (clOf w).cmp == 0 && (clOf w).kind == 0 && (clOf w).lreg == 0
  | .cclr => (clOf w).a == 0 && (clOf w).b == 0 && (clOf w).c == 0 && (clOf w).cmp == 0 && (clOf w).kind == 0 && (clOf w).lreg == 0
  | .cselScalar | .cselColumn => (clOf w).c == 0
  | .cprj => (clOf w).c == 0 && (clOf w).cmp == 0 && (clOf w).kind == 0
  | .cjoinSemi | .cjoinAnti => (clOf w).c == 0
  | .cgrp => (clOf w).b == 0 && (clOf w).cmp == 0 && (clOf w).kind == 0
  | .caggCnt | .caggSum | .caggMin | .caggMax => (clOf w).c == 0 && (clOf w).cmp == 0
  | .caggCntWhole | .caggSumWhole | .caggMinWhole | .caggMaxWhole => (clOf w).b == 0 && (clOf w).c == 0 && (clOf w).cmp == 0
  | .csort | .csortDesc => (clOf w).b == 0 && (clOf w).c == 0 && (clOf w).cmp == 0
  | .cuniq => (clOf w).b == 0 && (clOf w).c == 0 && (clOf w).cmp == 0 && (clOf w).kind == 0
  | .ctopk | .ctopkMin => (clOf w).c == 0 && (clOf w).cmp == 0
  | .csrr => (syOf w).a == 0 && (syOf w).imm == 0
  | .csrw | .csrs | .csrc => (syOf w).imm == 0
  | .trap => (syOf w).d == 0 && (syOf w).sreg == 0 && (syOf w).imm.toNat < 2 ^ 16
  | .rft | .isync | .halt => (syOf w).d == 0 && (syOf w).a == 0 && (syOf w).sreg == 0 && (syOf w).imm == 0
  | .brk => (syOf w).d == 0 && (syOf w).a == 0 && (syOf w).sreg == 0 && (syOf w).imm.toNat < 2 ^ 16
  | .tlbinvPage | .tlbinvAll => (syOf w).d == 0 && (syOf w).sreg == 0 && (syOf w).imm.toNat < 2 ^ 2
  | .vsave => (syOf w).sreg == 0 && (syOf w).imm.toNat < 2
  | .vrest => (syOf w).sreg == 0 && (syOf w).imm == 0
  | _ => true

/-- Integer instructions of OP 0x20 to 0x22, 0x28 and 0x30 accept TY 000b and 001b. -/
def intCode (f : VvF) : Bool := f.ew.toNat ≤ 4 && isInt f.ty
/-- Float instructions of OP 0x24, 0x25 and 0x2C accept TY 010b and 011b; RM 111b is reserved. -/
def fltCode (f : VvF) : Bool := f.ew.toNat ≤ 4 && isIeee f.ty && f.rm.toNat ≠ 7
/-- The codes of the source type in IMM16 [5:0]. -/
def srcCode (f : VvF) : Bool := codesOk (srcEw f) (srcTy f)
/-- VM: EW 101b to 111b are reserved. -/
def vmEw (f : VmF) : Bool := f.ew.toNat ≤ 4
/-- A mask register number (R83). -/
def isM (r : BitVec 5) : Bool := r.toNat < 8
/-- A column register number (R83). -/
def isC (r : BitVec 5) : Bool := r.toNat < 16
/-- An integer comparison code of IMM16 [3:0] (R91). -/
def cmpInt (c : Nat) : Bool := c < 10
/-- A float comparison code (R91). -/
def cmpFlt (c : Nat) : Bool := c < 12 && c ≠ 4 && c ≠ 5 && c ≠ 8 && c ≠ 9

/-- Table 4.7 step 4: every code, register number and immediate that the word shows is legal. -/
def codeOk (o : Op) (w : Word) : Bool :=
  match o with
  | .rdls => (rrOf w).a.toNat < 6
  | .setc => fnOf w < 6
  | .bc => fnOf w < 6
  | .shli | .shri | .srai | .rotli => (riOf w).imm.toNat < 64
  | .bext | .bins =>
      let pos := (riOf w).imm.toNat % 64
      let len := (riOf w).imm.toNat / 64 % 128
      1 ≤ len && len ≤ 64 && pos + len ≤ 64
  | .lih => (liOf w).imm.toNat < 2 ^ 19
  | .loop => 1 ≤ (brOf w).off.toNat && (brOf w).off.toNat < 2 ^ 34
  | .vaddVv | .vaddVs | .vaddVi | .vsubVv | .vsubVs | .vsubVi | .vmulVv | .vmulVs | .vmulVi | .vmulhVv
  | .vmulhVs | .vmulhVi | .vmacVv | .vmacVs | .vmacVi | .vaddsVv | .vaddsVs | .vaddsVi | .vsubsVv | .vsubsVs
  | .vsubsVi | .vavgVv | .vavgVs | .vavgVi | .vabsdVv | .vabsdVs | .vabsdVi | .vminVv | .vminVs | .vminVi
  | .vmaxVv | .vmaxVs | .vmaxVi | .vandVv | .vandVs | .vandVi | .vorVv | .vorVs | .vorVi | .vxorVv | .vxorVs
  | .vxorVi | .vshlVv | .vshlVs | .vshlVi | .vshrVv | .vshrVs | .vshrVi | .vsraVv | .vsraVs | .vsraVi
  | .vfshlVv | .vfshlVs | .vfshlVi | .vfshrVv | .vfshrVs | .vfshrVi | .vclz | .vpopc | .vsel => intCode (vvOf w)
  | .vcmp => intCode (vvOf w) && isM (vvOf w).d && cmpInt ((vvOf w).imm.toNat % 16)
  | .vwid | .vnar => intCode (vvOf w) && (srcEw (vvOf w)).toNat ≤ 4 && isInt (srcTy (vvOf w))
  | .vpxu | .vpxp =>
      let bits := (vvOf w).imm.toNat % 16
      intCode (vvOf w) && (bits == 10 || bits == 12 || bits == 14)
  | .vfaddVv | .vfaddVs | .vfsubVv | .vfsubVs | .vfmulVv | .vfmulVs | .vfmaVv | .vfmaVs | .vfminVv | .vfminVs
  | .vfmaxVv | .vfmaxVs | .vfdivVv | .vfdivVs | .vfsqrt | .vfrcp | .vfrsq | .vfexp2 | .vflog2 | .vfclass
  | .vfround => fltCode (vvOf w)
  | .vfcmp => codesOk (vvOf w).ew (vvOf w).ty && isM (vvOf w).d && cmpFlt ((vvOf w).imm.toNat % 16)
      && (!isInt (vvOf w).ty || cmpInt ((vvOf w).imm.toNat % 16))
  | .vfcvt | .vficvt => codesOk (vvOf w).ew (vvOf w).ty && srcCode (vvOf w) && (vvOf w).rm.toNat ≠ 7
  | .vmvx | .vmvs | .vbc | .vslu | .vsld | .vperm | .vcomp | .vexp | .viota => codesOk (vvOf w).ew (vvOf w).ty
  | .vredsum | .vredmax | .vredmin | .vredand | .vredor | .vgmax => codesOk (vvOf w).ew (vvOf w).ty
  | .vfredsum => codesOk (vvOf w).ew (vvOf w).ty && (vvOf w).rm.toNat ≠ 7 && (vvOf w).imm.toNat == 0
  | .vfredsumFold => codesOk (vvOf w).ew (vvOf w).ty && (vvOf w).rm.toNat ≠ 7 && (vvOf w).imm.toNat == 1
  | .vfredsumFin => codesOk (vvOf w).ew (vvOf w).ty && (vvOf w).rm.toNat ≠ 7 && (vvOf w).imm.toNat == 2
  | .vfredsumInit => codesOk (vvOf w).ew (vvOf w).ty && (vvOf w).imm.toNat == 3
  | .vscan => codesOk (vvOf w).ew (vvOf w).ty && (vvOf w).rm.toNat ≠ 7
  | .mand | .mor | .mxor | .mandn => isM (vvOf w).d && isM (vvOf w).a && isM (vvOf w).b
  | .mnot => isM (vvOf w).d && isM (vvOf w).a
  | .mpopc | .mfirst => isM (vvOf w).a
  | .vqblk => codesOk (vvOf w).ew (vvOf w).ty && srcCode (vvOf w)
  | .vdqblk | .vsacc => codesOk (vvOf w).ew (vvOf w).ty && srcCode (vvOf w) && (vvOf w).rm.toNat ≠ 7
  | .setvl => codesOk (vvOf w).ew (vvOf w).ty
  | .vcfg => (vvOf w).imm.toNat == 8 || (vvOf w).imm.toNat == 16 || (vvOf w).imm.toNat == 32
  | .ldOrdered => vmEw (vmOf w) && ((vmOf w).ord.toNat == 0 || (vmOf w).ord.toNat == 1 || (vmOf w).ord.toNat == 4)
  | .stOrdered => vmEw (vmOf w) && ((vmOf w).ord.toNat == 0 || (vmOf w).ord.toNat == 2 || (vmOf w).ord.toNat == 4)
  | .vld | .vldff | .vlds | .vldx => vmEw (vmOf w) && (vmOf w).ord.toNat ≤ 1
  | .vldseg => vmEw (vmOf w) && (vmOf w).ord.toNat ≤ 1 && fnOf w % 8 ≠ 0 && fnOf w < 32
  | .vst | .vsts | .vstx => vmEw (vmOf w) && ((vmOf w).ord.toNat == 0 || (vmOf w).ord.toNat == 2)
  | .vstseg => vmEw (vmOf w) && ((vmOf w).ord.toNat == 0 || (vmOf w).ord.toNat == 2) && fnOf w % 8 ≠ 0 && fnOf w < 32
  | .vstbm => (vmOf w).ord.toNat == 0 || (vmOf w).ord.toNat == 2
  | .vldscUnit | .vldscStrided | .vldscIndexed | .vstscUnit | .vstscStrided | .vstscIndexed =>
      vmEw (vmOf w) && (vmOf w).ord.toNat == 4
  | .amoSwap | .amoCas | .amoAdd | .amoAnd | .amoOr | .amoXor | .amoMin | .amoMax | .amoMinn | .amoMaxn => vmEw (vmOf w) && (vmOf w).ord.toNat ≤ 4
  | .vamoSwap | .vamoCas | .vamoAdd | .vamoAnd | .vamoOr | .vamoXor | .vamoMin | .vamoMax | .vamoMinn
  | .vamoMaxn => vmEw (vmOf w) && (vmOf w).ord.toNat ≤ 3
  | .vsadd => vmEw (vmOf w) && ((vmOf w).ord.toNat == 0 || (vmOf w).ord.toNat == 2)
  | .fence => (vmOf w).ord.toNat ≤ 4
  | .arrive => isM (rrOf w).b
  | .cdef => isC (clOf w).d && (clOf w).kind.toNat < 15
  | .cld => isC (clOf w).a && isM (clOf w).c
  | .cst => isC (clOf w).d && isM (clOf w).c
  | .clen | .cpend => isC (clOf w).a
  | .cclr => isC (clOf w).d
  | .cselScalar => isC (clOf w).d && isC (clOf w).a && (clOf w).cmp.toNat < 12 && (clOf w).kind.toNat == 0
  | .cselColumn => isC (clOf w).d && isC (clOf w).a && isC (clOf w).b && (clOf w).cmp.toNat < 12 && (clOf w).kind.toNat == 1
  | .cselList => isC (clOf w).d && isC (clOf w).a && isC (clOf w).c && (clOf w).cmp.toNat < 12 && (clOf w).kind.toNat == 2
  | .cprj => isC (clOf w).d && isC (clOf w).a && isC (clOf w).b
  | .cjoinInner => isC (clOf w).d && isC (clOf w).a && isC (clOf w).b && isC (clOf w).c && (clOf w).cmp.toNat < 12 && (clOf w).kind.toNat == 0
  | .cjoinSemi => isC (clOf w).d && isC (clOf w).a && isC (clOf w).b && (clOf w).cmp.toNat == 0 && (clOf w).kind.toNat == 1
  | .cjoinAnti => isC (clOf w).d && isC (clOf w).a && isC (clOf w).b && (clOf w).cmp.toNat == 0 && (clOf w).kind.toNat == 2
  | .cgrp => isC (clOf w).d && isC (clOf w).a && isC (clOf w).c
  | .caggCnt => isC (clOf w).d && isC (clOf w).a && isC (clOf w).b && (clOf w).kind.toNat == 0
  | .caggSum => isC (clOf w).d && isC (clOf w).a && isC (clOf w).b && (clOf w).kind.toNat == 1
  | .caggMin => isC (clOf w).d && isC (clOf w).a && isC (clOf w).b && (clOf w).kind.toNat == 2
  | .caggMax => isC (clOf w).d && isC (clOf w).a && isC (clOf w).b && (clOf w).kind.toNat == 3
  | .caggCntWhole => isC (clOf w).d && isC (clOf w).a && (clOf w).kind.toNat == 8
  | .caggSumWhole => isC (clOf w).d && isC (clOf w).a && (clOf w).kind.toNat == 9
  | .caggMinWhole => isC (clOf w).d && isC (clOf w).a && (clOf w).kind.toNat == 10
  | .caggMaxWhole => isC (clOf w).d && isC (clOf w).a && (clOf w).kind.toNat == 11
  | .csort => isC (clOf w).d && isC (clOf w).a && (clOf w).kind.toNat == 0
  | .csortDesc => isC (clOf w).d && isC (clOf w).a && (clOf w).kind.toNat == 1
  | .cuniq => isC (clOf w).d && isC (clOf w).a
  | .ctopk => isC (clOf w).d && isC (clOf w).a && (clOf w).kind.toNat == 0
  | .ctopkMin => isC (clOf w).d && isC (clOf w).a && (clOf w).kind.toNat == 1
  | .batch => isM (btOf w).d
  | .tlbinvPage => (syOf w).imm.toNat == 0
  | .tlbinvAll => (syOf w).imm.toNat == 1
  | _ => true

/-- The types that the maxima, minima and scans implement (Table 8.1). -/
def redPair (ew ty : BitVec 3) : Bool := intPair ew ty || ieeePair ew ty

/-- Table 4.7 step 5: the type combination is implemented. -/
def comboOk (o : Op) (w : Word) : Bool :=
  match o with
  | .vaddVv | .vaddVs | .vaddVi | .vsubVv | .vsubVs | .vsubVi | .vmulVv | .vmulVs | .vmulVi | .vmulhVv
  | .vmulhVs | .vmulhVi | .vmacVv | .vmacVs | .vmacVi | .vaddsVv | .vaddsVs | .vaddsVi | .vsubsVv | .vsubsVs
  | .vsubsVi | .vavgVv | .vavgVs | .vavgVi | .vabsdVv | .vabsdVs | .vabsdVi | .vminVv | .vminVs | .vminVi
  | .vmaxVv | .vmaxVs | .vmaxVi | .vandVv | .vandVs | .vandVi | .vorVv | .vorVs | .vorVi | .vxorVv | .vxorVs
  | .vxorVi | .vshlVv | .vshlVs | .vshlVi | .vshrVv | .vshrVs | .vshrVi | .vsraVv | .vsraVs | .vsraVi
  | .vfshlVv | .vfshlVs | .vfshlVi | .vfshrVv | .vfshrVs | .vfshrVi | .vclz | .vpopc | .vsel | .vcmp => intPair (vvOf w).ew (vvOf w).ty
  | .vwid => intPair (vvOf w).ew (vvOf w).ty && intPair (srcEw (vvOf w)) (srcTy (vvOf w)) && (srcEw (vvOf w)).toNat < (vvOf w).ew.toNat
  | .vnar => intPair (vvOf w).ew (vvOf w).ty && intPair (srcEw (vvOf w)) (srcTy (vvOf w)) && (vvOf w).ew.toNat < (srcEw (vvOf w)).toNat
  | .vpxu | .vpxp => (vvOf w).ew.toNat == 1
  | .vfaddVv | .vfaddVs | .vfsubVv | .vfsubVs | .vfmulVv | .vfmulVs | .vfmaVv | .vfmaVs | .vfminVv | .vfminVs
  | .vfmaxVv | .vfmaxVs | .vfdivVv | .vfdivVs | .vfsqrt | .vfrcp | .vfrsq | .vfexp2 | .vflog2 | .vfclass
  | .vfround => ieeePair (vvOf w).ew (vvOf w).ty
  | .vfcmp => floatPair (vvOf w).ew (vvOf w).ty
  | .vfcvt => floatPair (vvOf w).ew (vvOf w).ty && floatPair (srcEw (vvOf w)) (srcTy (vvOf w)) && !((vvOf w).ew == srcEw (vvOf w) && (vvOf w).ty == srcTy (vvOf w))
  | .vficvt => (intPair (vvOf w).ew (vvOf w).ty && ieeePair (srcEw (vvOf w)) (srcTy (vvOf w))) || (ieeePair (vvOf w).ew (vvOf w).ty && intPair (srcEw (vvOf w)) (srcTy (vvOf w)))
  | .vmvx | .vmvs | .vbc | .vslu | .vsld | .vperm | .vcomp | .vexp | .setvl => pairOk (vvOf w).ew (vvOf w).ty
  | .viota | .vredsum | .vredand | .vredor | .vgmax => intPair (vvOf w).ew (vvOf w).ty
  | .vredmax | .vredmin | .vscan => redPair (vvOf w).ew (vvOf w).ty
  | .vfredsum | .vfredsumFold | .vfredsumFin | .vfredsumInit => ieeePair (vvOf w).ew (vvOf w).ty
  | .vqblk => e2m1Pair (vvOf w).ew (vvOf w).ty && quantPair (srcEw (vvOf w)) (srcTy (vvOf w))
  | .vdqblk => quantPair (vvOf w).ew (vvOf w).ty && e2m1Pair (srcEw (vvOf w)) (srcTy (vvOf w))
  | .vsacc => (vvOf w).ty.toNat == 2 && ((vvOf w).ew.toNat == 2 || (vvOf w).ew.toNat == 3)
      && (srcTy (vvOf w)).toNat == 1 && ((srcEw (vvOf w)).toNat == 2 || (srcEw (vvOf w)).toNat == 3)
  | .ldOrdered | .stOrdered | .vld | .vldff | .vlds | .vldx | .vst | .vsts | .vstx | .vldscUnit
  | .vldscStrided | .vldscIndexed | .vstscUnit | .vstscStrided | .vstscIndexed | .amoSwap | .amoCas | .amoAdd
  | .amoAnd | .amoOr | .amoXor | .amoMin | .amoMax | .amoMinn | .amoMaxn | .vamoSwap | .vamoCas | .vamoAdd
  | .vamoAnd | .vamoOr | .vamoXor | .vamoMin | .vamoMax | .vamoMinn | .vamoMaxn | .vsadd => (vmOf w).ew.toNat ≤ 3
  | .vldseg | .vstseg => (vmOf w).ew.toNat ≤ 3 && fnOf w / 8 ≤ (vmOf w).ew.toNat
  | _ => true

/-- R25: the instruction computes with a binary64 value. -/
def usesF64 (o : Op) (w : Word) : Bool :=
  match o with
  | .vfaddVv | .vfaddVs | .vfsubVv | .vfsubVs | .vfmulVv | .vfmulVs | .vfmaVv | .vfmaVs | .vfminVv | .vfminVs
  | .vfmaxVv | .vfmaxVs | .vfdivVv | .vfdivVs | .vfsqrt | .vfrcp | .vfrsq | .vfexp2 | .vflog2 | .vfclass
  | .vfround | .vfcmp | .vredmax | .vredmin | .vscan | .vfredsum | .vfredsumFold | .vfredsumFin
  | .vfredsumInit =>
      (vvOf w).ty.toNat == 2 && (vvOf w).ew.toNat == 3
  | .vfcvt | .vficvt | .vsacc =>
      ((vvOf w).ty.toNat == 2 && (vvOf w).ew.toNat == 3) || ((srcTy (vvOf w)).toNat == 2 && (srcEw (vvOf w)).toNat == 3)
  | _ => false

end Sys2Proof.Legal
end

