-- ==== Sys2Proof/Decode.lean ====
section
/-! DEFINITION. Decoding and encoding of instruction words (04 Tables 4.1, 4.6, 4.7). -/
namespace Sys2Proof

/-- Why a word is no instruction (04 Table 4.7 steps 1 to 5). -/
inductive DecodeErr where
  /-- ILLEGAL: a reserved OP, an unassigned FN, a reserved code or an operand out of range. -/
  | illegal
  /-- RSVD_FIELD: a non-zero reserved bit. -/
  | rsvdField
  /-- UNIMPL_COMBO: a type combination that is not implemented. -/
  | unimplCombo
  deriving DecidableEq, Repr

/-- The functions of OP 0x01 (04 Table 4.6). -/
def dec01 (fn : Nat) : Option Op :=
  match fn with
  | 0 => some .add
  | 1 => some .sub
  | 2 => some .mul
  | 3 => some .mulh
  | 4 => some .mulhn
  | 5 => some .div
  | 6 => some .divn
  | 7 => some .rem
  | 8 => some .remn
  | 9 => some .and
  | 10 => some .or
  | 11 => some .xor
  | 12 => some .andn
  | 13 => some .shl
  | 14 => some .shr
  | 15 => some .sra
  | 16 => some .rotl
  | 17 => some .min
  | 18 => some .max
  | 19 => some .minn
  | 20 => some .maxn
  | 21 => some .sel
  | 22 => some .fshl
  | 23 => some .fshr
  | _ => none

/-- The functions of OP 0x02 (04 Table 4.6). -/
def dec02 (fn : Nat) : Option Op :=
  match fn with
  | 0 => some .addi
  | 1 => some .andi
  | 2 => some .ori
  | 3 => some .xori
  | 4 => some .shli
  | 5 => some .shri
  | 6 => some .srai
  | 7 => some .rotli
  | 8 => some .bext
  | 9 => some .bins
  | _ => none

/-- The functions of OP 0x03 (04 Table 4.6). -/
def dec03 (fn : Nat) : Option Op :=
  match fn with
  | 0 => some .clz
  | 1 => some .ctz
  | 2 => some .popc
  | 3 => some .rdls
  | _ => none

/-- The functions of OP 0x05 (04 Table 4.6). -/
def dec05 (fn : Nat) : Option Op :=
  match fn with
  | 0 => some .li
  | 1 => some .lih
  | _ => none

/-- The functions of OP 0x20 (04 Table 4.6). -/
def dec20 (fn : Nat) : Option Op :=
  match fn with
  | 0 => some .vaddVv
  | 1 => some .vsubVv
  | 2 => some .vmulVv
  | 3 => some .vmulhVv
  | 4 => some .vmacVv
  | 5 => some .vaddsVv
  | 6 => some .vsubsVv
  | 7 => some .vavgVv
  | 8 => some .vabsdVv
  | 9 => some .vminVv
  | 10 => some .vmaxVv
  | 11 => some .vandVv
  | 12 => some .vorVv
  | 13 => some .vxorVv
  | 14 => some .vshlVv
  | 15 => some .vshrVv
  | 16 => some .vsraVv
  | 17 => some .vfshlVv
  | 18 => some .vfshrVv
  | _ => none

/-- The functions of OP 0x21 (04 Table 4.6). -/
def dec21 (fn : Nat) : Option Op :=
  match fn with
  | 0 => some .vclz
  | 1 => some .vpopc
  | 2 => some .vcmp
  | 3 => some .vsel
  | 4 => some .vwid
  | 5 => some .vnar
  | _ => none

/-- The functions of OP 0x22 (04 Table 4.6). -/
def dec22 (fn : Nat) : Option Op :=
  match fn with
  | 0 => some .vpxu
  | 1 => some .vpxp
  | _ => none

/-- The functions of OP 0x24 (04 Table 4.6). -/
def dec24 (fn : Nat) : Option Op :=
  match fn with
  | 0 => some .vfaddVv
  | 1 => some .vfsubVv
  | 2 => some .vfmulVv
  | 3 => some .vfmaVv
  | 4 => some .vfminVv
  | 5 => some .vfmaxVv
  | 6 => some .vfdivVv
  | _ => none

/-- The functions of OP 0x25 (04 Table 4.6). -/
def dec25 (fn : Nat) : Option Op :=
  match fn with
  | 0 => some .vfsqrt
  | 1 => some .vfrcp
  | 2 => some .vfrsq
  | 3 => some .vfexp2
  | 4 => some .vflog2
  | 5 => some .vfclass
  | 6 => some .vfround
  | _ => none

/-- The functions of OP 0x26 (04 Table 4.6). -/
def dec26 (fn : Nat) : Option Op :=
  match fn with
  | 0 => some .vfcmp
  | 1 => some .vfcvt
  | 2 => some .vficvt
  | _ => none

/-- The functions of OP 0x28 (04 Table 4.6). -/
def dec28 (fn : Nat) : Option Op :=
  match fn with
  | 0 => some .vaddVs
  | 1 => some .vsubVs
  | 2 => some .vmulVs
  | 3 => some .vmulhVs
  | 4 => some .vmacVs
  | 5 => some .vaddsVs
  | 6 => some .vsubsVs
  | 7 => some .vavgVs
  | 8 => some .vabsdVs
  | 9 => some .vminVs
  | 10 => some .vmaxVs
  | 11 => some .vandVs
  | 12 => some .vorVs
  | 13 => some .vxorVs
  | 14 => some .vshlVs
  | 15 => some .vshrVs
  | 16 => some .vsraVs
  | 17 => some .vfshlVs
  | 18 => some .vfshrVs
  | _ => none

/-- The functions of OP 0x2C (04 Table 4.6). -/
def dec2C (fn : Nat) : Option Op :=
  match fn with
  | 0 => some .vfaddVs
  | 1 => some .vfsubVs
  | 2 => some .vfmulVs
  | 3 => some .vfmaVs
  | 4 => some .vfminVs
  | 5 => some .vfmaxVs
  | 6 => some .vfdivVs
  | _ => none

/-- The functions of OP 0x30 (04 Table 4.6). -/
def dec30 (fn : Nat) : Option Op :=
  match fn with
  | 0 => some .vaddVi
  | 1 => some .vsubVi
  | 2 => some .vmulVi
  | 3 => some .vmulhVi
  | 4 => some .vmacVi
  | 5 => some .vaddsVi
  | 6 => some .vsubsVi
  | 7 => some .vavgVi
  | 8 => some .vabsdVi
  | 9 => some .vminVi
  | 10 => some .vmaxVi
  | 11 => some .vandVi
  | 12 => some .vorVi
  | 13 => some .vxorVi
  | 14 => some .vshlVi
  | 15 => some .vshrVi
  | 16 => some .vsraVi
  | 17 => some .vfshlVi
  | 18 => some .vfshrVi
  | _ => none

/-- The functions of OP 0x40 (04 Table 4.6). -/
def dec40 (fn : Nat) : Option Op :=
  match fn with
  | 0 => some .vmvx
  | 1 => some .vmvs
  | 2 => some .vbc
  | _ => none

/-- The functions of OP 0x41 (04 Table 4.6). -/
def dec41 (fn : Nat) : Option Op :=
  match fn with
  | 0 => some .vslu
  | 1 => some .vsld
  | 2 => some .vperm
  | 3 => some .vcomp
  | 4 => some .vexp
  | 5 => some .viota
  | _ => none

/-- The functions of OP 0x42 (04 Table 4.6). -/
def dec42 (fn : Nat) (w : Word) : Option Op :=
  match fn with
  | 0 => some .vredsum
  | 1 => some .vredmax
  | 2 => some .vredmin
  | 3 => some .vredand
  | 4 => some .vredor
  | 5 => some (if (vvOf w).imm.toNat % 4 = 1 then .vfredsumFold else if (vvOf w).imm.toNat % 4 = 2 then .vfredsumFin
      else if (vvOf w).imm.toNat % 4 = 3 then .vfredsumInit else .vfredsum)
  | 6 => some .vgmax
  | 7 => some .vscan
  | _ => none

/-- The functions of OP 0x43 (04 Table 4.6). -/
def dec43 (fn : Nat) : Option Op :=
  match fn with
  | 0 => some .mand
  | 1 => some .mor
  | 2 => some .mxor
  | 3 => some .mandn
  | 4 => some .mnot
  | 5 => some .mpopc
  | 6 => some .mfirst
  | _ => none

/-- The functions of OP 0x44 (04 Table 4.6). -/
def dec44 (fn : Nat) : Option Op :=
  match fn with
  | 0 => some .vqblk
  | 1 => some .vdqblk
  | 2 => some .vsacc
  | _ => none

/-- The functions of OP 0x54 (04 Table 4.6). -/
def dec54 (fn : Nat) : Option Op :=
  match fn with
  | 0 => some .vldscUnit
  | 1 => some .vldscStrided
  | 2 => some .vldscIndexed
  | _ => none

/-- The functions of OP 0x5D (04 Table 4.6). -/
def dec5D (fn : Nat) : Option Op :=
  match fn with
  | 0 => some .vstscUnit
  | 1 => some .vstscStrided
  | 2 => some .vstscIndexed
  | _ => none

/-- The functions of OP 0x60 (04 Table 4.6). -/
def dec60 (fn : Nat) : Option Op :=
  match fn with
  | 0 => some .amoSwap
  | 1 => some .amoCas
  | 2 => some .amoAdd
  | 3 => some .amoAnd
  | 4 => some .amoOr
  | 5 => some .amoXor
  | 6 => some .amoMin
  | 7 => some .amoMax
  | 8 => some .amoMinn
  | 9 => some .amoMaxn
  | _ => none

/-- The functions of OP 0x61 (04 Table 4.6). -/
def dec61 (fn : Nat) : Option Op :=
  match fn with
  | 0 => some .vamoSwap
  | 1 => some .vamoCas
  | 2 => some .vamoAdd
  | 3 => some .vamoAnd
  | 4 => some .vamoOr
  | 5 => some .vamoXor
  | 6 => some .vamoMin
  | 7 => some .vamoMax
  | 8 => some .vamoMinn
  | 9 => some .vamoMaxn
  | _ => none

/-- The functions of OP 0x66 (04 Table 4.6). -/
def dec66 (fn : Nat) : Option Op :=
  match fn with
  | 0 => some .binit
  | 1 => some .arrive
  | 2 => some .bwait
  | _ => none

/-- The functions of OP 0x90 (04 Table 4.6). -/
def dec90 (fn : Nat) : Option Op :=
  match fn with
  | 0 => some .csrr
  | 1 => some .csrw
  | 2 => some .csrs
  | 3 => some .csrc
  | _ => none

/-- The functions of OP 0x91 (04 Table 4.6). -/
def dec91 (fn : Nat) (w : Word) : Option Op :=
  match fn with
  | 0 => some .trap
  | 1 => some .rft
  | 2 => some .isync
  | 3 => some .halt
  | 4 => some .brk
  | 5 => some (if (syOf w).imm.toNat % 4 = 1 then .tlbinvAll else .tlbinvPage)
  | _ => none

/-- The functions of OP 0x92 (04 Table 4.6). -/
def dec92 (fn : Nat) : Option Op :=
  match fn with
  | 0 => some .vsave
  | 1 => some .vrest
  | _ => none

/-- The functions of OP 0x93 (04 Table 4.6). -/
def dec93 (fn : Nat) : Option Op :=
  match fn with
  | 0 => some .launch
  | 1 => some .yield
  | 2 => some .exit
  | _ => none

/-- The functions of OP 0x95 (04 Table 4.6). -/
def dec95 (fn : Nat) : Option Op :=
  match fn with
  | 0 => some .wmbind
  | 1 => some .wmpub
  | _ => none

/-- The functions of OP 0x9F (04 Table 4.6). -/
def dec9F (fn : Nat) : Option Op :=
  match fn with
  | 0 => some .setvl
  | 1 => some .vcfg
  | _ => none


/-- Table 4.6: the instruction that OP and FN name, none when OP is reserved or FN is
not assigned (Table 4.7 steps 1 and 2). CHPUT and CHGET words are read as opens: whether one opens or closes is bit 8
of a register (R414), which the step reads from the state. A word of `csel`, `cjoin` or `cagg` whose KIND Table 11.1 does not list is
read as `csel.l`, the inner join or `cagg.cnt`, which settles the fields that step 3 of Table 4.7 takes as used (DESIGN CHOICE, log
77). -/
def decodeRaw (w : Word) : Option Op :=
  let fn := fnOf w
  match opOf w with
  | 0x01 => dec01 fn
  | 0x02 => dec02 fn
  | 0x03 => dec03 fn
  | 0x04 => if fn < 6 then some .setc else none
  | 0x05 => dec05 fn
  | 0x06 => if fn = 0 then some .pcadd else none
  | 0x10 => if fn < 4 then some .ld else none
  | 0x11 => if fn < 4 then some .st else none
  | 0x12 => if fn = 0 then some .ldOrdered else none
  | 0x13 => if fn = 0 then some .stOrdered else none
  | 0x18 => if fn < 6 then some .bc else none
  | 0x19 => if fn = 0 then some .j else none
  | 0x1A => if fn = 0 then some .jl else none
  | 0x1B => if fn = 0 then some .jr else none
  | 0x1C => if fn = 0 then some .loop else none
  | 0x1D => if fn = 0 then some .lbrk else none
  | 0x1E => if fn = 0 then some .nop else none
  | 0x20 => dec20 fn
  | 0x21 => dec21 fn
  | 0x22 => dec22 fn
  | 0x24 => dec24 fn
  | 0x25 => dec25 fn
  | 0x26 => dec26 fn
  | 0x28 => dec28 fn
  | 0x2C => dec2C fn
  | 0x30 => dec30 fn
  | 0x40 => dec40 fn
  | 0x41 => dec41 fn
  | 0x42 => dec42 fn w
  | 0x43 => dec43 fn
  | 0x44 => dec44 fn
  | 0x50 => if fn = 0 then some (if (vmOf w).ff = 1 then .vldff else .vld) else none
  | 0x51 => if fn = 0 then some .vlds else none
  | 0x52 => if fn = 0 then some .vldx else none
  | 0x53 => if fn % 8 ≠ 0 ∧ fn < 32 then some .vldseg else none
  | 0x54 => dec54 fn
  | 0x58 => if fn = 0 then some .vst else none
  | 0x59 => if fn = 0 then some .vsts else none
  | 0x5A => if fn = 0 then some .vstx else none
  | 0x5B => if fn % 8 ≠ 0 ∧ fn < 32 then some .vstseg else none
  | 0x5C => if fn = 0 then some .vstbm else none
  | 0x5D => dec5D fn
  | 0x60 => dec60 fn
  | 0x61 => dec61 fn
  | 0x62 => if fn = 0 then some .vsadd else none
  | 0x63 => if fn = 0 then some .vwait else none
  | 0x64 => if fn = 0 then some .fence else none
  | 0x65 => if fn = 0 then some .probe else none
  | 0x66 => dec66 fn
  | 0x68 => if fn < 4 then some .sld else none
  | 0x69 => if fn < 4 then some .sst else none
  | 0x6A => if fn = 0 then some .strn else none
  | 0x6B => if fn = 0 then some .stbl else none
  | 0x6C => if fn = 0 then some .sbind else none
  | 0x6D => if fn = 0 then some .sunbind else none
  | 0x6E => if fn = 0 then some .sqry else none
  | 0x70 => if fn = 0 then some .cdef else none
  | 0x71 => if fn = 0 then some .cld else none
  | 0x72 => if fn = 0 then some .cst else none
  | 0x73 => if fn = 0 then some .clen else none
  | 0x74 => if fn = 0 then some .cpend else none
  | 0x75 => if fn = 0 then some .cclr else none
  | 0x76 => if fn = 0 then some (if (clOf w).kind.toNat = 0 then .cselScalar else if (clOf w).kind.toNat = 1 then .cselColumn else .cselList) else none
  | 0x77 => if fn = 0 then some .cprj else none
  | 0x78 => if fn = 0 then some (if (clOf w).kind.toNat = 1 then .cjoinSemi else if (clOf w).kind.toNat = 2 then .cjoinAnti else .cjoinInner) else none
  | 0x79 => if fn = 0 then some .cgrp else none
  | 0x7A => if fn = 0 then some (if (clOf w).kind.toNat = 1 then .caggSum else if (clOf w).kind.toNat = 2 then .caggMin else if (clOf w).kind.toNat = 3 then .caggMax else if (clOf w).kind.toNat = 8 then .caggCntWhole else if (clOf w).kind.toNat = 9 then .caggSumWhole else if (clOf w).kind.toNat = 10 then .caggMinWhole else if (clOf w).kind.toNat = 11 then .caggMaxWhole else .caggCnt) else none
  | 0x7B => if fn = 0 then some (if (clOf w).kind.toNat = 1 then .csortDesc else .csort) else none
  | 0x7C => if fn = 0 then some .cuniq else none
  | 0x7D => if fn = 0 then some (if (clOf w).kind.toNat = 1 then .ctopkMin else .ctopk) else none
  | 0x80 => if fn = 0 then some .tenq else none
  | 0x81 => if fn = 0 then some .tqry else none
  | 0x82 => if fn = 0 then some .tcancel else none
  | 0x88 => if fn = 0 then some .batch else none
  | 0x89 => if fn = 0 then some .publ else none
  | 0x8A => if fn = 0 then some .xtbl else none
  | 0x90 => dec90 fn
  | 0x91 => dec91 fn w
  | 0x92 => dec92 fn
  | 0x93 => dec93 fn
  | 0x94 => if fn = 0 then some .chputOpen else if fn = 1 then some .chgetOpen else none
  | 0x95 => dec95 fn
  | 0x9F => dec9F fn
  | _ => none

/-- The bits that a word's format leaves out are zero (04 Table 4.1). -/
def formatOk (w : Word) : Bool :=
  let op := opOf w
  if op = 0x01 ∨ op = 0x03 ∨ op = 0x04 ∨ op = 0x1B ∨ op = 0x1D ∨ op = 0x1E ∨ op = 0x63 ∨ op = 0x66 ∨ op = 0x80
      ∨ op = 0x81 ∨ op = 0x82 ∨ op = 0x89 ∨ op = 0x93 ∨ op = 0x94 ∨ op = 0x95 then
    w.extractLsb' 0 30 == 0
  else if 0x70 ≤ op ∧ op ≤ 0x7D then w.extractLsb' 0 17 == 0
  else if op = 0x88 then w.extractLsb' 30 5 == 0 && w.extractLsb' 0 26 == 0
  else true

/-- Which instruction a word is, total on any word, with the first failing check of Table 4.7 steps 1 to 5 (R97). -/
def decodeOp (w : Word) : Except DecodeErr Op :=
  match decodeRaw w with
  | none => .error .illegal
  | some o =>
    if !(formatOk w && Legal.rsvdOk o w) then .error .rsvdField
    else if !Legal.codeOk o w then .error .illegal
    else if !Legal.comboOk o w then .error .unimplCombo
    else .ok o

/-- The instruction with the operands that a word holds. It is marked noncomputable only because Lean's runtime
cannot build a constructor whose number is above 244; Lean's kernel evaluates it. -/
noncomputable def Op.toInstr (o : Op) (w : Word) : Instr :=
  match o with
  | .add => .add (rrOf w)
  | .sub => .sub (rrOf w)
  | .mul => .mul (rrOf w)
  | .mulh => .mulh (rrOf w)
  | .mulhn => .mulhn (rrOf w)
  | .div => .div (rrOf w)
  | .divn => .divn (rrOf w)
  | .rem => .rem (rrOf w)
  | .remn => .remn (rrOf w)
  | .and => .and (rrOf w)
  | .or => .or (rrOf w)
  | .xor => .xor (rrOf w)
  | .andn => .andn (rrOf w)
  | .shl => .shl (rrOf w)
  | .shr => .shr (rrOf w)
  | .sra => .sra (rrOf w)
  | .rotl => .rotl (rrOf w)
  | .min => .min (rrOf w)
  | .max => .max (rrOf w)
  | .minn => .minn (rrOf w)
  | .maxn => .maxn (rrOf w)
  | .sel => .sel (rrOf w)
  | .fshl => .fshl (rrOf w)
  | .fshr => .fshr (rrOf w)
  | .addi => .addi (riOf w)
  | .andi => .andi (riOf w)
  | .ori => .ori (riOf w)
  | .xori => .xori (riOf w)
  | .shli => .shli (riOf w)
  | .shri => .shri (riOf w)
  | .srai => .srai (riOf w)
  | .rotli => .rotli (riOf w)
  | .bext => .bext (riOf w)
  | .bins => .bins (riOf w)
  | .clz => .clz (rrOf w)
  | .ctz => .ctz (rrOf w)
  | .popc => .popc (rrOf w)
  | .rdls => .rdls (rrOf w)
  | .setc => .setc (w.extractLsb' 50 3) (rrOf w)
  | .li => .li (liOf w)
  | .lih => .lih (liOf w)
  | .pcadd => .pcadd (riOf w)
  | .ld => .ld (w.extractLsb' 50 2) (riOf w)
  | .st => .st (w.extractLsb' 50 2) (riOf w)
  | .ldOrdered => .ldOrdered (vmOf w)
  | .stOrdered => .stOrdered (vmOf w)
  | .bc => .bc (w.extractLsb' 50 3) (brOf w)
  | .j => .j (brOf w)
  | .jl => .jl (brOf w)
  | .jr => .jr (rrOf w)
  | .loop => .loop (brOf w)
  | .lbrk => .lbrk (rrOf w)
  | .nop => .nop (rrOf w)
  | .vaddVv => .vaddVv (vvOf w)
  | .vaddVs => .vaddVs (vvOf w)
  | .vaddVi => .vaddVi (vvOf w)
  | .vsubVv => .vsubVv (vvOf w)
  | .vsubVs => .vsubVs (vvOf w)
  | .vsubVi => .vsubVi (vvOf w)
  | .vmulVv => .vmulVv (vvOf w)
  | .vmulVs => .vmulVs (vvOf w)
  | .vmulVi => .vmulVi (vvOf w)
  | .vmulhVv => .vmulhVv (vvOf w)
  | .vmulhVs => .vmulhVs (vvOf w)
  | .vmulhVi => .vmulhVi (vvOf w)
  | .vmacVv => .vmacVv (vvOf w)
  | .vmacVs => .vmacVs (vvOf w)
  | .vmacVi => .vmacVi (vvOf w)
  | .vaddsVv => .vaddsVv (vvOf w)
  | .vaddsVs => .vaddsVs (vvOf w)
  | .vaddsVi => .vaddsVi (vvOf w)
  | .vsubsVv => .vsubsVv (vvOf w)
  | .vsubsVs => .vsubsVs (vvOf w)
  | .vsubsVi => .vsubsVi (vvOf w)
  | .vavgVv => .vavgVv (vvOf w)
  | .vavgVs => .vavgVs (vvOf w)
  | .vavgVi => .vavgVi (vvOf w)
  | .vabsdVv => .vabsdVv (vvOf w)
  | .vabsdVs => .vabsdVs (vvOf w)
  | .vabsdVi => .vabsdVi (vvOf w)
  | .vminVv => .vminVv (vvOf w)
  | .vminVs => .vminVs (vvOf w)
  | .vminVi => .vminVi (vvOf w)
  | .vmaxVv => .vmaxVv (vvOf w)
  | .vmaxVs => .vmaxVs (vvOf w)
  | .vmaxVi => .vmaxVi (vvOf w)
  | .vandVv => .vandVv (vvOf w)
  | .vandVs => .vandVs (vvOf w)
  | .vandVi => .vandVi (vvOf w)
  | .vorVv => .vorVv (vvOf w)
  | .vorVs => .vorVs (vvOf w)
  | .vorVi => .vorVi (vvOf w)
  | .vxorVv => .vxorVv (vvOf w)
  | .vxorVs => .vxorVs (vvOf w)
  | .vxorVi => .vxorVi (vvOf w)
  | .vshlVv => .vshlVv (vvOf w)
  | .vshlVs => .vshlVs (vvOf w)
  | .vshlVi => .vshlVi (vvOf w)
  | .vshrVv => .vshrVv (vvOf w)
  | .vshrVs => .vshrVs (vvOf w)
  | .vshrVi => .vshrVi (vvOf w)
  | .vsraVv => .vsraVv (vvOf w)
  | .vsraVs => .vsraVs (vvOf w)
  | .vsraVi => .vsraVi (vvOf w)
  | .vfshlVv => .vfshlVv (vvOf w)
  | .vfshlVs => .vfshlVs (vvOf w)
  | .vfshlVi => .vfshlVi (vvOf w)
  | .vfshrVv => .vfshrVv (vvOf w)
  | .vfshrVs => .vfshrVs (vvOf w)
  | .vfshrVi => .vfshrVi (vvOf w)
  | .vclz => .vclz (vvOf w)
  | .vpopc => .vpopc (vvOf w)
  | .vcmp => .vcmp (vvOf w)
  | .vsel => .vsel (vvOf w)
  | .vwid => .vwid (vvOf w)
  | .vnar => .vnar (vvOf w)
  | .vpxu => .vpxu (vvOf w)
  | .vpxp => .vpxp (vvOf w)
  | .vfaddVv => .vfaddVv (vvOf w)
  | .vfaddVs => .vfaddVs (vvOf w)
  | .vfsubVv => .vfsubVv (vvOf w)
  | .vfsubVs => .vfsubVs (vvOf w)
  | .vfmulVv => .vfmulVv (vvOf w)
  | .vfmulVs => .vfmulVs (vvOf w)
  | .vfmaVv => .vfmaVv (vvOf w)
  | .vfmaVs => .vfmaVs (vvOf w)
  | .vfminVv => .vfminVv (vvOf w)
  | .vfminVs => .vfminVs (vvOf w)
  | .vfmaxVv => .vfmaxVv (vvOf w)
  | .vfmaxVs => .vfmaxVs (vvOf w)
  | .vfdivVv => .vfdivVv (vvOf w)
  | .vfdivVs => .vfdivVs (vvOf w)
  | .vfsqrt => .vfsqrt (vvOf w)
  | .vfrcp => .vfrcp (vvOf w)
  | .vfrsq => .vfrsq (vvOf w)
  | .vfexp2 => .vfexp2 (vvOf w)
  | .vflog2 => .vflog2 (vvOf w)
  | .vfclass => .vfclass (vvOf w)
  | .vfround => .vfround (vvOf w)
  | .vfcmp => .vfcmp (vvOf w)
  | .vfcvt => .vfcvt (vvOf w)
  | .vficvt => .vficvt (vvOf w)
  | .vmvx => .vmvx (vvOf w)
  | .vmvs => .vmvs (vvOf w)
  | .vbc => .vbc (vvOf w)
  | .vslu => .vslu (vvOf w)
  | .vsld => .vsld (vvOf w)
  | .vperm => .vperm (vvOf w)
  | .vcomp => .vcomp (vvOf w)
  | .vexp => .vexp (vvOf w)
  | .viota => .viota (vvOf w)
  | .vredsum => .vredsum (vvOf w)
  | .vredmax => .vredmax (vvOf w)
  | .vredmin => .vredmin (vvOf w)
  | .vredand => .vredand (vvOf w)
  | .vredor => .vredor (vvOf w)
  | .vfredsum => .vfredsum (vvOf w)
  | .vfredsumFold => .vfredsumFold (vvOf w)
  | .vfredsumFin => .vfredsumFin (vvOf w)
  | .vfredsumInit => .vfredsumInit (vvOf w)
  | .vgmax => .vgmax (vvOf w)
  | .vscan => .vscan (vvOf w)
  | .mand => .mand (vvOf w)
  | .mor => .mor (vvOf w)
  | .mxor => .mxor (vvOf w)
  | .mandn => .mandn (vvOf w)
  | .mnot => .mnot (vvOf w)
  | .mpopc => .mpopc (vvOf w)
  | .mfirst => .mfirst (vvOf w)
  | .vqblk => .vqblk (vvOf w)
  | .vdqblk => .vdqblk (vvOf w)
  | .vsacc => .vsacc (vvOf w)
  | .vld => .vld (vmOf w)
  | .vldff => .vldff (vmOf w)
  | .vlds => .vlds (vmOf w)
  | .vldx => .vldx (vmOf w)
  | .vldseg => .vldseg (w.extractLsb' 50 6) (vmOf w)
  | .vldscUnit => .vldscUnit (vmOf w)
  | .vldscStrided => .vldscStrided (vmOf w)
  | .vldscIndexed => .vldscIndexed (vmOf w)
  | .vst => .vst (vmOf w)
  | .vsts => .vsts (vmOf w)
  | .vstx => .vstx (vmOf w)
  | .vstseg => .vstseg (w.extractLsb' 50 6) (vmOf w)
  | .vstbm => .vstbm (vmOf w)
  | .vstscUnit => .vstscUnit (vmOf w)
  | .vstscStrided => .vstscStrided (vmOf w)
  | .vstscIndexed => .vstscIndexed (vmOf w)
  | .amoSwap => .amoSwap (vmOf w)
  | .amoCas => .amoCas (vmOf w)
  | .amoAdd => .amoAdd (vmOf w)
  | .amoAnd => .amoAnd (vmOf w)
  | .amoOr => .amoOr (vmOf w)
  | .amoXor => .amoXor (vmOf w)
  | .amoMin => .amoMin (vmOf w)
  | .amoMax => .amoMax (vmOf w)
  | .amoMinn => .amoMinn (vmOf w)
  | .amoMaxn => .amoMaxn (vmOf w)
  | .vamoSwap => .vamoSwap (vmOf w)
  | .vamoCas => .vamoCas (vmOf w)
  | .vamoAdd => .vamoAdd (vmOf w)
  | .vamoAnd => .vamoAnd (vmOf w)
  | .vamoOr => .vamoOr (vmOf w)
  | .vamoXor => .vamoXor (vmOf w)
  | .vamoMin => .vamoMin (vmOf w)
  | .vamoMax => .vamoMax (vmOf w)
  | .vamoMinn => .vamoMinn (vmOf w)
  | .vamoMaxn => .vamoMaxn (vmOf w)
  | .vsadd => .vsadd (vmOf w)
  | .vwait => .vwait (rrOf w)
  | .fence => .fence (vmOf w)
  | .probe => .probe (vmOf w)
  | .binit => .binit (rrOf w)
  | .arrive => .arrive (rrOf w)
  | .bwait => .bwait (rrOf w)
  | .sld => .sld (w.extractLsb' 50 2) (sgOf w)
  | .sst => .sst (w.extractLsb' 50 2) (sgOf w)
  | .strn => .strn (sgOf w)
  | .stbl => .stbl (riOf w)
  | .sbind => .sbind (riOf w)
  | .sunbind => .sunbind (riOf w)
  | .sqry => .sqry (sgOf w)
  | .cdef => .cdef (clOf w)
  | .cld => .cld (clOf w)
  | .cst => .cst (clOf w)
  | .clen => .clen (clOf w)
  | .cpend => .cpend (clOf w)
  | .cclr => .cclr (clOf w)
  | .cselScalar => .cselScalar (clOf w)
  | .cselColumn => .cselColumn (clOf w)
  | .cselList => .cselList (clOf w)
  | .cprj => .cprj (clOf w)
  | .cjoinInner => .cjoinInner (clOf w)
  | .cjoinSemi => .cjoinSemi (clOf w)
  | .cjoinAnti => .cjoinAnti (clOf w)
  | .cgrp => .cgrp (clOf w)
  | .caggCnt => .caggCnt (clOf w)
  | .caggSum => .caggSum (clOf w)
  | .caggMin => .caggMin (clOf w)
  | .caggMax => .caggMax (clOf w)
  | .caggCntWhole => .caggCntWhole (clOf w)
  | .caggSumWhole => .caggSumWhole (clOf w)
  | .caggMinWhole => .caggMinWhole (clOf w)
  | .caggMaxWhole => .caggMaxWhole (clOf w)
  | .csort => .csort (clOf w)
  | .csortDesc => .csortDesc (clOf w)
  | .cuniq => .cuniq (clOf w)
  | .ctopk => .ctopk (clOf w)
  | .ctopkMin => .ctopkMin (clOf w)
  | .tenq => .tenq (rrOf w)
  | .tqry => .tqry (rrOf w)
  | .tcancel => .tcancel (rrOf w)
  | .batch => .batch (btOf w)
  | .publ => .publ (rrOf w)
  | .xtbl => .xtbl (riOf w)
  | .csrr => .csrr (syOf w)
  | .csrw => .csrw (syOf w)
  | .csrs => .csrs (syOf w)
  | .csrc => .csrc (syOf w)
  | .trap => .trap (syOf w)
  | .rft => .rft (syOf w)
  | .isync => .isync (syOf w)
  | .halt => .halt (syOf w)
  | .brk => .brk (syOf w)
  | .tlbinvPage => .tlbinvPage (syOf w)
  | .tlbinvAll => .tlbinvAll (syOf w)
  | .vsave => .vsave (syOf w)
  | .vrest => .vrest (syOf w)
  | .launch => .launch (rrOf w)
  | .yield => .yield (rrOf w)
  | .exit => .exit (rrOf w)
  | .chputOpen => .chputOpen (rrOf w)
  | .chputClose => .chputClose (rrOf w)
  | .chgetOpen => .chgetOpen (rrOf w)
  | .chgetClose => .chgetClose (rrOf w)
  | .wmbind => .wmbind (rrOf w)
  | .wmpub => .wmpub (rrOf w)
  | .setvl => .setvl (vvOf w)
  | .vcfg => .vcfg (vvOf w)

/-- Decoding, total on any word. -/
noncomputable def decode (w : Word) : Except DecodeErr Instr :=
  match decodeOp w with
  | .ok o => .ok (o.toInstr w)
  | .error e => .error e

/-- A word from OP, FN and the fields of format RR. -/
def encRr (op : BitVec 8) (fn : BitVec 6) (f : RrF) : Word := op ++ fn ++ f.d ++ f.a ++ f.b ++ f.c ++ 0#30
/-- Format RI. -/
def encRi (op : BitVec 8) (fn : BitVec 6) (f : RiF) : Word := op ++ fn ++ f.d ++ f.a ++ f.b ++ f.imm
/-- Format LI. -/
def encLi (op : BitVec 8) (fn : BitVec 6) (f : LiF) : Word := op ++ fn ++ f.d ++ f.imm
/-- Format BR. -/
def encBr (op : BitVec 8) (fn : BitVec 6) (f : BrF) : Word := op ++ fn ++ f.d ++ f.a ++ f.b ++ f.off
/-- Format VV. -/
def encVv (op : BitVec 8) (fn : BitVec 6) (f : VvF) : Word :=
  op ++ fn ++ f.d ++ f.a ++ f.b ++ f.c ++ f.msk ++ f.mn ++ f.ew ++ f.ty ++ f.sat ++ f.rm ++ f.imm
/-- Format VM. -/
def encVm (op : BitVec 8) (fn : BitVec 6) (f : VmF) : Word :=
  op ++ fn ++ f.d ++ f.a ++ f.b ++ f.c ++ f.msk ++ f.mn ++ f.ew ++ f.ord ++ f.scope ++ f.ff ++ f.off
/-- Format SG. -/
def encSg (op : BitVec 8) (fn : BitVec 6) (f : SgF) : Word :=
  op ++ fn ++ f.d ++ f.a ++ f.b ++ f.trn ++ f.scope ++ f.off
/-- Format CL. -/
def encCl (op : BitVec 8) (fn : BitVec 6) (f : ClF) : Word :=
  op ++ fn ++ f.d ++ f.a ++ f.b ++ f.c ++ f.cmp ++ f.kind ++ f.lreg ++ 0#17
/-- Format SY. -/
def encSy (op : BitVec 8) (fn : BitVec 6) (f : SyF) : Word := op ++ fn ++ f.d ++ f.a ++ f.sreg ++ f.imm
/-- Format BT. -/
def encBt (op : BitVec 8) (fn : BitVec 6) (f : BtF) : Word :=
  op ++ fn ++ f.d ++ f.a ++ f.b ++ 0#5 ++ f.msk ++ f.mn ++ 0#26

/-- The word of an instruction (04 Tables 4.1 and 4.6); none for a constructor that is no instruction word. -/
def encode (i : Instr) : Option Word :=
  match i with
  | .add f => some (encRr 0x01 0 f)
  | .sub f => some (encRr 0x01 1 f)
  | .mul f => some (encRr 0x01 2 f)
  | .mulh f => some (encRr 0x01 3 f)
  | .mulhn f => some (encRr 0x01 4 f)
  | .div f => some (encRr 0x01 5 f)
  | .divn f => some (encRr 0x01 6 f)
  | .rem f => some (encRr 0x01 7 f)
  | .remn f => some (encRr 0x01 8 f)
  | .and f => some (encRr 0x01 9 f)
  | .or f => some (encRr 0x01 10 f)
  | .xor f => some (encRr 0x01 11 f)
  | .andn f => some (encRr 0x01 12 f)
  | .shl f => some (encRr 0x01 13 f)
  | .shr f => some (encRr 0x01 14 f)
  | .sra f => some (encRr 0x01 15 f)
  | .rotl f => some (encRr 0x01 16 f)
  | .min f => some (encRr 0x01 17 f)
  | .max f => some (encRr 0x01 18 f)
  | .minn f => some (encRr 0x01 19 f)
  | .maxn f => some (encRr 0x01 20 f)
  | .sel f => some (encRr 0x01 21 f)
  | .fshl f => some (encRr 0x01 22 f)
  | .fshr f => some (encRr 0x01 23 f)
  | .addi f => some (encRi 0x02 0 f)
  | .andi f => some (encRi 0x02 1 f)
  | .ori f => some (encRi 0x02 2 f)
  | .xori f => some (encRi 0x02 3 f)
  | .shli f => some (encRi 0x02 4 f)
  | .shri f => some (encRi 0x02 5 f)
  | .srai f => some (encRi 0x02 6 f)
  | .rotli f => some (encRi 0x02 7 f)
  | .bext f => some (encRi 0x02 8 f)
  | .bins f => some (encRi 0x02 9 f)
  | .clz f => some (encRr 0x03 0 f)
  | .ctz f => some (encRr 0x03 1 f)
  | .popc f => some (encRr 0x03 2 f)
  | .rdls f => some (encRr 0x03 3 f)
  | .setc cc f => some (encRr 0x04 (cc.setWidth 6) f)
  | .li f => some (encLi 0x05 0 f)
  | .lih f => some (encLi 0x05 1 f)
  | .pcadd f => some (encRi 0x06 0 f)
  | .ld sz f => some (encRi 0x10 (sz.setWidth 6) f)
  | .st sz f => some (encRi 0x11 (sz.setWidth 6) f)
  | .ldOrdered f => some (encVm 0x12 0 f)
  | .stOrdered f => some (encVm 0x13 0 f)
  | .bc cc f => some (encBr 0x18 (cc.setWidth 6) f)
  | .j f => some (encBr 0x19 0 f)
  | .jl f => some (encBr 0x1A 0 f)
  | .jr f => some (encRr 0x1B 0 f)
  | .loop f => some (encBr 0x1C 0 f)
  | .lbrk f => some (encRr 0x1D 0 f)
  | .nop f => some (encRr 0x1E 0 f)
  | .vaddVv f => some (encVv 0x20 0 f)
  | .vsubVv f => some (encVv 0x20 1 f)
  | .vmulVv f => some (encVv 0x20 2 f)
  | .vmulhVv f => some (encVv 0x20 3 f)
  | .vmacVv f => some (encVv 0x20 4 f)
  | .vaddsVv f => some (encVv 0x20 5 f)
  | .vsubsVv f => some (encVv 0x20 6 f)
  | .vavgVv f => some (encVv 0x20 7 f)
  | .vabsdVv f => some (encVv 0x20 8 f)
  | .vminVv f => some (encVv 0x20 9 f)
  | .vmaxVv f => some (encVv 0x20 10 f)
  | .vandVv f => some (encVv 0x20 11 f)
  | .vorVv f => some (encVv 0x20 12 f)
  | .vxorVv f => some (encVv 0x20 13 f)
  | .vshlVv f => some (encVv 0x20 14 f)
  | .vshrVv f => some (encVv 0x20 15 f)
  | .vsraVv f => some (encVv 0x20 16 f)
  | .vfshlVv f => some (encVv 0x20 17 f)
  | .vfshrVv f => some (encVv 0x20 18 f)
  | .vclz f => some (encVv 0x21 0 f)
  | .vpopc f => some (encVv 0x21 1 f)
  | .vcmp f => some (encVv 0x21 2 f)
  | .vsel f => some (encVv 0x21 3 f)
  | .vwid f => some (encVv 0x21 4 f)
  | .vnar f => some (encVv 0x21 5 f)
  | .vpxu f => some (encVv 0x22 0 f)
  | .vpxp f => some (encVv 0x22 1 f)
  | .vfaddVv f => some (encVv 0x24 0 f)
  | .vfsubVv f => some (encVv 0x24 1 f)
  | .vfmulVv f => some (encVv 0x24 2 f)
  | .vfmaVv f => some (encVv 0x24 3 f)
  | .vfminVv f => some (encVv 0x24 4 f)
  | .vfmaxVv f => some (encVv 0x24 5 f)
  | .vfdivVv f => some (encVv 0x24 6 f)
  | .vfsqrt f => some (encVv 0x25 0 f)
  | .vfrcp f => some (encVv 0x25 1 f)
  | .vfrsq f => some (encVv 0x25 2 f)
  | .vfexp2 f => some (encVv 0x25 3 f)
  | .vflog2 f => some (encVv 0x25 4 f)
  | .vfclass f => some (encVv 0x25 5 f)
  | .vfround f => some (encVv 0x25 6 f)
  | .vfcmp f => some (encVv 0x26 0 f)
  | .vfcvt f => some (encVv 0x26 1 f)
  | .vficvt f => some (encVv 0x26 2 f)
  | .vaddVs f => some (encVv 0x28 0 f)
  | .vsubVs f => some (encVv 0x28 1 f)
  | .vmulVs f => some (encVv 0x28 2 f)
  | .vmulhVs f => some (encVv 0x28 3 f)
  | .vmacVs f => some (encVv 0x28 4 f)
  | .vaddsVs f => some (encVv 0x28 5 f)
  | .vsubsVs f => some (encVv 0x28 6 f)
  | .vavgVs f => some (encVv 0x28 7 f)
  | .vabsdVs f => some (encVv 0x28 8 f)
  | .vminVs f => some (encVv 0x28 9 f)
  | .vmaxVs f => some (encVv 0x28 10 f)
  | .vandVs f => some (encVv 0x28 11 f)
  | .vorVs f => some (encVv 0x28 12 f)
  | .vxorVs f => some (encVv 0x28 13 f)
  | .vshlVs f => some (encVv 0x28 14 f)
  | .vshrVs f => some (encVv 0x28 15 f)
  | .vsraVs f => some (encVv 0x28 16 f)
  | .vfshlVs f => some (encVv 0x28 17 f)
  | .vfshrVs f => some (encVv 0x28 18 f)
  | .vfaddVs f => some (encVv 0x2C 0 f)
  | .vfsubVs f => some (encVv 0x2C 1 f)
  | .vfmulVs f => some (encVv 0x2C 2 f)
  | .vfmaVs f => some (encVv 0x2C 3 f)
  | .vfminVs f => some (encVv 0x2C 4 f)
  | .vfmaxVs f => some (encVv 0x2C 5 f)
  | .vfdivVs f => some (encVv 0x2C 6 f)
  | .vaddVi f => some (encVv 0x30 0 f)
  | .vsubVi f => some (encVv 0x30 1 f)
  | .vmulVi f => some (encVv 0x30 2 f)
  | .vmulhVi f => some (encVv 0x30 3 f)
  | .vmacVi f => some (encVv 0x30 4 f)
  | .vaddsVi f => some (encVv 0x30 5 f)
  | .vsubsVi f => some (encVv 0x30 6 f)
  | .vavgVi f => some (encVv 0x30 7 f)
  | .vabsdVi f => some (encVv 0x30 8 f)
  | .vminVi f => some (encVv 0x30 9 f)
  | .vmaxVi f => some (encVv 0x30 10 f)
  | .vandVi f => some (encVv 0x30 11 f)
  | .vorVi f => some (encVv 0x30 12 f)
  | .vxorVi f => some (encVv 0x30 13 f)
  | .vshlVi f => some (encVv 0x30 14 f)
  | .vshrVi f => some (encVv 0x30 15 f)
  | .vsraVi f => some (encVv 0x30 16 f)
  | .vfshlVi f => some (encVv 0x30 17 f)
  | .vfshrVi f => some (encVv 0x30 18 f)
  | .vmvx f => some (encVv 0x40 0 f)
  | .vmvs f => some (encVv 0x40 1 f)
  | .vbc f => some (encVv 0x40 2 f)
  | .vslu f => some (encVv 0x41 0 f)
  | .vsld f => some (encVv 0x41 1 f)
  | .vperm f => some (encVv 0x41 2 f)
  | .vcomp f => some (encVv 0x41 3 f)
  | .vexp f => some (encVv 0x41 4 f)
  | .viota f => some (encVv 0x41 5 f)
  | .vredsum f => some (encVv 0x42 0 f)
  | .vredmax f => some (encVv 0x42 1 f)
  | .vredmin f => some (encVv 0x42 2 f)
  | .vredand f => some (encVv 0x42 3 f)
  | .vredor f => some (encVv 0x42 4 f)
  | .vfredsum f => some (encVv 0x42 5 f)
  | .vfredsumFold f => some (encVv 0x42 5 f)
  | .vfredsumFin f => some (encVv 0x42 5 f)
  | .vfredsumInit f => some (encVv 0x42 5 f)
  | .vgmax f => some (encVv 0x42 6 f)
  | .vscan f => some (encVv 0x42 7 f)
  | .mand f => some (encVv 0x43 0 f)
  | .mor f => some (encVv 0x43 1 f)
  | .mxor f => some (encVv 0x43 2 f)
  | .mandn f => some (encVv 0x43 3 f)
  | .mnot f => some (encVv 0x43 4 f)
  | .mpopc f => some (encVv 0x43 5 f)
  | .mfirst f => some (encVv 0x43 6 f)
  | .vqblk f => some (encVv 0x44 0 f)
  | .vdqblk f => some (encVv 0x44 1 f)
  | .vsacc f => some (encVv 0x44 2 f)
  | .vld f | .vldff f => some (encVm 0x50 0 f)
  | .vlds f => some (encVm 0x51 0 f)
  | .vldx f => some (encVm 0x52 0 f)
  | .vldseg fn f => some (encVm 0x53 fn f)
  | .vldscUnit f => some (encVm 0x54 0 f)
  | .vldscStrided f => some (encVm 0x54 1 f)
  | .vldscIndexed f => some (encVm 0x54 2 f)
  | .vst f => some (encVm 0x58 0 f)
  | .vsts f => some (encVm 0x59 0 f)
  | .vstx f => some (encVm 0x5A 0 f)
  | .vstseg fn f => some (encVm 0x5B fn f)
  | .vstbm f => some (encVm 0x5C 0 f)
  | .vstscUnit f => some (encVm 0x5D 0 f)
  | .vstscStrided f => some (encVm 0x5D 1 f)
  | .vstscIndexed f => some (encVm 0x5D 2 f)
  | .amoSwap f => some (encVm 0x60 0 f)
  | .amoCas f => some (encVm 0x60 1 f)
  | .amoAdd f => some (encVm 0x60 2 f)
  | .amoAnd f => some (encVm 0x60 3 f)
  | .amoOr f => some (encVm 0x60 4 f)
  | .amoXor f => some (encVm 0x60 5 f)
  | .amoMin f => some (encVm 0x60 6 f)
  | .amoMax f => some (encVm 0x60 7 f)
  | .amoMinn f => some (encVm 0x60 8 f)
  | .amoMaxn f => some (encVm 0x60 9 f)
  | .vamoSwap f => some (encVm 0x61 0 f)
  | .vamoCas f => some (encVm 0x61 1 f)
  | .vamoAdd f => some (encVm 0x61 2 f)
  | .vamoAnd f => some (encVm 0x61 3 f)
  | .vamoOr f => some (encVm 0x61 4 f)
  | .vamoXor f => some (encVm 0x61 5 f)
  | .vamoMin f => some (encVm 0x61 6 f)
  | .vamoMax f => some (encVm 0x61 7 f)
  | .vamoMinn f => some (encVm 0x61 8 f)
  | .vamoMaxn f => some (encVm 0x61 9 f)
  | .vsadd f => some (encVm 0x62 0 f)
  | .vwait f => some (encRr 0x63 0 f)
  | .fence f => some (encVm 0x64 0 f)
  | .probe f => some (encVm 0x65 0 f)
  | .binit f => some (encRr 0x66 0 f)
  | .arrive f => some (encRr 0x66 1 f)
  | .bwait f => some (encRr 0x66 2 f)
  | .sld sz f => some (encSg 0x68 (sz.setWidth 6) f)
  | .sst sz f => some (encSg 0x69 (sz.setWidth 6) f)
  | .strn f => some (encSg 0x6A 0 f)
  | .stbl f => some (encRi 0x6B 0 f)
  | .sbind f => some (encRi 0x6C 0 f)
  | .sunbind f => some (encRi 0x6D 0 f)
  | .sqry f => some (encSg 0x6E 0 f)
  | .cdef f => some (encCl 0x70 0 f)
  | .cld f => some (encCl 0x71 0 f)
  | .cst f => some (encCl 0x72 0 f)
  | .clen f => some (encCl 0x73 0 f)
  | .cpend f => some (encCl 0x74 0 f)
  | .cclr f => some (encCl 0x75 0 f)
  | .cselScalar f => some (encCl 0x76 0 f)
  | .cselColumn f => some (encCl 0x76 0 f)
  | .cselList f => some (encCl 0x76 0 f)
  | .cprj f => some (encCl 0x77 0 f)
  | .cjoinSemi f => some (encCl 0x78 0 f)
  | .cjoinAnti f => some (encCl 0x78 0 f)
  | .cjoinInner f => some (encCl 0x78 0 f)
  | .cgrp f => some (encCl 0x79 0 f)
  | .caggSum f => some (encCl 0x7A 0 f)
  | .caggMin f => some (encCl 0x7A 0 f)
  | .caggMax f => some (encCl 0x7A 0 f)
  | .caggCntWhole f => some (encCl 0x7A 0 f)
  | .caggSumWhole f => some (encCl 0x7A 0 f)
  | .caggMinWhole f => some (encCl 0x7A 0 f)
  | .caggMaxWhole f => some (encCl 0x7A 0 f)
  | .caggCnt f => some (encCl 0x7A 0 f)
  | .csortDesc f => some (encCl 0x7B 0 f)
  | .csort f => some (encCl 0x7B 0 f)
  | .cuniq f => some (encCl 0x7C 0 f)
  | .ctopkMin f => some (encCl 0x7D 0 f)
  | .ctopk f => some (encCl 0x7D 0 f)
  | .tenq f => some (encRr 0x80 0 f)
  | .tqry f => some (encRr 0x81 0 f)
  | .tcancel f => some (encRr 0x82 0 f)
  | .batch f => some (encBt 0x88 0 f)
  | .publ f => some (encRr 0x89 0 f)
  | .xtbl f => some (encRi 0x8A 0 f)
  | .csrr f => some (encSy 0x90 0 f)
  | .csrw f => some (encSy 0x90 1 f)
  | .csrs f => some (encSy 0x90 2 f)
  | .csrc f => some (encSy 0x90 3 f)
  | .trap f => some (encSy 0x91 0 f)
  | .rft f => some (encSy 0x91 1 f)
  | .isync f => some (encSy 0x91 2 f)
  | .halt f => some (encSy 0x91 3 f)
  | .brk f => some (encSy 0x91 4 f)
  | .tlbinvPage f | .tlbinvAll f => some (encSy 0x91 5 f)
  | .vsave f => some (encSy 0x92 0 f)
  | .vrest f => some (encSy 0x92 1 f)
  | .launch f => some (encRr 0x93 0 f)
  | .yield f => some (encRr 0x93 1 f)
  | .exit f => some (encRr 0x93 2 f)
  | .chputOpen f | .chputClose f => some (encRr 0x94 0 f)
  | .chgetOpen f | .chgetClose f => some (encRr 0x94 1 f)
  | .wmbind f => some (encRr 0x95 0 f)
  | .wmpub f => some (encRr 0x95 1 f)
  | .setvl f => some (encVv 0x9F 0 f)
  | .vcfg f => some (encVv 0x9F 1 f)
  | _ => none


/-- Which instruction word a constructor stands for; none for a step record, a command or an event. -/
def Instr.op (i : Instr) : Option Op :=
  match i with
  | .add .. => some .add
  | .sub .. => some .sub
  | .mul .. => some .mul
  | .mulh .. => some .mulh
  | .mulhn .. => some .mulhn
  | .div .. => some .div
  | .divn .. => some .divn
  | .rem .. => some .rem
  | .remn .. => some .remn
  | .and .. => some .and
  | .or .. => some .or
  | .xor .. => some .xor
  | .andn .. => some .andn
  | .shl .. => some .shl
  | .shr .. => some .shr
  | .sra .. => some .sra
  | .rotl .. => some .rotl
  | .min .. => some .min
  | .max .. => some .max
  | .minn .. => some .minn
  | .maxn .. => some .maxn
  | .sel .. => some .sel
  | .fshl .. => some .fshl
  | .fshr .. => some .fshr
  | .addi .. => some .addi
  | .andi .. => some .andi
  | .ori .. => some .ori
  | .xori .. => some .xori
  | .shli .. => some .shli
  | .shri .. => some .shri
  | .srai .. => some .srai
  | .rotli .. => some .rotli
  | .bext .. => some .bext
  | .bins .. => some .bins
  | .clz .. => some .clz
  | .ctz .. => some .ctz
  | .popc .. => some .popc
  | .rdls .. => some .rdls
  | .setc .. => some .setc
  | .li .. => some .li
  | .lih .. => some .lih
  | .pcadd .. => some .pcadd
  | .ld .. => some .ld
  | .st .. => some .st
  | .ldOrdered .. => some .ldOrdered
  | .stOrdered .. => some .stOrdered
  | .bc .. => some .bc
  | .j .. => some .j
  | .jl .. => some .jl
  | .jr .. => some .jr
  | .loop .. => some .loop
  | .lbrk .. => some .lbrk
  | .nop .. => some .nop
  | .vaddVv .. => some .vaddVv
  | .vaddVs .. => some .vaddVs
  | .vaddVi .. => some .vaddVi
  | .vsubVv .. => some .vsubVv
  | .vsubVs .. => some .vsubVs
  | .vsubVi .. => some .vsubVi
  | .vmulVv .. => some .vmulVv
  | .vmulVs .. => some .vmulVs
  | .vmulVi .. => some .vmulVi
  | .vmulhVv .. => some .vmulhVv
  | .vmulhVs .. => some .vmulhVs
  | .vmulhVi .. => some .vmulhVi
  | .vmacVv .. => some .vmacVv
  | .vmacVs .. => some .vmacVs
  | .vmacVi .. => some .vmacVi
  | .vaddsVv .. => some .vaddsVv
  | .vaddsVs .. => some .vaddsVs
  | .vaddsVi .. => some .vaddsVi
  | .vsubsVv .. => some .vsubsVv
  | .vsubsVs .. => some .vsubsVs
  | .vsubsVi .. => some .vsubsVi
  | .vavgVv .. => some .vavgVv
  | .vavgVs .. => some .vavgVs
  | .vavgVi .. => some .vavgVi
  | .vabsdVv .. => some .vabsdVv
  | .vabsdVs .. => some .vabsdVs
  | .vabsdVi .. => some .vabsdVi
  | .vminVv .. => some .vminVv
  | .vminVs .. => some .vminVs
  | .vminVi .. => some .vminVi
  | .vmaxVv .. => some .vmaxVv
  | .vmaxVs .. => some .vmaxVs
  | .vmaxVi .. => some .vmaxVi
  | .vandVv .. => some .vandVv
  | .vandVs .. => some .vandVs
  | .vandVi .. => some .vandVi
  | .vorVv .. => some .vorVv
  | .vorVs .. => some .vorVs
  | .vorVi .. => some .vorVi
  | .vxorVv .. => some .vxorVv
  | .vxorVs .. => some .vxorVs
  | .vxorVi .. => some .vxorVi
  | .vshlVv .. => some .vshlVv
  | .vshlVs .. => some .vshlVs
  | .vshlVi .. => some .vshlVi
  | .vshrVv .. => some .vshrVv
  | .vshrVs .. => some .vshrVs
  | .vshrVi .. => some .vshrVi
  | .vsraVv .. => some .vsraVv
  | .vsraVs .. => some .vsraVs
  | .vsraVi .. => some .vsraVi
  | .vfshlVv .. => some .vfshlVv
  | .vfshlVs .. => some .vfshlVs
  | .vfshlVi .. => some .vfshlVi
  | .vfshrVv .. => some .vfshrVv
  | .vfshrVs .. => some .vfshrVs
  | .vfshrVi .. => some .vfshrVi
  | .vclz .. => some .vclz
  | .vpopc .. => some .vpopc
  | .vcmp .. => some .vcmp
  | .vsel .. => some .vsel
  | .vwid .. => some .vwid
  | .vnar .. => some .vnar
  | .vpxu .. => some .vpxu
  | .vpxp .. => some .vpxp
  | .vfaddVv .. => some .vfaddVv
  | .vfaddVs .. => some .vfaddVs
  | .vfsubVv .. => some .vfsubVv
  | .vfsubVs .. => some .vfsubVs
  | .vfmulVv .. => some .vfmulVv
  | .vfmulVs .. => some .vfmulVs
  | .vfmaVv .. => some .vfmaVv
  | .vfmaVs .. => some .vfmaVs
  | .vfminVv .. => some .vfminVv
  | .vfminVs .. => some .vfminVs
  | .vfmaxVv .. => some .vfmaxVv
  | .vfmaxVs .. => some .vfmaxVs
  | .vfdivVv .. => some .vfdivVv
  | .vfdivVs .. => some .vfdivVs
  | .vfsqrt .. => some .vfsqrt
  | .vfrcp .. => some .vfrcp
  | .vfrsq .. => some .vfrsq
  | .vfexp2 .. => some .vfexp2
  | .vflog2 .. => some .vflog2
  | .vfclass .. => some .vfclass
  | .vfround .. => some .vfround
  | .vfcmp .. => some .vfcmp
  | .vfcvt .. => some .vfcvt
  | .vficvt .. => some .vficvt
  | .vmvx .. => some .vmvx
  | .vmvs .. => some .vmvs
  | .vbc .. => some .vbc
  | .vslu .. => some .vslu
  | .vsld .. => some .vsld
  | .vperm .. => some .vperm
  | .vcomp .. => some .vcomp
  | .vexp .. => some .vexp
  | .viota .. => some .viota
  | .vredsum .. => some .vredsum
  | .vredmax .. => some .vredmax
  | .vredmin .. => some .vredmin
  | .vredand .. => some .vredand
  | .vredor .. => some .vredor
  | .vfredsum .. => some .vfredsum
  | .vfredsumFold .. => some .vfredsumFold
  | .vfredsumFin .. => some .vfredsumFin
  | .vfredsumInit .. => some .vfredsumInit
  | .vgmax .. => some .vgmax
  | .vscan .. => some .vscan
  | .mand .. => some .mand
  | .mor .. => some .mor
  | .mxor .. => some .mxor
  | .mandn .. => some .mandn
  | .mnot .. => some .mnot
  | .mpopc .. => some .mpopc
  | .mfirst .. => some .mfirst
  | .vqblk .. => some .vqblk
  | .vdqblk .. => some .vdqblk
  | .vsacc .. => some .vsacc
  | .vld .. => some .vld
  | .vldff .. => some .vldff
  | .vlds .. => some .vlds
  | .vldx .. => some .vldx
  | .vldseg .. => some .vldseg
  | .vldscUnit .. => some .vldscUnit
  | .vldscStrided .. => some .vldscStrided
  | .vldscIndexed .. => some .vldscIndexed
  | .vst .. => some .vst
  | .vsts .. => some .vsts
  | .vstx .. => some .vstx
  | .vstseg .. => some .vstseg
  | .vstbm .. => some .vstbm
  | .vstscUnit .. => some .vstscUnit
  | .vstscStrided .. => some .vstscStrided
  | .vstscIndexed .. => some .vstscIndexed
  | .amoSwap .. => some .amoSwap
  | .amoCas .. => some .amoCas
  | .amoAdd .. => some .amoAdd
  | .amoAnd .. => some .amoAnd
  | .amoOr .. => some .amoOr
  | .amoXor .. => some .amoXor
  | .amoMin .. => some .amoMin
  | .amoMax .. => some .amoMax
  | .amoMinn .. => some .amoMinn
  | .amoMaxn .. => some .amoMaxn
  | .vamoSwap .. => some .vamoSwap
  | .vamoCas .. => some .vamoCas
  | .vamoAdd .. => some .vamoAdd
  | .vamoAnd .. => some .vamoAnd
  | .vamoOr .. => some .vamoOr
  | .vamoXor .. => some .vamoXor
  | .vamoMin .. => some .vamoMin
  | .vamoMax .. => some .vamoMax
  | .vamoMinn .. => some .vamoMinn
  | .vamoMaxn .. => some .vamoMaxn
  | .vsadd .. => some .vsadd
  | .vwait .. => some .vwait
  | .fence .. => some .fence
  | .probe .. => some .probe
  | .binit .. => some .binit
  | .arrive .. => some .arrive
  | .bwait .. => some .bwait
  | .sld .. => some .sld
  | .sst .. => some .sst
  | .strn .. => some .strn
  | .stbl .. => some .stbl
  | .sbind .. => some .sbind
  | .sunbind .. => some .sunbind
  | .sqry .. => some .sqry
  | .cdef .. => some .cdef
  | .cld .. => some .cld
  | .cst .. => some .cst
  | .clen .. => some .clen
  | .cpend .. => some .cpend
  | .cclr .. => some .cclr
  | .cselScalar .. => some .cselScalar
  | .cselColumn .. => some .cselColumn
  | .cselList .. => some .cselList
  | .cprj .. => some .cprj
  | .cjoinInner .. => some .cjoinInner
  | .cjoinSemi .. => some .cjoinSemi
  | .cjoinAnti .. => some .cjoinAnti
  | .cgrp .. => some .cgrp
  | .caggCnt .. => some .caggCnt
  | .caggSum .. => some .caggSum
  | .caggMin .. => some .caggMin
  | .caggMax .. => some .caggMax
  | .caggCntWhole .. => some .caggCntWhole
  | .caggSumWhole .. => some .caggSumWhole
  | .caggMinWhole .. => some .caggMinWhole
  | .caggMaxWhole .. => some .caggMaxWhole
  | .csort .. => some .csort
  | .csortDesc .. => some .csortDesc
  | .cuniq .. => some .cuniq
  | .ctopk .. => some .ctopk
  | .ctopkMin .. => some .ctopkMin
  | .tenq .. => some .tenq
  | .tqry .. => some .tqry
  | .tcancel .. => some .tcancel
  | .batch .. => some .batch
  | .publ .. => some .publ
  | .xtbl .. => some .xtbl
  | .csrr .. => some .csrr
  | .csrw .. => some .csrw
  | .csrs .. => some .csrs
  | .csrc .. => some .csrc
  | .trap .. => some .trap
  | .rft .. => some .rft
  | .isync .. => some .isync
  | .halt .. => some .halt
  | .brk .. => some .brk
  | .tlbinvPage .. => some .tlbinvPage
  | .tlbinvAll .. => some .tlbinvAll
  | .vsave .. => some .vsave
  | .vrest .. => some .vrest
  | .launch .. => some .launch
  | .yield .. => some .yield
  | .exit .. => some .exit
  | .chputOpen .. => some .chputOpen
  | .chputClose .. => some .chputClose
  | .chgetOpen .. => some .chgetOpen
  | .chgetClose .. => some .chgetClose
  | .wmbind .. => some .wmbind
  | .wmpub .. => some .wmpub
  | .setvl .. => some .setvl
  | .vcfg .. => some .vcfg
  | _ => none

/-- The instruction that the decoder reads from a word whose bits are `w`; an instruction is one 64-bit word, so bits
above `nbits` are zero. The bytes are laid out little-endian (R81). -/
noncomputable def decodeTableWord (nbits w : Nat) : Option Instr :=
  match decode (BitVec.ofNat 64 (w % 2 ^ nbits)) with
  | .ok i => some i
  | .error _ => none

end Sys2Proof
end

