-- ==== Sys2Proof/Config.lean ====
section
/-! DEFINITION. What the spec leaves open: the free values, which no proof can evaluate, and the constants that the
assumption log names. -/
namespace Sys2Proof.Config

/-- A fresh 64-bit value that the spec does not give; the index is `State.tick`
(CYCLE of R65, COUNT of a failed command of R366, overlapping engine writes of R371, R129). -/
opaque freeWord : Nat → Word

/-- A fresh choice that the spec leaves to the device (whether an access reaches the DRAM array, R509; whether the
event ring is full, R504). -/
opaque freeBool : Nat → Bool

/-- The combination of a reduction under CANON = 0 (R129): a free 64-bit value, cut to the element width (DESIGN CHOICE, log 61). -/
opaque freeReduction : Nat → Word

/-- A signing key that the security block derives from the device secret: algorithm 0 RSASSA-PSS, 1 SLH-DSA, and the
life-cycle state (R468, R469). -/
opaque signingKey (alg life : Nat) : BitVec 384

/-- A signature over some bytes under a key (R467, R468). -/
opaque sign (alg : Nat) (key : BitVec 384) (bytes : List Byte) : List Byte

/-- The digests of the two firmware images of a boot: image 2k is trusted firmware of boot k, 2k + 1 service firmware (R467). -/
opaque imageDigest : Nat → BitVec 384

/-- Its version, the digest of the public key that it carries for an algorithm, and whether its signature verifies under that
key (R467). -/
opaque imageVersion : Nat → BitVec 32
opaque imageKey (alg image : Nat) : BitVec 384
opaque imageVerifies (alg image : Nat) : Bool

/-- What is fused into the part: the minimum version of trusted (0) and service (1) firmware, the digests of the public keys
(R467). -/
opaque fusedVersion : Nat → BitVec 32
opaque fusedKey (alg : Nat) : BitVec 384

/-- The 16 KiB page of the DVBASE under which a destination serves a window of a source device (R495, R496): no packet
carries it (DESIGN CHOICE, log 52). -/
opaque exportPage : Nat → Nat → BitVec 43

/-- DVBASE: a multiple of 16 KiB (26 Table 26.4). -/
def exportBase (src win : Nat) : Nat := 16384 * (exportPage src win).toNat

end Sys2Proof.Config
end

