-- ==== Sys2Proof/Machine/Sha.lean ====
section
/-! DEFINITION. SHA-384, in which firmware measurements are extended (24 R468), and the packet error code of the management
port (28 R517). The algorithms are those of FIPS 180-4 and of SMBus (PRESUMED, log 72). -/
namespace Sys2Proof.Machine

/-! ## Constants -/

/-- The greatest r with r ^ k ≤ n, found bit by bit from 2 ^ (bits - 1) down. -/
def natRoot (k n : Nat) : Nat → Nat → Nat
  | 0, r => r
  | bits + 1, r => if (r + 2 ^ bits) ^ k ≤ n then natRoot k n bits (r + 2 ^ bits) else natRoot k n bits r

/-- The first 64 bits of the fraction of a k-th root. -/
def rootFraction (k p : Nat) : BitVec 64 := BitVec.ofNat 64 (natRoot k (p * 2 ^ (64 * k)) 72 0)

/-- The first n primes. -/
def primes (n : Nat) : List Nat :=
  ((List.range 410).filter fun p => 2 ≤ p && (List.range p).all fun d => d < 2 || p % d != 0).take n

/-- The constants of the 80 rounds. -/
def shaRounds : List (BitVec 64) := (primes 80).map (rootFraction 3)

/-- The initial hash value of SHA-384: of the ninth to the sixteenth prime. -/
def shaInit : List (BitVec 64) := ((primes 16).drop 8).map (rootFraction 2)

/-! ## Compression -/

/-- Rotation to the right. -/
def ror (x : BitVec 64) (n : Nat) : BitVec 64 := x.rotateRight n

/-- The message schedule, newest word first, grown by n words. -/
def shaSchedule : Nat → List (BitVec 64) → List (BitVec 64)
  | 0, w => w
  | n + 1, w =>
    let x := w.getD 14 0
    let y := w.getD 1 0
    let s0 := ror x 1 ^^^ ror x 8 ^^^ (x >>> 7)
    let s1 := ror y 19 ^^^ ror y 61 ^^^ (y >>> 6)
    shaSchedule n ((s1 + w.getD 6 0 + s0 + w.getD 15 0) :: w)

/-- One round, on the eight working variables a to h. -/
def shaRound (v : List (BitVec 64)) (kw : BitVec 64 × BitVec 64) : List (BitVec 64) :=
  match v with
  | [a, b, c, d, e, f, g, h] =>
    let t1 := h + (ror e 14 ^^^ ror e 18 ^^^ ror e 41) + ((e &&& f) ^^^ (~~~e &&& g)) + kw.1 + kw.2
    let t2 := (ror a 28 ^^^ ror a 34 ^^^ ror a 39) + ((a &&& b) ^^^ (a &&& c) ^^^ (b &&& c))
    [t1 + t2, a, b, c, d + t1, e, f, g]
  | v => v

/-- The hash value after a block of sixteen words. -/
def shaBlock (h w : List (BitVec 64)) : List (BitVec 64) :=
  let out := (shaRounds.zip (shaSchedule 64 w.reverse).reverse).foldl shaRound h
  h.zipWith (· + ·) out

/-- The words of some bytes, the first byte of each most significant. -/
def bigWords : Nat → List Byte → List (BitVec 64)
  | 0, _ => []
  | n + 1, bs => BitVec.ofNat 64 ((bs.take 8).foldl (fun a b => 256 * a + b.toNat) 0) :: bigWords n (bs.drop 8)

/-- The hash value after every block of a padded message. -/
def shaBlocks : Nat → List (BitVec 64) → List Byte → List (BitVec 64)
  | 0, h, _ => h
  | n + 1, h, bs => shaBlocks n (shaBlock h (bigWords 16 bs)) (bs.drop 128)

/-- SHA-384 of some bytes. -/
def sha384 (bs : List Byte) : BitVec 384 :=
  let n := bs.length
  let pad := (239 - n % 128) % 128
  let len := (List.range 16).map fun i => BitVec.ofNat 8 (8 * n / 256 ^ (15 - i))
  let padded := bs ++ [0x80#8] ++ List.replicate pad 0 ++ len
  let h := shaBlocks (padded.length / 128) shaInit padded
  BitVec.ofNat 384 ((h.take 6).foldl (fun a w => 2 ^ 64 * a + w.toNat) 0)

/-- The 48 bytes of a digest, in the order in which it is written. -/
def digestBytes (d : BitVec 384) : List Byte := (List.range 48).map fun i => BitVec.ofNat 8 (d.toNat / 256 ^ (47 - i))

/-- R468: a measurement register extended by a digest. -/
def measure (m digest : BitVec 384) : BitVec 384 := sha384 (digestBytes m ++ digestBytes digest)

/-! ## The packet error code -/

/-- One bit of CRC-8 with polynomial x^8 + x^2 + x + 1. -/
def crc8Bit (c : Nat) : Nat := if c < 128 then 2 * c else Nat.xor (2 * c % 256) 7

/-- CRC-8 of some bytes, the first byte first. -/
def crc8 (bs : List Byte) : Byte :=
  BitVec.ofNat 8 (bs.foldl (fun c b =>
    crc8Bit (crc8Bit (crc8Bit (crc8Bit (crc8Bit (crc8Bit (crc8Bit (crc8Bit (Nat.xor c b.toNat))))))))) 0)

end Sys2Proof.Machine
end

