-- ==== Sys2Proof/Machine/State.lean ====
section
/-! DEFINITION. The state of one Priom package: everything that the spec gives the machine, as plain data, and the
state after cold reset. A table with one entry per number is kept sparse, in rising order of number and without entries
that equal what an unlisted number holds. -/
namespace Sys2Proof.Machine

/-- A sparse table: (number, value) pairs. -/
abbrev Table (α : Type) := List (Nat × α)

/-! ## The machine's outcomes -/

/-- Reasons to stop with a fault. The device has none: every fault of an instruction is a trap (R430) or ends a context
(R436), and both are next states. -/
inductive Fault
  deriving DecidableEq, Repr

/-- Reasons to refuse a step. -/
inductive Refusal where
  /-- Raised by the dispatch for an instruction that has no meaning yet; safe. -/
  | notModelled (mnemonic : String)
  deriving DecidableEq, Repr

/-! ## One sequencer -/

/-- The two levels of R429. -/
inductive Level where
  | program
  | supervisor
  deriving DecidableEq, Repr

/-- One loop-stack entry (06 Table 6.4): H marks a loop opened while a trap is handled. -/
structure Loop where
  h : Bool
  last : BitVec 57
  first : BitVec 57
  count : Word
  index : Word
  deriving DecidableEq, Repr

/-- An open chute slot of an instance (R414): the chute, whether it was opened by `chput`, and the slot number k. -/
structure OpenSlot where
  chute : Nat
  put : Bool
  slot : Nat
  deriving DecidableEq, Repr

/-- A stage instance, named as R440 names the owner of a context block. -/
structure InstId where
  serial : Nat
  stage : Nat
  idx : Nat
  deriving DecidableEq, Repr

/-- The vector side of one sequencer (03 Tables 3.2 to 3.6, 07 R159, 22 Table 22.7). Register n holds its low VLMAX bits;
the bits above are zero. Mask register 0 is not stored: it reads all ones (R59). Bit j of a poison map is the poison bit
of 64-bit group j. -/
structure Vec where
  v : Vector (BitVec 65536) 32
  pois : Vector (BitVec 1024) 32
  m : Vector (BitVec 16384) 8
  vl : Nat
  vstart : Nat
  ew : BitVec 3
  ty : BitVec 3
  nreg : BitVec 2
  vlmax : Nat
  hwm : Word
  deriving DecidableEq, Repr

/-- One sequencer and the instance placed on it. -/
structure Hart where
  /-- Package-wide core number (R12) and sequencer within the core. -/
  core : Nat
  sq : Nat
  /-- An instance is placed here. -/
  live : Bool
  /-- Its context, and its name. -/
  ctx : Nat
  inst : InstId
  /-- The number of its context block (R440). -/
  blk : Nat
  level : Level
  pc : Word
  g : Vector Word 32
  /-- The loop stack, innermost first (R63). -/
  loops : List Loop
  cols : Vector (BitVec 512) 16
  rmode : Word
  seed : Word
  wid : Word
  wfmt : Word
  parklim : Word
  /-- The bound watermark line (R413). -/
  wmark : Option Nat
  cause : Word
  epc : Word
  tvec : Word
  tval : Word
  cycle : Word
  /-- The lane group held and the partition G that it belongs to (R67). -/
  group : Option Nat
  part : Nat
  /-- The LPART view, without PEND (R71), and PEND. -/
  lpart : Word
  pend : Bool
  /-- GCAP (R69), and the length limit TVL as it reached the instance (R68, 24 Table 24.3). -/
  gcap : Nat
  tvl : Nat
  vec : Vec
  /-- Whose state the vector storage holds (R442); none when it holds no one's. -/
  owner : Option (Nat × InstId)
  /-- The instance has vector state in its save block, saved with this VLMAX, which a restore loads (R442). -/
  vsaved : Option Nat
  /-- An armed one-shot suppression of a breakpoint match (R446, R450). -/
  skipBp : Bool
  /-- The open chute slots (R414). -/
  slots : List OpenSlot
  /-- The instruction at the PC waits (point 2 of R437). -/
  waiting : Bool
  /-- Point 1 of R437: an iteration boundary or a taken backward branch was just passed. -/
  atPoint : Bool
  /-- `yield` was just executed (R407, R425), or a quantum has expired. -/
  mayYield : Bool
  /-- The word of the instruction at the PC, while its accesses wait for other devices (R497). -/
  held : Option Word
  /-- A pre-emption request is pending (R437), and it has waited PREEMPT_GRACE. -/
  preq : Bool
  grace : Bool
  deriving DecidableEq, Repr

/-- An instance that is switched out: its scalar state stands in its context block (R440). -/
structure Saved where
  ctx : Nat
  inst : InstId
  blk : Nat
  /-- Stopped by `halt` or a breakpoint (R452), so that only RESUME makes it eligible. -/
  halted : Bool
  /-- The VLMAX of its vector state, for R443, and where that state is still kept (VLAZY). -/
  vsaved : Option Nat
  lazyAt : Option (Nat × Nat)
  /-- Where a switch-in of it that found no free lane group has asked for one (R409, R417). -/
  asked : Option (Nat × Nat)
  cycle : Word
  slots : List OpenSlot
  /-- A one-shot suppression of a breakpoint match that was armed when it landed (R446, R450). -/
  skipBp : Bool
  deriving DecidableEq, Repr

/-! ## Contexts -/

/-- One binding of a staged region (R340, R341): its number, its virtual range, its table slot, and the physical extents
(virtual start, physical start, bytes) that carry it. -/
structure Bind where
  num : Nat
  va : Nat
  size : Nat
  slot : Nat
  extents : List (Nat × Nat × Nat)
  deriving DecidableEq, Repr

/-- One context (24 R459). -/
structure Ctx where
  /-- Isolation entry words (24 Table 24.2). -/
  w0 : Word
  w1 : Word
  w2 : Word
  w3 : Word
  w4 : Word
  /-- The staged table images in slots (R340). -/
  slots : Table (BitVec 512)
  binds : List Bind
  /-- Transducer tables, as image bytes (R387). -/
  xslots : Table (List Byte)
  /-- Breakpoint registers (22 Table 22.10). -/
  bps : Table Word
  suspended : Bool
  /-- Ended by an imprecise fault (R465). -/
  ended : Bool
  /-- The blocks of the save pool in use (R440). -/
  blocks : List Nat
  deriving DecidableEq, Repr

/-- Launch state of one chute: its counters and the physical lines of its control lines (R401, R414). -/
structure Chute where
  put : Nat
  get : Nat
  lines : List Nat
  deriving DecidableEq, Repr

/-- A launch that has not ended (20 R402). -/
structure Launch where
  serial : Nat
  ctx : Nat
  level : Level
  /-- The 832 bytes of its version-3 record. -/
  image : List Byte
  arg : Word
  prio : Nat
  /-- Per stage: the next instance to start, how often the stage was passed over since it last started one (R408), and the
  instances that have executed `exit`. -/
  next : List Nat
  passed : List Nat
  exited : List Nat
  chutes : List Chute
  deriving DecidableEq, Repr

/-! ## Agents that act beside the sequencers -/

/-- Who makes an access (R290). -/
inductive Agent where
  | seq (core sq : Nat)
  | fetch (core sq : Nat)
  | task (h : Word)
  | cmd (id : Nat)
  | launch (serial : Nat)
  | queue (fn q : Nat)
  | remote (src cls seq : Nat)
  | firmware
  deriving DecidableEq, Repr

/-- States of a tile task (09 Table 9.10). -/
inductive TaskState where
  | queued
  | ready
  | running
  | interrupted
  | done
  | failed
  | cancelled
  deriving DecidableEq, Repr

/-- A slot of the operand latch (09 R205): format, 64 rows of 32 values of 32 bits, 64 scale codes, 64 bitmaps. -/
structure LatchSlot where
  fmt : Option Nat
  vals : BitVec 65536
  scales : BitVec 1024
  maps : BitVec 2048
  deriving DecidableEq, Repr

/-- The partial-sum buffer when full (R211): unit exponent, scale codes, sums in row order; none is a NaN marker (R123). -/
structure Psum where
  unit : Int
  ea : List Nat
  eb : List Nat
  sums : List (Option Int)
  deriving DecidableEq, Repr

/-- A tile task (09). -/
structure Task where
  h : Word
  clus : Nat
  ctx : Nat
  level : Level
  /-- The record's address and the scheduler's copy (R204). -/
  addr : Nat
  image : List Byte
  state : TaskState
  cause : Nat
  place : Nat
  kdone : Nat
  /-- The next wait and signal entries. -/
  nextWait : Nat
  nextSig : Nat
  /-- The signals run the failure path of R222. -/
  failing : Bool
  snext : Nat
  knext : Nat
  /-- The class that ageing has raised it to (R422). -/
  prio : Nat
  cancelReq : Bool
  suspendReq : Bool
  /-- Its spill has begun at an interruption point and waits (R219). -/
  stopping : Bool
  /-- STATUS and FADDR writes that are not performed yet (offset in the record, value), oldest first, and the status that
  `tqry` reports until they are (R204, R221, R222). -/
  owes : List (Nat × Word)
  shown : Word
  a : Vector LatchSlot 4
  b : Vector LatchSlot 4
  psum : Option Psum
  /-- Eight tiles; element (i, j) is bits 48(64i + j) + 47 down to 48(64i + j). -/
  acc : Vector (BitVec 196608) 8
  deriving DecidableEq, Repr

/-- A task cluster: the tasks accepted since cold reset (R224), the context served last (R422). -/
structure Cluster where
  accepted : Nat
  turn : Nat
  /-- Ended tasks, newest first, as (context, handle, status word) (R225). -/
  log : List (Nat × Word × Word)
  deriving DecidableEq, Repr

/-- Where a command stands. -/
inductive CmdPhase where
  /-- The accesses of its kind are to come. -/
  | work
  /-- Its status and completion signal are to come. -/
  | complete
  /-- Its status is written and its signal is to come, or is parked. -/
  | held
  /-- Its status is to come, and no signal after it (R520). -/
  | final
  /-- A STORRD that has ended while completion entries of its NVMe commands are still to come. -/
  | late
  deriving DecidableEq, Repr

/-- A write of a command to come, of at most a line once it is cut (R372): its address and the alignment asked for, its bytes,
the way of a transducer run, the address of the poisoned source line that it copies whole (R375). -/
structure LineStore where
  va : Nat
  align : Nat
  bytes : List Byte
  way : Nat
  pois : Option Nat
  deriving DecidableEq, Repr

/-- The part of a STORRD's work that waits where it stands; no other part goes on before it (17 R389). -/
inductive QueueWork where
  | submit
  | consume
  | land
  deriving DecidableEq, Repr

/-- An engine command in flight (17). -/
structure Cmd where
  id : Nat
  core : Nat
  ctx : Nat
  level : Level
  /-- Words 0 to 7 of its record. -/
  w : List Word
  /-- The transducer table captured at acceptance (R384). -/
  table : List Byte
  slotted : Bool
  phase : CmdPhase
  failed : Bool
  cause : Nat
  sct : Nat
  sc : Nat
  count : Nat
  faddr : Word
  /-- Its FAILED status stands in memory (R520). -/
  seen : Bool
  /-- Its source is read, and these writes are to come; the failure that follows them; bytes written to each way of a
  transducer run, and whether WCNT stands among the writes. -/
  begun : Bool
  left : List LineStore
  fate : Option (Nat × Word)
  wrote : List Nat
  tallied : Bool
  /-- NVMe commands outstanding: (command identifier, first byte of the piece, bytes); the identifier of the one being
  submitted; bytes asked for so far; whether that is all. -/
  pieces : List (Nat × Nat × Nat)
  pick : Option Nat
  asked : Nat
  issued : Bool
  /-- Lines of DST that a drive has written in part: (first byte, mask of its bytes) (R318). What a drive has written and has
  yet to land stands in `left`. -/
  cover : List (Nat × Nat)
  /-- The ranges of DST that drives have written, as (first byte, bytes), in order and apart (R389). -/
  filled : List (Nat × Nat)
  /-- The bytes of WCNT of a run whose writes meet each other's or its source: no value of theirs is specified (R371). -/
  loose : Option (List Byte)
  under : Option QueueWork
  deriving DecidableEq, Repr

/-- Which FIFO an access waits in: a physical line's (R347), or a chute's opens (R415). -/
inductive ParkKey where
  | line (n : Nat)
  | chute (serial idx : Nat) (put : Bool)
  deriving DecidableEq, Repr

/-- What a parked access waits for: a transition of a table entry (context of the binding, entry number, kind of 16
Table 16.4), a complete barrier, a watermark count, or its turn and slot at a chute. -/
inductive ParkCond where
  | staged (ctx trn kind : Nat)
  | barrier
  | watermark (target : Nat)
  | slot
  deriving DecidableEq, Repr

/-- A parked access: a sequencer's is the instruction at its PC (its word in `pkt`), a task's its next entry or step, a
command's its signal, a remote agent's the request packet. Its address, the size of the page that it was translated by, and
PARKLIM as captured (R349). -/
structure Park where
  key : ParkKey
  cond : ParkCond
  agent : Agent
  va : Nat
  page : Nat
  lim : Word
  pkt : List Byte
  deriving DecidableEq, Repr

/-- A scatter-addition issued and not yet performed (15 R333): its sequencer and context, the address and the number of its
instruction among those under way, the bytes and the value added. -/
structure Add where
  core : Nat
  sq : Nat
  ctx : Nat
  pc : Word
  ins : Nat
  pa : Nat
  bytes : Nat
  val : Word
  deriving DecidableEq, Repr

/-- A page under migration (R279): the leaf entry's address, the value written at step 1, the page's base addresses in
the two frames, its size. -/
structure Mig where
  entry : Nat
  val : Word
  old : Nat
  new : Nat
  size : Nat
  deriving DecidableEq, Repr

/-- A core (01, 20 R417 to R420). -/
structure Core where
  /-- The partition that the Headframe has decided: G, and the sequencer that each group is for. Who holds what stands
  with the sequencers, for each applies it at its own time (R418). -/
  g : Nat
  groups : List (Option Nat)
  /-- The sequencers that want lanes, in order of request, and those waiting in `setvl`. -/
  want : List Nat
  waitQ : List Nat
  pcap : Nat
  /-- The lane under check (R15). -/
  lane : Nat
  /-- Marked faulty (R482). -/
  faulty : Bool
  deriving DecidableEq, Repr

/-! ## Memory side and recovery -/

/-- Line metadata (25 Table 25.2). -/
structure Meta where
  pois : Bool
  state : BitVec 4
  hint : BitVec 24
  deriving DecidableEq, Repr

/-- One error bank (25 Tables 25.5, 25.6). -/
structure Bank where
  stat : Word
  addr : Word
  misc : Word
  seq : Word
  deriving DecidableEq, Repr

/-- A row on a channel's watch list (25 R480): the periods in a row that have passed without a correction, whether the present
one has had one, and the lines still to read of the present visit. -/
structure Watched where
  row : Nat
  clean : Nat
  hit : Bool
  due : Nat
  deriving DecidableEq, Repr

/-- A DRAM channel (25 R477 to R480): the group that each spare replaces, the failed mark, its poison list, the watched
rows, oldest last correction first, and the lines that the scrubber has read in the present period. -/
structure Channel where
  spare20 : Option Nat
  spare21 : Option Nat
  failed : Bool
  poisons : List Nat
  watch : List Watched
  pos : Nat
  deriving DecidableEq, Repr

/-- The recovery side of the package (25). -/
structure Reliab where
  banks : Table Bank
  errinj : Word
  errinja : Word
  /-- The context that armed ERRINJ. -/
  armer : Option Nat
  /-- A firing bus-stuck injection: the channel number and the attempts corrupted so far. -/
  stuck : Option (Nat × Nat)
  /-- The line of a store of the armer's since it armed ERRINJ that has not crossed the bus yet (R491, R509). -/
  injStore : Option Nat
  evseq : Table Word
  chans : Table Channel
  scrubPeriod : Nat
  /-- Physical lines that a host requester has written and that no agent has loaded or stored since (27 R509). -/
  fresh : List Nat
  /-- Errors in the stored symbols of a line, as bits to XOR onto its 640 (R473). -/
  errors : Table (BitVec 640)
  deriving DecidableEq, Repr

/-! ## Outside -/

/-- A Linkirun port (26 R492, R493). -/
structure Port where
  up : Bool
  /-- The next LSEQ to send, the last flit received in order. -/
  lseq : Nat
  lack : Nat
  /-- Credits of the four traffic classes. -/
  cred : BitVec 32
  /-- Packets taken whose credits are to be returned, for each class. -/
  ret : List Nat
  /-- The flits not yet acknowledged (LSEQ, CRED, DATA), oldest first. -/
  replay : List (Nat × Nat × List Byte)
  /-- Packet bytes waiting to fill a flit, and received packet bytes not yet taken. -/
  tx : List Byte
  rx : List Byte
  errs : Nat
  fails : Nat
  deriving DecidableEq, Repr

/-- One remote access of an agent: where it was sent, and its answer (STAT and payload). -/
structure Remote where
  agent : Agent
  dst : Nat
  cls : Nat
  seq : Nat
  /-- It waits for a response (RD, AT, SA), not for an acknowledgement. -/
  wantsRsp : Bool
  /-- The packet type (26 Table 26.2). -/
  type : Nat
  /-- Its withdrawal has been sent (R500): for PARK_LIMIT, or for a landing (R348). -/
  wdr : Option Bool
  answer : Option (Nat × List Byte)
  deriving DecidableEq, Repr

/-- A piece of an access within one page: its virtual and physical address and bytes, ORDK and MIG of the leaf, the leaf
entry's address, the page's size. -/
structure Part where
  va : Nat
  pa : Nat
  len : Nat
  ordk : Nat
  mig : Bool
  entry : Nat
  page : Nat
  deriving DecidableEq, Repr

/-- The accesses of one instruction or step that has passed its checks and waits for other devices (R303, R497): the
agent, the index of its first remote access, the addresses of the operations, the pieces of each as translated, how many remote accesses are done
with, the results so far (of pieces, or of operations once it is finished). -/
structure Flight where
  agent : Agent
  start : Nat
  vas : List Int
  parts : List (List Part)
  used : Nat
  res : List (List Byte × Bool)
  fin : Bool
  deriving DecidableEq, Repr

/-- Source side of a sequence window (26 R498, R501). -/
structure SrcWin where
  dst : Nat
  cls : Nat
  next : Nat
  /-- Unacknowledged requests (SEQ, packet), oldest first. -/
  retry : List (Nat × List Byte)
  /-- Acknowledged requests whose responses are awaited (SEQ, packet), oldest first: a replay includes them (R501). -/
  kept : List (Nat × List Byte)
  /-- SEQs whose responses are awaited, oldest first (RACK, R499). -/
  awaited : List Nat
  route : Nat
  /-- Routes tried without an ACK (R502). -/
  tries : Nat
  deriving DecidableEq, Repr

/-- Destination side of a sequence window (R498, R499). -/
structure DstWin where
  src : Nat
  cls : Nat
  next : Nat
  recv : List Nat
  /-- The reorder buffer and the result cache (SEQ, packet). -/
  held : List (Nat × List Byte)
  cache : List (Nat × List Byte)
  /-- SEQs withdrawn before delivery (R500). -/
  withdrawn : List Nat
  deriving DecidableEq, Repr

/-- The fabric side (26). -/
structure Fabric where
  devNum : Nat
  ports : Table Port
  /-- Window entries W0 and W1 (26 Table 26.4). -/
  wins : Table (Word × Word)
  exports : Table Word
  src : List SrcWin
  dst : List DstWin
  /-- Route i of device d at 4d + i: V, PORT, ROUTE. -/
  routes : Table (Bool × Nat × Nat)
  ackTmo : Nat
  unreach : List Nat
  deriving DecidableEq, Repr

/-- A host queue (26 R505, R506). -/
structure HostQ where
  qbase : Word
  qctl : Word
  tail : Nat
  head : Nat
  out : Bool
  ptail : Nat
  tvalid : Bool
  /-- STATUS of the entry at HEAD, whose write is not performed yet. -/
  owed : Option Word
  /-- It is to be switched out once the entry in hand is finished (R506). -/
  leaving : Bool
  deriving DecidableEq, Repr

/-- A host function's BAR0 (26 Table 26.7). -/
structure Func where
  mbreq : List Word
  mbrsp : List Word
  done : Bool
  busy : Bool
  evqBase : Word
  evqEn : Bool
  drop : Nat
  tail : Nat
  queues : Table HostQ
  deriving DecidableEq, Repr

/-- Where the package stands in a cold reset or a change of life cycle (24 R470, 28 R515). -/
inductive Boot where
  /-- At work, or in recovery. -/
  | ready
  /-- A cold reset before its step 6. -/
  | reset
  /-- The wipe after a change of life cycle. -/
  | wipe
  deriving DecidableEq, Repr

/-- Management and security (24, 28). -/
structure Mgmt where
  boot : Boot
  /-- The strap pins MADDR (28 R517). -/
  maddr : Nat
  /-- The signing keys of the security block, for RSASSA-PSS and for SLH-DSA (24 R468, R469). -/
  keys : List (BitVec 384)
  /-- The highest limit in force since the averaging window under way began (28 R513). -/
  held : Nat
  trip : Bool
  limit : Nat
  tthr : Nat
  tio : Nat
  /-- The hotspot temperatures of the four compute dies. -/
  temps : List Nat
  evt : Word
  /-- Average package power over the last window, in watts. -/
  power : Word
  life : Nat
  recovery : Bool
  meas : List (BitVec 384)
  deriving DecidableEq, Repr

/-- What the package has sent outside. -/
inductive Out where
  | packet (port : Nat) (bytes : List Byte)
  | flit (port : Nat) (bytes : List Byte)
  | hostWrite (addr : Nat) (bytes : List Byte)
  | msix (fn vec : Nat)
  | hostReply (fn : Nat) (bytes : List Byte) (poisoned : Bool)
  /-- A memory request of the host is answered with Completer Abort, a configuration request with Request Retry Status
  (R470). -/
  | hostAbort (fn : Nat)
  | hostRetry (fn : Nat)
  /-- A configuration request is answered. -/
  | hostConfig (fn : Nat)
  /-- A context's access to host memory, issued as a CXL.cache request, or as a PCIe memory request with the Requester ID of
  a function (26 R503). -/
  | hostRequest (requester : Option Nat) (write : Bool) (addr : Nat)
  /-- A Block Read's eight data bytes, as a word, and its PEC (R517). -/
  | smbus (data : Word) (pec : Byte)
  /-- SMBALERT# is asserted, or released (R518). -/
  | alert (on : Bool)
  | event (die : Nat) (kind : String)
  deriving DecidableEq, Repr

/-- An error that physics brings, in the terms of the rule that says what follows. `orig` is the ORIG of its record, the
kind of access that met it (25 Table 25.5). -/
inductive Upset where
  /-- Symbols of a stored DRAM line change (R472, R473). -/
  | dramCell (line : Nat) (err : BitVec 640)
  /-- A transfer of a DRAM line fails its parity in successive attempts, each on the pin groups listed (R476). -/
  | vbus (line orig : Nat) (fails : List (List Nat))
  /-- A read of an SRAM line finds one bit wrong in a data word, or with word 8 in the metadata; two bits wrong in a data
  word; two in the metadata (R475). -/
  | sramBit (line word orig : Nat)
  | sramWord (line word orig : Nat)
  | sramMeta (line orig : Nat)
  /-- One bit, or two, wrong in a 64-bit group of a vector register; an error in another store of a sequencer that cannot
  be corrected, with its SUBU, 32 to 39 (R475). -/
  | vrfBit (core sq reg : Nat)
  | vrfGroup (core sq reg group : Nat)
  | seqStore (core sq subu : Nat)
  /-- n residue mismatches in a row of a tile task on the engine of a core, with SUBU (R228). -/
  | matrix (h : Word) (core subu n : Nat)
  /-- n residue mismatches in a row of a conversion unit under a command, with SUBU (R370). -/
  | converter (id subu n : Nat)
  deriving DecidableEq, Repr

/-- What brings the next step when the list is not empty: a sequencer's turn, an event of another agent, or an error (DESIGN CHOICE, log 9). -/
inductive Input where
  | turn (core sq : Nat)
  | event (i : Instr)
  | upset (u : Upset)
  /-- A read of 8 bytes of a function's BAR0 (26 R503), and a configuration request to it. -/
  | bar0Read (fn off : Nat)
  | hostConfig (fn : Nat)
  /-- A transaction at the management port (28 R517): the address, Block Read or Block Write, the bytes after it. -/
  | smbus (addr : Nat) (read : Bool) (bytes : List Byte)
  /-- The steps of a cold reset, or the wipe of a change of life cycle, have ended (R470, R515). -/
  | booted
  deriving DecidableEq, Repr

/-- The package. -/
structure State where
  /-- Which part it is (01 Table 1.6): 0 PRM-7160, 1 PRM-7152, 2 PRM-7144. -/
  part : Nat
  /-- The sequencer whose turn it is, and the other sequencers that have run. -/
  hart : Hart
  rest : List Hart
  saved : List Saved
  ctxs : Table Ctx
  /-- The launches that have not ended, the one served longest ago first (20 R409). -/
  launches : List Launch
  serial : Nat
  tasks : List Task
  clusters : Table Cluster
  cmds : List Cmd
  cmdId : Nat
  cores : Table Core
  /-- Memory by physical address; an unlisted byte is 0 (R470). -/
  mem : List Host.Cell
  /-- Line metadata by physical line number. -/
  lineMeta : Table Meta
  parks : List Park
  adds : List Add
  migs : List Mig
  /-- Frames of the FLOAT pool, and frames assigned to a tenant other than 0 (frame number, tenant). -/
  pool : List Nat
  frames : Table Nat
  ticket : Nat
  quantum : Nat
  grace : Nat
  reliab : Reliab
  fabric : Fabric
  /-- Remote accesses under way (R497), and how many of the acting agent's the present step has used. -/
  remotes : List Remote
  rix : Nat
  /-- Accesses that have passed their checks and wait for other devices (R303, R497). -/
  flights : List Flight
  funcs : Table Func
  /-- Host queues that have been at work, as (function, queue), the one idle longest first (26 R506). -/
  queueUse : List (Nat × Nat)
  mgmt : Mgmt
  /-- The package waits for cold reset (R466, R482, R514). -/
  stopped : Bool
  /-- The model's own: events and turns to come, the index of free values, what was sent. -/
  inputs : List Input
  tick : Nat
  out : List Out
  deriving DecidableEq, Repr

/-! ## Reset -/

/-- The vector side after R57 and R470: zero, HWM.ZRST = 1, NREG = 10b. -/
def Vec.reset : Vec :=
  { v := Vector.replicate 32 0, pois := Vector.replicate 32 0, m := Vector.replicate 8 0, vl := 0, vstart := 0
    ew := 0, ty := 0, nreg := 2, vlmax := 0, hwm := 0x8000000000000000 }

/-- A sequencer after cold reset: no instance (R515), every register zero (DESIGN CHOICE, log 5). -/
def Hart.reset (core sq : Nat) : Hart :=
  { core, sq, live := false, ctx := 0, inst := ⟨0, 0, 0⟩, blk := 0, level := .program, pc := 0
    g := Vector.replicate 32 0, loops := [], cols := Vector.replicate 16 0, rmode := 0, seed := 0, wid := 0, wfmt := 0
    parklim := 0, wmark := none, cause := 0, epc := 0, tvec := 0, tval := 0, cycle := 0, group := none, part := 1
    lpart := 0, pend := false, gcap := 0, tvl := 0, vec := Vec.reset, owner := none, vsaved := none, skipBp := false, slots := [], waiting := false
    atPoint := false, mayYield := false, held := none, preq := false, grace := false }

/-- What an unlisted context number holds. -/
def Ctx.none : Ctx :=
  { w0 := 0, w1 := 0, w2 := 0, w3 := 0, w4 := 0, slots := [], binds := [], xslots := [], bps := [], suspended := false
    ended := false, blocks := [] }

/-- What an unlisted core number holds. -/
def Core.reset : Core :=
  { g := 1, groups := [Option.none], want := [], waitQ := []
    pcap := 65536, lane := 0, faulty := false }

/-- What an unlisted cluster number holds. -/
def Cluster.reset : Cluster := { accepted := 0, turn := 0, log := [] }

/-- Metadata of an unlisted line (R470). -/
def Meta.zero : Meta := { pois := false, state := 0, hint := 0 }

/-- An empty bank. -/
def Bank.zero : Bank := { stat := 0, addr := 0, misc := 0, seq := 0 }

/-- A channel after training (R477). -/
def Channel.reset : Channel := { spare20 := none, spare21 := none, failed := false, poisons := [], watch := [], pos := 0 }

/-- A port before it trains. -/
def Port.reset : Port :=
  { up := false, lseq := 0, lack := 4095, cred := 0, ret := [0, 0, 0, 0], replay := [], tx := [], rx := [], errs := 0, fails := 0 }

/-- A host queue that was never enabled. -/
def HostQ.reset : HostQ :=
  { qbase := 0, qctl := 0, tail := 0, head := 0, out := false, ptail := 0, tvalid := false
    owed := none, leaving := false }

/-- A function after reset. -/
def Func.reset : Func :=
  { mbreq := List.replicate 8 0, mbrsp := List.replicate 8 0, done := false, busy := false, evqBase := 0, evqEn := false
    drop := 0, tail := 0, queues := [] }

/-- A latch slot at task start (R205): empty, its bitmaps all ones. -/
def LatchSlot.start : LatchSlot := { fmt := none, vals := 0, scales := 0, maps := BitVec.allOnes 2048 }

/-- The recovery side after cold reset. -/
def Reliab.reset : Reliab :=
  { banks := [], errinj := 0, errinja := 0, armer := none, stuck := none, injStore := none, evseq := [], chans := []
    scrubPeriod := 2 ^ 40, fresh := [], errors := [] }

/-- The fabric side after cold reset. -/
def Fabric.reset : Fabric :=
  { devNum := 0, ports := [], wins := [], exports := [], src := [], dst := [], routes := [], ackTmo := 2 ^ 16
    unreach := [] }

/-- Management and security after a cold reset that passed its checks; the measurements are those of the two images
(R468) (PRESUMED, log 8). -/
def Mgmt.reset : Mgmt :=
  { boot := .ready, maddr := 0, keys := [Config.signingKey 0 1, Config.signingKey 1 1], held := 120
    trip := false, limit := 120, tthr := 95, tio := 0, temps := [0, 0, 0, 0], evt := 0, power := 0, life := 1
    recovery := false
    meas := measure 0 (Config.imageDigest 0) :: measure 0 (Config.imageDigest 1) :: List.replicate 6 0 }

/-- The package after cold reset (R515): no context exists, every store is wiped (R470) (DESIGN CHOICE, log 1) (DESIGN CHOICE, log 3) (DESIGN CHOICE, log 4) (DESIGN CHOICE, log 7). -/
def State.reset : State :=
  { part := 0, hart := Hart.reset 0 0, rest := [], saved := [], ctxs := [], launches := [], serial := 0, tasks := []
    clusters := [], cmds := [], cmdId := 0, cores := [], mem := [], lineMeta := [], parks := [], adds := [], migs := []
    pool := [], frames := [], ticket := 0, quantum := 2 ^ 18, grace := 65536, reliab := Reliab.reset
    fabric := Fabric.reset, remotes := [], rix := 0, flights := [], funcs := [], queueUse := [], mgmt := Mgmt.reset, stopped := false, inputs := []
    tick := 0, out := [] }

end Sys2Proof.Machine
end

