-- ==== Sys2Proof/Machine/Bits.lean ====
section
/-! DEFINITION. Numbers, bit fields, byte order and sparse tables. -/
namespace Sys2Proof.Machine

/-! ## Numbers -/

/-- sext(x, w): the low `w` bits of x as a signed number (00). -/
def sint (w x : Nat) : Int :=
  let y := x % 2 ^ w
  if y < 2 ^ (w - 1) then (y : Int) else (y : Int) - (2 ^ w : Nat)

/-- trunc(x, w): an integer modulo 2^w (00). -/
def cut (w : Nat) (x : Int) : Nat := (x % ((2 ^ w : Nat) : Int)).toNat

/-- x clamped to lo..hi. -/
def clampInt (lo hi x : Int) : Int := if x < lo then lo else if hi < x then hi else x

/-- Bits [lo + n - 1 : lo] of x. -/
def field (x lo n : Nat) : Nat := x / 2 ^ lo % 2 ^ n

/-- Bit i of x. -/
def bitOf (x i : Nat) : Bool := x / 2 ^ i % 2 == 1

/-- x with bits [lo + n - 1 : lo] replaced by v. -/
def setField (x lo n v : Nat) : Nat := x - field x lo n * 2 ^ lo + v % 2 ^ n * 2 ^ lo

/-- A Bool as a number. -/
def bit (b : Bool) : Nat := if b then 1 else 0

/-- Bits [lo + n - 1 : lo] of a 64-bit word. -/
def wbits (w : Word) (lo n : Nat) : Nat := field w.toNat lo n

/-- The word with bits [lo + n - 1 : lo] replaced. -/
def wset (w : Word) (lo n v : Nat) : Word := BitVec.ofNat 64 (setField w.toNat lo n v)

/-- The integer as a 64-bit word. -/
def wordOf (x : Int) : Word := BitVec.ofInt 64 x

/-- Count of 1 bits below position n. -/
def popBits (x : Nat) : Nat → Nat
  | 0 => 0
  | n + 1 => popBits x n + (x / 2 ^ n % 2)

/-- Leading zero bits of a w-bit number. -/
def leadZeros (x : Nat) : Nat → Nat
  | 0 => 0
  | n + 1 => if x / 2 ^ n % 2 = 1 then 0 else leadZeros x n + 1

/-- Trailing zero bits of x, at most n. -/
def trailZeros (x : Nat) : Nat → Nat
  | 0 => 0
  | n + 1 => if x % 2 = 1 then 0 else trailZeros (x / 2) n + 1

/-- A power of two from 512 to 65,536 (03 R68, 20 Table 20.1). -/
def isLanePower (x : Nat) : Bool :=
  x == 512 || x == 1024 || x == 2048 || x == 4096 || x == 8192 || x == 16384 || x == 32768 || x == 65536

/-! ## Bytes -/

/-- The low n bytes of x, little-endian (R8). -/
def toBytes (x : Nat) : Nat → List Byte
  | 0 => []
  | n + 1 => BitVec.ofNat 8 x :: toBytes (x / 256) n

/-- The little-endian number of some bytes (R8). -/
def ofBytes : List Byte → Nat
  | [] => 0
  | b :: t => b.toNat + 256 * ofBytes t

/-- The little-endian 64-bit word at byte offset o. -/
def wordAt (bs : List Byte) (o : Nat) : Word := BitVec.ofNat 64 (ofBytes ((bs.drop o).take 8))

/-- Bytes of 64-bit words. -/
def wordBytes (ws : List Word) : List Byte := ws.flatMap fun w => toBytes w.toNat 8

/-- The bytes cut into pieces of n. -/
def chunks (n : Nat) : Nat → List Byte → List (List Byte)
  | 0, _ => []
  | k + 1, bs => bs.take n :: chunks n k (bs.drop n)

/-! ## Sparse tables -/

namespace Table

/-- What the table holds at a number. -/
def get {α : Type} (d : α) (k : Nat) : Table α → α
  | [] => d
  | (j, v) :: t => if j = k then v else get d k t

/-- The table with a number's value replaced; the default removes the entry. -/
def put {α : Type} [DecidableEq α] (d : α) (k : Nat) (v : α) : Table α → Table α
  | [] => if v = d then [] else [(k, v)]
  | (j, u) :: t =>
    if k < j then (if v = d then (j, u) :: t else (k, v) :: (j, u) :: t)
    else if k = j then (if v = d then t else (k, v) :: t)
    else (j, u) :: put d k v t

/-- The canonical form: numbers strictly rising, no entry equal to the default. -/
def wf {α : Type} [DecidableEq α] (d : α) : Table α → Bool
  | [] => true
  | [(_, v)] => decide (v ≠ d)
  | (j, v) :: (k, u) :: t => decide (v ≠ d) && decide (j < k) && wf d ((k, u) :: t)

end Table

/-! ## Memory -/

/-- What an unlisted address reads as: 0, by the wipe of R470 (DESIGN CHOICE, log 2). -/
def emptyByte : Byte := 0

/-- One byte of memory. -/
def Memory.read (m : List Host.Cell) (a : Nat) : Byte := Table.get emptyByte a m

/-- Memory with one byte written. -/
def Memory.write (m : List Host.Cell) (a : Nat) (b : Byte) : List Host.Cell := Table.put emptyByte a b m

/-- n bytes from address a. -/
def Memory.readBytes (m : List Host.Cell) (a : Nat) : Nat → List Byte
  | 0 => []
  | n + 1 => Memory.read m a :: Memory.readBytes m (a + 1) n

/-- Memory with some bytes written from address a. -/
def Memory.writeBytes (m : List Host.Cell) (a : Nat) : List Byte → List Host.Cell
  | [] => m
  | b :: t => Memory.writeBytes (Memory.write m a b) (a + 1) t

/-- The canonical form of memory. -/
def Memory.wf (m : List Host.Cell) : Bool := Table.wf emptyByte m

/-! ## The same runs in one pass, for evaluation -/

/-- A cell in front of a memory, unless it holds what an unlisted address reads as. -/
def consByte (a : Nat) (b : Byte) (m : List Host.Cell) : List Host.Cell := if b = emptyByte then m else (a, b) :: m

/-- `Memory.writeBytes` in one pass. -/
def Memory.writeRun : List Host.Cell → Nat → List Byte → List Host.Cell
  | m, _, [] => m
  | [], a, b :: t => consByte a b (Memory.writeRun [] (a + 1) t)
  | (j, u) :: r, a, b :: t =>
    if j < a then (j, u) :: Memory.writeRun r a (b :: t)
    else if j = a then consByte a b (Memory.writeRun r (a + 1) t)
    else consByte a b (Memory.writeRun ((j, u) :: r) (a + 1) t)
termination_by m _ bs => m.length + bs.length

/-- A write above a cell leaves it in place. -/
theorem writeBytes_past (j : Nat) (u : Byte) (r : List Host.Cell) (bs : List Byte) :
    ∀ a, j < a → Memory.writeBytes ((j, u) :: r) a bs = (j, u) :: Memory.writeBytes r a bs := by
  induction bs generalizing r with
  | nil => intro a _; rfl
  | cons b t ih =>
    intro a h
    have h1 : ¬ a < j := by omega
    have h2 : ¬ a = j := by omega
    simp only [Memory.writeBytes, Memory.write, Table.put, if_neg h1, if_neg h2]
    exact ih _ _ (by omega)

/-- Later bytes are written behind an earlier one. -/
theorem writeBytes_cons (a : Nat) (b : Byte) (m : List Host.Cell) (t : List Byte) :
    Memory.writeBytes (consByte a b m) (a + 1) t = consByte a b (Memory.writeBytes m (a + 1) t) := by
  unfold consByte
  split
  · rfl
  · exact writeBytes_past a b m t _ (by omega)

/-- The two agree on every list. -/
@[csimp] theorem writeBytes_eq_writeRun : @Memory.writeBytes = @Memory.writeRun := by
  funext m a bs
  induction m, a, bs using Memory.writeRun.induct with
  | case1 m a => simp [Memory.writeRun, Memory.writeBytes]
  | case2 a b t ih =>
    rw [Memory.writeRun, ← ih, ← writeBytes_cons]; rfl
  | case3 j u r a b t h ih =>
    rw [Memory.writeRun, if_pos h, ← ih]; exact writeBytes_past j u r (b :: t) a h
  | case4 a u r b t h ih =>
    rw [Memory.writeRun, if_neg h, if_pos rfl, ← ih, ← writeBytes_cons]
    simp [Memory.writeBytes, Memory.write, Table.put, consByte]
  | case5 j u r a b t h h' ih =>
    rw [Memory.writeRun, if_neg h, if_neg h', ← ih, ← writeBytes_cons]
    have h1 : a < j := by omega
    simp [Memory.writeBytes, Memory.write, Table.put, consByte, h1]

/-- `Memory.readBytes` over the cells that lie in reach. -/
def Memory.readRun (m : List Host.Cell) (a n : Nat) : List Byte :=
  let near := m.filter fun c => decide (a ≤ c.1 ∧ c.1 < a + n)
  (List.range' a n).map (Memory.read near)

/-- A cell out of reach is not read. -/
theorem read_filter (p : Host.Cell → Bool) (k : Nat) (h : ∀ b, p (k, b) = true) (m : List Host.Cell) :
    Memory.read (m.filter p) k = Memory.read m k := by
  induction m with
  | nil => rfl
  | cons c t ih =>
    obtain ⟨j, v⟩ := c
    simp only [Memory.read] at ih ⊢
    by_cases hj : j = k
    · subst hj; simp [List.filter, h, Table.get]
    · by_cases hp : p (j, v) = true <;> simp [List.filter, hp, Table.get, hj, ih]

/-- The bytes of a range, address by address. -/
theorem readBytes_eq_map (m : List Host.Cell) (n : Nat) : ∀ a, Memory.readBytes m a n = (List.range' a n).map (Memory.read m) := by
  induction n with
  | zero => intro a; rfl
  | succ n ih => intro a; simp [Memory.readBytes, ih, List.range'_succ]

/-- The two agree on every list. -/
@[csimp] theorem readBytes_eq_readRun : @Memory.readBytes = @Memory.readRun := by
  funext m a n
  rw [readBytes_eq_map, Memory.readRun]
  apply List.map_congr_left
  intro k hk
  rw [List.mem_range'_1] at hk
  exact (read_filter _ k (by intro b; simp; omega) m).symm

end Sys2Proof.Machine
end

