-- ==== Sys2Proof/Machine/Phys.lean ====
section
/-! DEFINITION. Physical memory: the map of 13 Table 13.1, line metadata, frames, the sparse tables of the package. -/
namespace Sys2Proof.Machine

/-! ## The physical map -/

/-- Where a physical byte lives (13 Table 13.1). -/
inductive Home where
  | dram (die : Nat)
  | sram (core : Nat)
  | host
  | fabric (win : Nat)
  | hole
  deriving DecidableEq, Repr

/-- 13 Table 13.1 (R269). -/
def homeOf (pa : Nat) : Home :=
  if pa < 4 * 0x1000000000 then
    if pa % 0x1000000000 < 48 * 2 ^ 30 then .dram (pa / 0x1000000000) else .hole
  else if 0x10000000000 ≤ pa ∧ pa < 0x10040000000 then .sram ((pa - 0x10000000000) / 0x400000)
  else if 0x4000000000000 ≤ pa ∧ pa < 0x8000000000000 then .host
  else if 0x8000000000000 ≤ pa ∧ pa < 0x10000000000000 then .fabric ((pa - 0x8000000000000) / 0x80000000000)
  else .hole

/-- The byte and the page that starts or holds it lie partly in a hole (R269): a page is a power of two and aligned, so
its ends and the end of the DRAM window decide. -/
def pageInHole (pa size : Nat) : Bool :=
  homeOf pa == .hole || homeOf (pa + size - 1) == .hole
    || (pa < 4 * 0x1000000000 && pa % 0x1000000000 + size > 48 * 2 ^ 30)
    || (0x10000000000 ≤ pa && pa < 0x10040000000 && pa + size > 0x10040000000)

/-- Bytes of the frame of R460 and R461. -/
def frameSize : Nat := 16384

/-- The tenant that a frame is assigned to (R460). -/
def State.frameTenant (s : State) (pa : Nat) : Nat := Table.get 0 (pa / frameSize) s.frames

/-- Every frame of a page is assigned to the tenant (R461). -/
def State.framesOk (s : State) (tenant pa size : Nat) : Bool :=
  match homeOf pa with
  | .dram _ | .sram _ =>
    let lo := pa / frameSize
    let n := size / frameSize
    let listed := s.frames.filter fun p => decide (lo ≤ p.1 ∧ p.1 < lo + n)
    if tenant = 0 then listed.isEmpty
    else listed.length == n && listed.all fun p => p.2 == tenant
  | _ => true

/-! ## Lines -/

/-- The line of a physical byte. -/
def lineOf (pa : Nat) : Nat := pa / 64

/-- Metadata of a line (25 Table 25.2). -/
def State.metaOf (s : State) (line : Nat) : Meta := Table.get Meta.zero line s.lineMeta

/-- The state with a line's metadata replaced. -/
def State.setMeta (s : State) (line : Nat) (m : Meta) : State :=
  { s with lineMeta := Table.put Meta.zero line m s.lineMeta }

/-- A line's poison bit replaced. -/
def State.setPois (s : State) (line : Nat) (b : Bool) : State := s.setMeta line { s.metaOf line with pois := b }

/-- A line's staged state replaced (R338). -/
def State.setLineState (s : State) (line : Nat) (st : Nat) : State :=
  s.setMeta line { s.metaOf line with state := BitVec.ofNat 4 st }

/-- The bytes of memory from a physical address. -/
def State.readPhys (s : State) (pa n : Nat) : List Byte := Memory.readBytes s.mem pa n

/-- The state with bytes written from a physical address. -/
def State.writePhys (s : State) (pa : Nat) (bs : List Byte) : State :=
  { s with mem := Memory.writeBytes s.mem pa bs }

/-- A 64-bit word of memory, single-copy. -/
def State.readWord (s : State) (pa : Nat) : Word := BitVec.ofNat 64 (ofBytes (s.readPhys pa 8))

/-- The state with a 64-bit word written. -/
def State.writeWord (s : State) (pa : Nat) (w : Word) : State := s.writePhys pa (toBytes w.toNat 8)

/-- The lines that n bytes from pa touch. -/
def linesOf (pa n : Nat) : List Nat :=
  if n = 0 then [] else (List.range ((pa + n - 1) / 64 + 1 - pa / 64)).map (pa / 64 + ·)

/-- The channel of a DRAM line, numbered 64 x die + channel (R270). -/
def chanNo (line : Nat) : Nat := 64 * (line / 0x40000000) + line % 0x40000000 % 64

/-- The row of its channel that a DRAM line lies in (R270). -/
def rowNo (line : Nat) : Nat := line % 0x40000000 / 8192

/-- The line of memory is in DRAM. -/
def inDram (line : Nat) : Bool :=
  match homeOf (64 * line) with
  | .dram _ => true
  | _ => false

/-- A read of the line is delivered poisoned: by its POIS bit, or by a failed channel, which lists the lines written to it
too (R474, R478). -/
def State.linePoisoned (s : State) (line : Nat) : Bool :=
  (s.metaOf line).pois
    || (!s.reliab.chans.isEmpty && inDram line
        && ((Table.get Channel.reset (chanNo line) s.reliab.chans).failed
          || (Table.get Channel.reset (chanNo line) s.reliab.chans).poisons.contains line))

/-- One of n bytes from pa lies in a poisoned line. -/
def State.poisoned (s : State) (pa n : Nat) : Bool := (linesOf pa n).any s.linePoisoned

/-- Leaves only lines that no access has touched on the list of R509. -/
def State.touch (s : State) (line : Nat) : State :=
  if s.reliab.fresh.contains line then
    { s with reliab := { s.reliab with fresh := s.reliab.fresh.filter (· ≠ line) } }
  else s

/-- The line's codeword is written anew: no error of its old symbols is left (R473). -/
def State.freshCode (s : State) (line : Nat) : State :=
  if Table.get 0 line s.reliab.errors = 0 then s
  else { s with reliab := { s.reliab with errors := Table.put 0 line 0 s.reliab.errors } }

/-- An agent has stored to the line (R509). -/
def State.stored (s : State) (line : Nat) : State := (s.touch line).freshCode line

/-! ## The package's tables -/

/-- A context (R459). -/
def State.ctxOf (s : State) (n : Nat) : Ctx := Table.get Ctx.none n s.ctxs
/-- The state with a context replaced. -/
def State.setCtx (s : State) (n : Nat) (c : Ctx) : State := { s with ctxs := Table.put Ctx.none n c s.ctxs }
/-- A core. -/
def State.coreOf (s : State) (n : Nat) : Core := Table.get Core.reset n s.cores
/-- The state with a core replaced. -/
def State.setCore (s : State) (n : Nat) (c : Core) : State := { s with cores := Table.put Core.reset n c s.cores }
/-- A cluster. -/
def State.clusterOf (s : State) (n : Nat) : Cluster := Table.get Cluster.reset n s.clusters
/-- The state with a cluster replaced. -/
def State.setCluster (s : State) (n : Nat) (c : Cluster) : State :=
  { s with clusters := Table.put Cluster.reset n c s.clusters }
/-- A host function. -/
def State.funcOf (s : State) (n : Nat) : Func := Table.get Func.reset n s.funcs
/-- The state with a function replaced. -/
def State.setFunc (s : State) (n : Nat) (f : Func) : State := { s with funcs := Table.put Func.reset n f s.funcs }
/-- An error bank (R483). -/
def State.bankOf (s : State) (die bank : Nat) : Bank := Table.get Bank.zero (8 * die + bank) s.reliab.banks
/-- The state with a bank replaced. -/
def State.setBank (s : State) (die bank : Nat) (b : Bank) : State :=
  { s with reliab := { s.reliab with banks := Table.put Bank.zero (8 * die + bank) b s.reliab.banks } }
/-- A DRAM channel, numbered 64 x die + channel (R270). -/
def State.chanOf (s : State) (n : Nat) : Channel := Table.get Channel.reset n s.reliab.chans
/-- The state with a channel replaced. -/
def State.setChan (s : State) (n : Nat) (c : Channel) : State :=
  { s with reliab := { s.reliab with chans := Table.put Channel.reset n c s.reliab.chans } }
/-- The event sequence number of a die (R65). -/
def State.evseqOf (s : State) (die : Nat) : Word := Table.get 0 die s.reliab.evseq
/-- The state after an event is recorded on a die (R65). -/
def State.bumpEvseq (s : State) (die : Nat) : State :=
  { s with reliab := { s.reliab with evseq := Table.put 0 die (s.evseqOf die + 1) s.reliab.evseq } }
/-- A Linkirun port. -/
def State.portOf (s : State) (n : Nat) : Port := Table.get Port.reset n s.fabric.ports
/-- The state with a port replaced. -/
def State.setPort (s : State) (n : Nat) (p : Port) : State :=
  { s with fabric := { s.fabric with ports := Table.put Port.reset n p s.fabric.ports } }
/-- A window entry (26 Table 26.4). -/
def State.winOf (s : State) (n : Nat) : Word × Word := Table.get (0, 0) n s.fabric.wins

/-- An entry in the package's output. -/
def State.emit (s : State) (o : Out) : State := { s with out := s.out ++ [o] }

/-- A fresh free value (Config). -/
def State.freeWord (s : State) : Word := Config.freeWord s.tick
/-- The index of free values moved on. -/
def State.nextTick (s : State) : State := { s with tick := s.tick + 1 }

/-- The die of a core and the package-wide number of its cluster (R12). -/
def dieOf (core : Nat) : Nat := core / 64
/-- 8 x die + cluster within the die (R12, R460). -/
def clusterNo (core : Nat) : Nat :=
  let n := core % 64
  8 * (core / 64) + (n / 8 / 2) * 2 + (n % 8) / 4

/-- The part has binary64 vector arithmetic (01 Table 1.8). -/
def State.hasF64 (s : State) : Bool := s.part != 2
/-- The part has transducer lanes. -/
def State.hasXform (s : State) : Bool := s.part == 0

/-! ## Isolation entries (24 Table 24.2) -/

/-- The context exists. -/
def Ctx.valid (c : Ctx) : Bool := bitOf c.w0.toNat 63
/-- The level at which its instances start. -/
def Ctx.level (c : Ctx) : Level := if bitOf c.w0.toNat 62 then .supervisor else .program
/-- Its tenant. -/
def Ctx.tenant (c : Ctx) : Nat := wbits c.w0 57 5
/-- TVL (R68). -/
def Ctx.tvl (c : Ctx) : Nat := 2 ^ wbits c.w0 48 5
/-- The level-4 page table. -/
def Ctx.root (c : Ctx) : Nat := wbits c.w1 15 37 * 2 ^ 15
/-- Base of the save pool. -/
def Ctx.save (c : Ctx) : Nat := wbits c.w2 0 57
/-- Blocks of the save pool. -/
def Ctx.nsave (c : Ctx) : Nat := wbits c.w3 0 32
/-- Clusters that it may use. -/
def Ctx.clmask (c : Ctx) : Nat := wbits c.w4 0 32

end Sys2Proof.Machine
end

