-- ==== Sys2Proof/Machine/Lanes.lean ====
section
/-! DEFINITION. Sequencers by place, and lane groups: partition, application, release (03 R67 to R71, 20 R417 to R421). -/
namespace Sys2Proof.Machine

/-! ## Sequencers by place -/

/-- Every sequencer that has run. -/
def State.harts (s : State) : List Hart := s.hart :: s.rest

/-- The sequencer stands at a place. -/
def Hart.at (h : Hart) (core sq : Nat) : Bool := h.core == core && h.sq == sq

/-- The sequencer at a place. -/
def State.hartAt (s : State) (core sq : Nat) : Hart :=
  (s.harts.find? fun h => h.at core sq).getD (Hart.reset core sq)

/-- The state with the sequencer at its place replaced. -/
def State.putHart (s : State) (h : Hart) : State :=
  if s.hart.at h.core h.sq then { s with hart := h }
  else if s.rest.any fun x => x.at h.core h.sq then
    { s with rest := s.rest.map fun x => if x.at h.core h.sq then h else x }
  else { s with rest := s.rest ++ [h] }

/-- The state with the sequencer at a place in the acting position; the acting one goes to the others. -/
def State.focus (s : State) (core sq : Nat) : State :=
  if s.hart.at core sq then s
  else
    { s with hart := s.hartAt core sq, rest := s.hart :: s.rest.filter fun x => !x.at core sq }

/-- Runs a function on the sequencer at a place, then puts the former acting one back. -/
def State.withFocus (s : State) (core sq : Nat) (f : State → State) : State :=
  (f (s.focus core sq)).focus s.hart.core s.hart.sq

/-! ## Length limits -/

/-- The count of vector registers that NREG gives (03 Table 3.6). -/
def regCount (nreg : BitVec 2) : Nat := 8 * 2 ^ (nreg.toNat % 3)

/-- VLMAX of R68: 0 while no group is held. -/
def vlmaxOf (held : Bool) (part n tvl : Nat) : Nat :=
  if held then min 65536 (min (1048576 / (part * n)) tvl) else 0

/-- Element width in bits of an EW code (03 R72). -/
def widthOf (ew : BitVec 3) : Nat :=
  match ew.toNat with
  | 0 => 8
  | 1 => 16
  | 2 => 32
  | 3 => 64
  | _ => 4

/-- A vector cut to its low n bits, the others zero (R70). -/
def keepLow {w : Nat} (x : BitVec w) (n : Nat) : BitVec w := BitVec.ofNat w (x.toNat % 2 ^ n)

/-- The vector state after VLMAX changes (R70): bits below the smaller length stay, the others become zero. -/
def Vec.resize (v : Vec) (vlmax : Nat) : Vec :=
  if v.vlmax = vlmax then v
  else
    let n := min v.vlmax vlmax
    { v with
      v := v.v.map fun x => keepLow x n
      pois := v.pois.map fun x => keepLow x (n / 64)
      m := v.m.map fun x => keepLow x (n / 4)
      vlmax }

/-! ## The partition -/

/-- The launch of an instance. -/
def State.launchOf (s : State) (serial : Nat) : Option Launch := s.launches.find? fun l => l.serial == serial

/-- LENDEP of a launch record (20 Table 20.1). -/
def Launch.lendep (l : Launch) : Bool := bitOf (wordAt l.image 0).toNat 46

/-- G for a number of wanting sequencers (R417). -/
def partFor (w : Nat) : Nat := if w ≤ 1 then 1 else if w = 2 then 2 else 4

/-- Wanting sequencers in ascending number, one to a group, padded to G (R417). -/
def groupsFor (want : List Nat) (g : Nat) : List (Option Nat) :=
  let l := ((List.range 4).filter fun q => want.contains q).map some
  l ++ List.replicate (g - l.length) none

/-- Fills free groups with the waiting sequencers in order of request (R409). -/
def fillFree (groups : List (Option Nat)) : List Nat → List (Option Nat)
  | [] => groups
  | q :: t =>
    if groups.contains (some q) then fillFree groups t
    else
      match groups.findIdx? (· == none) with
      | some i => fillFree (groups.set i (some q)) t
      | none => groups

/-- The group that a sequencer is to have under the decided partition. -/
def Core.groupOf (c : Core) (sq : Nat) : Option Nat := c.groups.findIdx? (· == some sq)

/-- A LENDEP instance is on the core, with a group that is decided for it: the core is not repartitioned (R409). -/
def State.lendepCore (s : State) (core : Nat) : Bool :=
  s.harts.any fun h => h.core == core && h.live && ((s.coreOf core).groupOf h.sq).isSome
    && (match s.launchOf h.inst.serial with
        | some l => l.lendep
        | none => false)

/-- The core with the partition that the Headframe decides for the sequencers that want lanes (R409, R417). -/
def State.decided (s : State) (core : Nat) : Core :=
  let c := s.coreOf core
  if s.lendepCore core then { c with groups := fillFree (c.groups.map fun o => o.filter fun q => c.want.contains q) c.waitQ }
  else
    let g := partFor c.want.length
    { c with g, groups := groupsFor c.want g }

/-- R417, R409: the Headframe decides the partition of a core. A repartition concerns every holder of the core: it has PEND set
until it applies it (R426, R427). -/
def State.decidePartition (s : State) (core : Nat) : State :=
  let c := s.coreOf core
  let c' := s.decided core
  let changed := !s.lendepCore core && (c.g != c'.g || c.groups != c'.groups)
  let mark (h : Hart) : Hart := if changed && h.core == core && h.group.isSome then { h with pend := true } else h
  { (s.setCore core c') with hart := mark s.hart, rest := s.rest.map mark }

/-- Every holder of the core has applied the decided partition or released its group (R418). -/
def State.partitionSettled (s : State) (core : Nat) : Bool :=
  s.harts.all fun h => !(h.core == core && h.group.isSome && h.pend)

/-- No sequencer of the core waits with an earlier request and a group to get (R418). -/
def State.firstInLine (s : State) (core sq : Nat) : Bool :=
  ((s.coreOf core).waitQ.takeWhile (· ≠ sq)).all fun q =>
    !((s.hartAt core q).live && (s.hartAt core q).waiting && ((s.coreOf core).groupOf q).isSome)

/-- The waiting sequencer can be granted its group now (R418). -/
def State.grantable (s : State) (core sq : Nat) : Bool :=
  ((s.coreOf core).groupOf sq).isSome && s.partitionSettled core && s.firstInLine core sq

/-- One group's OWN field (03 Table 3.8). -/
def Core.ownField (c : Core) (k : Nat) : Nat :=
  match c.groups.getD k none with
  | some q => 8 + q
  | none => 0

/-- The LPART view of a sequencer, PEND apart (03 Table 3.8), under a partition of its core. -/
def Core.lpart (c : Core) (h : Hart) : Word :=
  let own k := if k < c.g then c.ownField k else 0
  let held := bit h.group.isSome
  let gcode := if c.g = 1 then 0 else if c.g = 2 then 1 else 2
  BitVec.ofNat 64 (own 3 * 2 ^ 20 + own 2 * 2 ^ 16 + own 1 * 2 ^ 12 + own 0 * 2 ^ 8 + held * 2 ^ 7
    + h.group.getD 0 * 2 ^ 5 + gcode)

/-- The LPART view of a sequencer, PEND apart: the decided partition of its core, as it applies it (R426; 21 Table 21.3)
(DEDUCED, log 18). -/
def lpartView (s : State) (h : Hart) : Word := (s.coreOf h.core).lpart h

/-- The acting sequencer takes its group of a partition that was decided for its core, with VLMAX of R68 and contents of R70.
PEND stands where the Headframe has decided another partition since (R427). A sequencer applies the partition at its own time:
where a renumbering gives it a group that another still holds under the old partition, it takes it without waiting, as R418 lets
every sequencer but one that waits for its first group; the one holder to a group of R67 is read within one partition (DEDUCED,
log 73). -/
def State.applyDecided (s : State) (c : Core) : State :=
  let h := s.hart
  let now := s.coreOf h.core
  let group := c.groupOf h.sq
  let vlmax := vlmaxOf group.isSome c.g (regCount h.vec.nreg) h.tvl
  let pend := (now.g != c.g || now.groups != c.groups) && !s.lendepCore h.core
  let h1 := { h with group, part := c.g, pend, vec := h.vec.resize vlmax }
  let s1 := ({ s with hart := h1 }).setCore h.core { now with waitQ := now.waitQ.filter (· ≠ h.sq) }
  { s1 with hart := { h1 with lpart := c.lpart h1 } }

/-- The acting sequencer takes its group of the partition in force. -/
def State.applyPartition (s : State) : State := s.applyDecided (s.coreOf s.hart.core)

/-- VLMAX by R68 for the group and the register count as they stand, GCAP lowered to it (R71). -/
def State.refreshVlmax (s : State) : State :=
  let h := s.hart
  let vlmax := vlmaxOf h.group.isSome h.part (regCount h.vec.nreg) h.tvl
  let v := h.vec.resize vlmax
  { s with hart := { h with vec := v, gcap := if h.group.isSome then min h.gcap vlmax else 0 } }

/-- A sequencer releases its group and wants lanes no more; the Headframe repartitions for the others (R421). -/
def State.releaseLanes (s : State) (core sq : Nat) : State :=
  let c := s.coreOf core
  let h := s.hartAt core sq
  let s1 := s.setCore core { c with want := c.want.filter (· ≠ sq), waitQ := c.waitQ.filter (· ≠ sq) }
  (s1.putHart { h with group := none, pend := false }).decidePartition core

/-- A switch-in of an instance asks for lanes at a place no more: where no instance stands there, its sequencer wants none
(R417). -/
def State.giveUp (s : State) (x : Saved) : State :=
  let s1 := { s with saved := s.saved.map fun y => if y.ctx == x.ctx && y.inst == x.inst then { y with asked := none } else y }
  match x.asked with
  | some (c, q) => if (s1.hartAt c q).live then s1 else s1.releaseLanes c q
  | none => s1

/-- The place is to be taken by another instance: what a switch-in has asked for there is given up (R417). -/
def State.clearPlace (s : State) (core sq : Nat) : State :=
  (s.saved.filter fun x => x.asked == some (core, sq)).foldl State.giveUp s

end Sys2Proof.Machine
end

