-- ==== Sys2Proof/Machine/Move.lean ====
section
/-! DEFINITION. How the migration of a page ends (13 R279, R280). -/
namespace Sys2Proof.Machine

/-- Staged states of a page's lines, as they stand in the other frame, which loses them. -/
def State.moveStates (s : State) (old new size : Nat) : State :=
  let n := size / 64
  let o := old / 64
  let k := new / 64
  let inside (lo l : Nat) : Bool := decide (lo ≤ l ∧ l < lo + n)
  let here := s.lineMeta.filter fun m => inside o m.1
  let clear (t : State) (l : Nat) : State := t.setMeta l { t.metaOf l with state := 0 }
  let s1 := (s.lineMeta.filter fun m => inside k m.1).foldl (fun t m => clear t m.1) s
  here.foldl (fun t m => clear (t.setMeta (k + (m.1 - o)) { t.metaOf (k + (m.1 - o)) with state := m.2.state }) m.1) s1

/-- The frames of a page. -/
def frameList (pa size : Nat) : List Nat := (List.range (size / frameSize)).map (pa / frameSize + ·)

/-- A physical address after a move. -/
def Mig.move (m : Mig) (pa : Nat) : Nat := if m.old ≤ pa ∧ pa < m.old + m.size then m.new + (pa - m.old) else pa

/-- A line after a move. -/
def Mig.moveLine (m : Mig) (line : Nat) : Nat := m.move (64 * line) / 64

/-- A binding after a move. -/
def Mig.moveBind (m : Mig) (b : Bind) : Bind :=
  { b with extents := b.extents.map fun x => (x.1, m.move x.2.1, x.2.2) }

/-- The pieces of an access that waits, after a move. -/
def Mig.moveFlight (m : Mig) (f : Flight) : Flight :=
  { f with parts := f.parts.map fun ps => ps.map fun p => { p with pa := m.move p.pa } }

/-- Everything that names physical lines of the page follows it (R280): FIFOs in order, bindings, chute lines, the accesses that
wait for other devices. -/
def State.rekey (s : State) (m : Mig) : State :=
  { s with
    parks := s.parks.map fun p =>
      match p.key with
      | .line n => { p with key := .line (m.moveLine n) }
      | _ => p
    ctxs := s.ctxs.map fun c => (c.1, { c.2 with binds := c.2.binds.map m.moveBind })
    flights := s.flights.map m.moveFlight
    launches := s.launches.map fun l =>
      { l with chutes := l.chutes.map fun c => { c with lines := c.lines.map m.moveLine } } }

/-- R279 steps 4 and 5 when the entry still holds the value of step 1. -/
def State.publishMove (s : State) (m : Mig) : State :=
  let val := wset (BitVec.ofNat 64 (setField m.val.toNat 14 38 (m.new / 2 ^ 14))) 58 1 0
  let s1 := ((s.writeWord m.entry val).moveStates m.old m.new m.size).rekey m
  { s1 with migs := s1.migs.erase m, pool := s1.pool ++ frameList m.old m.size }

/-- R279 when software has written the entry: MIG is cleared, the attic is discarded. -/
def State.abandonMove (s : State) (m : Mig) : State :=
  let s1 := s.writeWord m.entry (wset (s.readWord m.entry) 58 1 0)
  { s1 with migs := s1.migs.erase m, pool := s1.pool ++ frameList m.new m.size }

/-- R279 steps 4 and 5: a migration ends. -/
def State.endMove (s : State) (m : Mig) : State :=
  if s.readWord m.entry = m.val then s.publishMove m else s.abandonMove m

end Sys2Proof.Machine
end

