-- ==== Sys2Proof/Machine/Packet.lean ====
section
/-! DEFINITION. Linkirun packets and flits: layout, check codes, and sending (26 R492 to R501). -/
namespace Sys2Proof.Machine

/-! ## Check codes -/

/-- Shifts of a reflected CRC-32 register. -/
def crc32Shift : Nat → BitVec 32 → BitVec 32
  | 0, c => c
  | n + 1, c => crc32Shift n (if c.getLsbD 0 then (c >>> 1) ^^^ 0xEDB88320#32 else c >>> 1)

/-- CRC-32 of IEEE 802.3 (R493). -/
def crc32 (bs : List Byte) : BitVec 32 :=
  (bs.foldl (fun c b => crc32Shift 8 (c ^^^ b.setWidth 32)) 0xFFFFFFFF#32) ^^^ 0xFFFFFFFF#32

/-- Shifts of a CRC-64 register. -/
def crc64Shift : Nat → BitVec 64 → BitVec 64
  | 0, c => c
  | n + 1, c => crc64Shift n (if c.getLsbD 63 then (c <<< 1) ^^^ 0x42F0E1EBA9EA3693#64 else c <<< 1)

/-- CRC-64 of ECMA-182 (R492). -/
def crc64 (bs : List Byte) : BitVec 64 :=
  bs.foldl (fun c b => crc64Shift 8 (c ^^^ (b.setWidth 64).shiftLeft 56)) 0#64

/-! ## Packets -/

/-- The fields of a packet (26 Table 26.2). -/
structure Packet where
  type : Nat
  tc : Nat
  src : Nat
  dst : Nat
  seq : Nat
  op : Nat
  scope : Nat
  ord : Nat
  win : Nat
  route : Nat
  off : Nat
  opnd : Word
  rack : Nat
  stat : Nat
  payload : List Byte
  deriving DecidableEq, Repr

/-- Packet types of W0 [63:60]. -/
def pktRd : Nat := 1
/-- WR. -/
def pktWr : Nat := 2
/-- AT. -/
def pktAt : Nat := 3
/-- SA. -/
def pktSa : Nat := 4
/-- RSP. -/
def pktRsp : Nat := 5
/-- ACK. -/
def pktAck : Nat := 6
/-- WDR. -/
def pktWdr : Nat := 7
/-- SADD. -/
def pktSadd : Nat := 8

/-- Header words 0 to 2. -/
def Packet.head (p : Packet) : List Byte :=
  toBytes (p.type * 2 ^ 60 + p.tc * 2 ^ 58 + p.src * 2 ^ 48 + p.dst * 2 ^ 38 + p.seq * 2 ^ 22 + p.op * 2 ^ 14
      + p.scope * 2 ^ 11 + p.ord * 2 ^ 9 + p.payload.length) 8
    ++ toBytes (p.win * 2 ^ 56 + p.route * 2 ^ 43 + p.off) 8
    ++ toBytes p.opnd.toNat 8

/-- The bytes of a packet, ECRC included (DESIGN CHOICE, log 50). -/
def Packet.bytes (p : Packet) : List Byte :=
  p.head ++ toBytes (p.rack * 2 ^ 48 + p.stat * 2 ^ 40 + (crc32 (p.head ++ p.payload)).toNat) 8 ++ p.payload

/-- Bytes of the packet that starts a byte stream: its header says how many. -/
def packetSize (bs : List Byte) : Nat := 32 + wbits (wordAt bs 0) 0 9

/-- The packet that a byte stream starts with, its checks not made. -/
def Packet.parse (bs : List Byte) : Packet :=
  let w0 := wordAt bs 0
  let w1 := wordAt bs 8
  let w3 := wordAt bs 24
  { type := wbits w0 60 4, tc := wbits w0 58 2, src := wbits w0 48 10, dst := wbits w0 38 10, seq := wbits w0 22 16
    op := wbits w0 14 8, scope := wbits w0 11 3, ord := wbits w0 9 2, win := wbits w1 56 8, route := wbits w1 43 12
    off := wbits w1 0 43, opnd := wordAt bs 16, rack := wbits w3 48 16, stat := wbits w3 40 8
    payload := (bs.drop 32).take (wbits w0 0 9) }

/-- The packet passes R493: its ECRC, its TYPE and its reserved bits. -/
def packetSound (bs : List Byte) : Bool :=
  let p := Packet.parse bs
  let w1 := wordAt bs 8
  let w3 := wordAt bs 24
  wbits w3 0 32 == (crc32 ((bs.take 24) ++ p.payload)).toNat
    && 1 ≤ p.type && p.type ≤ 8 && wbits w1 55 1 == 0 && wbits w3 32 8 == 0 && p.payload.length ≤ 256

/-! ## Flits -/

/-- Bytes of packet data in a flit (26 Table 26.1). -/
def flitData : Nat := 240

/-- The flit with a link sequence number, an acknowledgement, the credits that it returns and its data. -/
def flitBytes (lseq lack : Nat) (nak : Bool) (cred : Nat) (data : List Byte) : List Byte :=
  let body := toBytes (lseq * 2 ^ 52 + lack * 2 ^ 40 + bit nak * 2 ^ 39 + cred % 2 ^ 32) 8 ++ data
  body ++ toBytes (crc64 body).toNat 8

/-- CRED of a flit, and what is left to return (DESIGN CHOICE, log 51). -/
def credOf (ret : List Nat) : Nat := (List.range 4).foldl (fun acc k => acc + min (ret.getD k 0) 255 * 2 ^ (8 * k)) 0

/-- Sends every flit that the waiting bytes of a port fill; fuel bounds their number. A flit leaves when packets fill
it: the spec gives no filler. -/
def State.fillFlits (s : State) (port : Nat) : Nat → State
  | 0 => s
  | fuel + 1 =>
    let p := s.portOf port
    if p.tx.length < flitData ∨ p.replay.length ≥ 128 ∨ !p.up then s
    else
      let data := p.tx.take flitData
      let s' := s.setPort port
        { p with
          tx := p.tx.drop flitData, lseq := (p.lseq + 1) % 4096, ret := p.ret.map (· - 255)
          replay := p.replay ++ [(p.lseq, credOf p.ret, data)] }
      (s'.emit (.flit port (flitBytes p.lseq p.lack false (credOf p.ret) data))).fillFlits port fuel

/-- Hands a packet to a port (R492). -/
def State.putPacket (s : State) (port : Nat) (bs : List Byte) : State :=
  let p := s.portOf port
  let s' := (s.setPort port { p with tx := p.tx ++ bs }).emit (.packet port bs)
  s'.fillFlits port (bs.length / flitData + 2)

/-- The port exists on the part (01 Table 1.6, R28). -/
def State.portExists (s : State) (port : Nat) : Bool := port < (if s.part = 2 then 6 else 12)

/-- Route i of a destination can be taken: valid, its port present and up (R28, R501). -/
def State.routeUp (s : State) (dst i : Nat) : Bool :=
  let r := Table.get (false, 0, 0) (4 * dst + i) s.fabric.routes
  r.1 && s.portExists r.2.1 && (s.portOf r.2.1).up

/-- The first usable route from route i on, in ascending order and wrapping (R501). -/
def State.nextRoute (s : State) (dst i : Nat) : Option Nat :=
  (List.range 4).findSome? fun k => if s.routeUp dst ((i + k) % 4) then some ((i + k) % 4) else none

/-- Sends a packet by a route of its destination, or drops it where none works (replay recovers it, R501). -/
def State.sendBy (s : State) (route : Nat) (p : Packet) : State :=
  match s.nextRoute p.dst route with
  | none => s
  | some i =>
    let r := Table.get (false, 0, 0) (4 * p.dst + i) s.fabric.routes
    s.putPacket r.2.1 { p with route := r.2.2 }.bytes

/-! ## Source side of a sequence window -/

/-- The source window of a destination and class. -/
def State.srcWin (s : State) (dst cls : Nat) : SrcWin :=
  (s.fabric.src.find? fun w => w.dst == dst && w.cls == cls).getD
    { dst, cls, next := 0, retry := [], kept := [], awaited := [], route := 0, tries := 0 }

/-- The state with a source window replaced. -/
def State.setSrcWin (s : State) (w : SrcWin) : State :=
  { s with fabric := { s.fabric with
      src := w :: s.fabric.src.filter fun x => !(x.dst == w.dst && x.cls == w.cls) } }

/-- RACK: the lowest SEQ whose response is still awaited, else the next SEQ (R499). -/
def SrcWin.rack (w : SrcWin) : Nat := w.awaited.headD w.next

/-- Sends a request and remembers it, for an agent (R498, R499). None when the window is full. -/
def State.sendRequest (s : State) (ag : Agent) (wantsRsp : Bool) (p : Packet) : Option State :=
  let w := s.srcWin p.dst p.tc
  if w.retry.length ≥ 4096 ∨ (wantsRsp ∧ w.awaited.length ≥ 256) then none
  else
    let awaited := if wantsRsp then w.awaited ++ [w.next] else w.awaited
    let q := { p with src := s.fabric.devNum, seq := w.next, rack := { w with awaited }.rack }
    let w' := { w with next := (w.next + 1) % 65536, retry := w.retry ++ [(w.next, q.bytes)], awaited }
    let s1 := (s.setSrcWin w').sendBy w.route q
    some { s1 with remotes := s1.remotes ++
      [{ agent := ag, dst := p.dst, cls := p.tc, seq := w.next, wantsRsp, type := p.type, wdr := none, answer := none }] }

/-! ## Withdrawals (R350, R500) -/

/-- A staged access of another device's line has no answer yet. -/
def Remote.open (r : Remote) : Bool := r.type == pktSa && r.answer.isNone

/-- The source withdraws an SA for which no answer has come (R350, R500). -/
def State.sendWdr (s : State) (r : Remote) : State :=
  s.sendBy (s.srcWin r.dst 0).route
    { type := pktWdr, tc := 3, src := s.fabric.devNum, dst := r.dst, seq := r.seq, op := 0, scope := 0, ord := 0, win := 0
      route := 0, off := 0, opnd := 0, rack := 0, stat := 0, payload := [] }

/-- The staged accesses among some remote ones are withdrawn, for PARK_LIMIT or for a landing, when they are not yet. -/
def State.withdraw (s : State) (landing : Bool) (sel : Remote → Bool) : State :=
  let due (r : Remote) : Bool := r.open && r.wdr.isNone && sel r
  let s1 := (s.remotes.filter due).foldl State.sendWdr s
  { s1 with remotes := s1.remotes.map fun r => if due r then { r with wdr := some landing } else r }

end Sys2Proof.Machine
end

