-- ==== Sys2Proof/Machine/Report.lean ====
section
/-! DEFINITION. Events for the host and the management port, and the error banks (25 R483 to R489, 26 R504, 28 R518). -/
namespace Sys2Proof.Machine

/-! ## Event rings -/

/-- Physical address of host address 0 (R503). -/
def hostBase : Nat := 0x4000000000000

/-- A 64-byte record in a function's event ring, or DROP (R504). Whether the ring is full is not ours to see: a free
choice (DESIGN CHOICE, log 40). -/
def State.postEvent (s : State) (fn : Nat) (ws : List Word) : State :=
  let f := s.funcOf fn
  if !f.evqEn || Config.freeBool s.tick then
    s.setFunc fn { f with drop := min (f.drop + 1) 65535 } |>.nextTick
  else
    let a := f.evqBase.toNat + 64 * f.tail
    let bs := wordBytes (ws ++ List.replicate (8 - ws.length) 0)
    let s1 := (s.writePhys (hostBase + a) bs).emit (.hostWrite a bs)
    (s1.setFunc fn { f with tail := (f.tail + 1) % 65536 }).nextTick

/-- SMBALERT# is asserted while EVT is non-zero (R518). -/
def State.smbalert (s : State) : Bool := s.mgmt.evt != 0

/-- EVT replaced, with the change of SMBALERT# that it brings. -/
def State.withEvt (s : State) (v : Word) : State :=
  let s1 := { s with mgmt := { s.mgmt with evt := v } }
  if s1.smbalert = s.smbalert then s1 else s1.emit (.alert s1.smbalert)

/-- EVT takes an event (R518): the most recent one stands, LOST counts those overwritten. -/
def State.setEvt (s : State) (kind ctx : Nat) (low : Nat) : State :=
  let lost := if s.mgmt.evt = 0 then 0 else min (wbits s.mgmt.evt 48 8 + 1) 255
  s.withEvt (BitVec.ofNat 64 (kind * 2 ^ 56 + lost * 2 ^ 48 + ctx % 2 ^ 12 * 2 ^ 32 + low))

/-- R489, R504: a report on an error bank and the context of the access, in the physical function's ring and at the
management port (DESIGN CHOICE, log 43). -/
def State.reportBank (s : State) (kind ctx die bank : Nat) (stat : Word) : State :=
  (s.postEvent 0 [BitVec.ofNat 64 (kind * 2 ^ 56 + ctx % 2 ^ 12 * 2 ^ 32), stat, BitVec.ofNat 64 (die * 256 + bank)]).setEvt kind
    ctx (wbits stat 32 32)

/-- The requests that the pieces of an access of a tenant's context put on the host link (R503): for tenant 0 a CXL.cache request,
for any other tenant a PCIe memory request with the Requester ID of its function. -/
def hostAsks (tenant : Nat) (write : Bool) (ps : List Part) : List Out :=
  ps.filterMap fun p =>
    match homeOf p.pa with
    | .host => some (.hostRequest (if tenant = 0 then none else some tenant) write (p.pa - hostBase))
    | _ => none

/-- The pieces of a context's access that lie in host memory go out (R503). -/
def State.askParts (s : State) (ctx : Nat) (write : Bool) (ps : List Part) : State :=
  { s with out := s.out ++ hostAsks (s.ctxOf ctx).tenant write ps }

/-- R465: the tenant is told that a context has ended (kind 1). -/
def State.reportEnd (s : State) (ctx : Nat) : State :=
  s.postEvent (s.ctxOf ctx).tenant [BitVec.ofNat 64 (1 * 2 ^ 56 + ctx * 2 ^ 32)]

/-! ## Error banks -/

/-- What an error brings to its bank (25 Tables 25.4 to 25.6), with the context whose access or state met it, or 0 (DESIGN
CHOICE, log 43). -/
structure ErrRec where
  ctx : Nat
  pois : Bool
  swap : Bool
  spare : Bool
  owner : Nat
  orig : Nat
  unit : Nat
  subu : Nat
  nsym : Nat
  line : Nat
  deriving DecidableEq, Repr

/-- STAT and ADDR and SEQ with a record written; the counters and flags V, UC, OVF, SEEN are set by R484. -/
def Bank.store (b : Bank) (r : ErrRec) (evseq : Word) (uc : Bool) : Bank :=
  let ovf := bit (bitOf b.stat.toNat 61)
  { b with
    stat := BitVec.ofNat 64 (2 ^ 63 + bit uc * 2 ^ 62 + ovf * 2 ^ 61 + bit r.pois * 2 ^ 59 + bit r.swap * 2 ^ 58
      + bit r.spare * 2 ^ 57 + r.owner % 32 * 2 ^ 51 + r.orig % 8 * 2 ^ 48 + r.unit % 256 * 2 ^ 40
      + r.subu % 256 * 2 ^ 32 + min r.nsym 255 * 2 ^ 24 + wbits b.stat 0 16)
    addr := BitVec.ofNat 64 (r.line * 64 % 2 ^ 52)
    seq := evseq }

/-- A 16-bit counter in a word, saturating. -/
def satInc (w : Word) (lo : Nat) : Word := wset w lo 16 (min (wbits w lo 16 + 1) 65535)

/-- R484: the bank after one error, and whether a record was written. -/
def Bank.update (b : Bank) (corrected : Bool) (r : ErrRec) (evseq : Word) : Bank × Bool :=
  let v := bitOf b.stat.toNat 63
  let uc := bitOf b.stat.toNat 62
  let seen := bitOf b.stat.toNat 60
  if corrected then
    let b1 := { b with stat := satInc b.stat 0 }
    if v then (b1, false) else (b1.store r evseq false, true)
  else if !v then (b.store r evseq true, true)
  else if !uc then ({ b with misc := satInc b.misc 48 }.store r evseq true, true)
  else if !seen then ({ b with stat := wset b.stat 61 1 1, misc := satInc b.misc 32 }, false)
  else (b.store r evseq true, true)

/-- An error reaches a bank of a die; records, swaps and failed channels are reported (R484, R489). -/
def State.logError (s : State) (die bank : Nat) (corrected : Bool) (r : ErrRec) : State :=
  let (b, wrote) := (s.bankOf die bank).update corrected r (s.evseqOf die)
  let s1 := s.setBank die bank b
  let s2 := if wrote then s1.bumpEvseq die else s1
  if r.swap then s2.reportBank 3 r.ctx die bank b.stat
  else if !corrected && r.subu == 0xFF && bank == 1 then s2.reportBank 4 r.ctx die bank b.stat
  else if !corrected && wrote then s2.reportBank 2 r.ctx die bank b.stat
  else s2

/-- Bank numbers (25 Table 25.4). -/
def bankDram : Nat := 0
/-- VBUS. -/
def bankVbus : Nat := 1
/-- SRAM. -/
def bankSram : Nat := 2
/-- LANE. -/
def bankLane : Nat := 3
/-- MTX. -/
def bankMtx : Nat := 4
/-- ENG. -/
def bankEng : Nat := 5
/-- MESH. -/
def bankMesh : Nat := 6
/-- VRF. -/
def bankVrf : Nat := 7

end Sys2Proof.Machine
end

