-- ==== Sys2Proof/Machine/Xlate.lean ====
section
/-! DEFINITION. Page-table walks and the checks of one access (13 R272 to R274, 15 R315, R317, 16 R341, R342). -/
namespace Sys2Proof.Machine

/-! ## The walk -/

/-- A leaf that a walk reached: the entry's address and value, its level, the page's base and size. -/
structure Leaf where
  entry : Nat
  val : Word
  lvl : Nat
  base : Nat
  size : Nat
  deriving DecidableEq, Repr

/-- Lowest address bit that a level indexes (13 Table 13.2). -/
def lvlShift : Nat → Nat
  | 0 => 14
  | 1 => 21
  | 2 => 28
  | 3 => 34
  | _ => 45

/-- Number of index bits of a level. -/
def lvlBits : Nat → Nat
  | 0 => 7
  | 1 => 7
  | 2 => 6
  | 3 => 11
  | _ => 12

/-- The index of an address at a level. -/
def lvlIndex (va lvl : Nat) : Nat := field va (lvlShift lvl) (lvlBits lvl)

/-- ORDK of a leaf (13 Table 13.3). -/
def leafOrdk (e : Word) : Nat := wbits e 62 2
/-- STAGED. -/
def leafStaged (e : Word) : Bool := bitOf e.toNat 61
/-- FLOAT. -/
def leafFloat (e : Word) : Bool := bitOf e.toNat 60
/-- PUBP. -/
def leafPubp (e : Word) : Bool := bitOf e.toNat 59
/-- MIG. -/
def leafMig (e : Word) : Bool := bitOf e.toNat 58
/-- LOCK. -/
def leafLock (e : Word) : Bool := bitOf e.toNat 57
/-- X. -/
def leafX (e : Word) : Bool := bitOf e.toNat 9
/-- W. -/
def leafW (e : Word) : Bool := bitOf e.toNat 8
/-- R. -/
def leafR (e : Word) : Bool := bitOf e.toNat 7
/-- U. -/
def leafU (e : Word) : Bool := bitOf e.toNat 6

/-- The partner of a publish-pair member agrees with it (R281). -/
def pairAgrees (e p : Word) : Bool :=
  bitOf p.toNat 0 && bitOf p.toNat 1 && leafPubp p && !leafFloat p
    && wbits e 56 8 == wbits p 56 8 && wbits e 6 4 == wbits p 6 4

/-- The window entry of a page in a fabric window admits it (R495). -/
def State.windowOk (s : State) (tenant w pa size : Nat) : Bool :=
  let e := (s.winOf w).1
  bitOf e.toNat 63 && wbits e 58 5 == tenant
    && (pa - (0x8000000000000 + w * 0x80000000000)) + size ≤ wbits e 0 30 * 16384

/-- A leaf entry at a level passes R273, R274, R281, R461 and R495. -/
def State.leafOk (s : State) (tenant lvl entry : Nat) (e : Word) : Bool :=
  let size := 2 ^ lvlShift lvl
  let pa := wbits e 14 38 * 2 ^ 14
  lvl ≤ 3
    && wbits e 52 5 == 0 && wbits e 10 4 == 0 && wbits e 2 2 == 0
    && leafOrdk e != 3
    && pa % size == 0
    && !(leafW e && !leafR e)
    && !(leafFloat e && lvl > 1)
    && !(leafFloat e && leafPubp e)
    && !(leafMig e && !leafFloat e)
    && (!leafPubp e || (lvl ≤ 1 && pairAgrees e (s.readWord (if entry / 8 % 2 = 0 then entry + 8 else entry - 8))))
    && !pageInHole pa size
    && s.framesOk tenant pa size
    && (match homeOf pa with
        | .fabric w => s.windowOk tenant w pa size
        | _ => true)

/-- A table entry can be read at this address: it lies in DRAM, in SRAM or in host memory. -/
def tableReadable (pa : Nat) : Bool :=
  match homeOf pa with
  | .dram _ | .sram _ | .host => true
  | _ => false

/-- The walk from a table of level `n - 1` (R272). None is XLATE. -/
def State.walkFrom (s : State) (tenant va : Nat) : Nat → Nat → Option Leaf
  | 0, _ => none
  | lvl + 1, table =>
    let entry := table + 8 * lvlIndex va lvl
    if !tableReadable entry || s.linePoisoned (lineOf entry) then none
    else
      let e := s.readWord entry
      if !bitOf e.toNat 0 then none
      else if bitOf e.toNat 1 then
        if s.leafOk tenant lvl entry e then
          some { entry, val := e, lvl, base := wbits e 14 38 * 2 ^ 14, size := 2 ^ lvlShift lvl }
        else none
      else
        let next := wbits e 9 43 * 2 ^ 9
        if wbits e 52 12 == 0 && wbits e 2 7 == 0 && next % 2 ^ (lvlBits (lvl - 1) + 3) == 0 then
          s.walkFrom tenant va lvl next
        else none

/-- The walk of a context's address (R272) (DEDUCED, log 39). -/
def State.walk (s : State) (ctx va : Nat) : Option Leaf :=
  let c := s.ctxOf ctx
  if va < 2 ^ 57 then s.walkFrom c.tenant va 5 c.root else none

/-- The size of the page that a context's address is translated by, or of a 16 KiB page where there is none. -/
def State.pageSize (s : State) (ctx va : Nat) : Nat := ((s.walk ctx va).map (·.size)).getD 16384

/-- An access of a context is parked at the tail of its FIFO (R347), translated by the page of its address. -/
def State.addPark (s : State) (ctx : Nat) (p : Park) : State :=
  { s with parks := s.parks ++ [{ p with page := s.pageSize ctx p.va }], rix := 0 }

/-- A walk from a table of level `n - 1` reads an entry in a poisoned line (R471). -/
def State.walkMeets (s : State) (va : Nat) : Nat → Nat → Bool
  | 0, _ => false
  | lvl + 1, table =>
    let entry := table + 8 * lvlIndex va lvl
    let e := s.readWord entry
    tableReadable entry
      && (s.linePoisoned (lineOf entry)
        || (bitOf e.toNat 0 && !bitOf e.toNat 1 && s.walkMeets va lvl (wbits e 9 43 * 2 ^ 9)))

/-- The walk of a context's address consumes poison: no entry is taken from it as good (R471). -/
def State.walkPoisoned (s : State) (ctx va : Nat) : Bool := decide (va < 2 ^ 57) && s.walkMeets va 5 (s.ctxOf ctx).root

/-! ## Bound lines -/

/-- Binding b holds a physical line. -/
def Bind.holds (b : Bind) (line : Nat) : Bool :=
  b.extents.any fun x => decide (x.2.1 ≤ 64 * line ∧ 64 * line < x.2.1 + x.2.2)

/-- The context and the binding that hold a physical line (R341). -/
def State.bindAt (s : State) (line : Nat) : Option (Nat × Bind) :=
  s.ctxs.findSome? fun p => (p.2.binds.find? fun b => b.holds line).map fun b => (p.1, b)

/-- The launch whose chute control line a physical line is: its context, serial, chute and slot (R401). -/
def State.chuteAt (s : State) (line : Nat) : Option (Nat × Nat × Nat × Nat) :=
  s.launches.findSome? fun l =>
    l.chutes.zipIdx.findSome? fun c =>
      (c.1.lines.findIdx? fun x => x == line).map fun k => (l.ctx, l.serial, c.2, k)

/-- The context that has a physical line bound, in a staged region or as a control line of its launch (R341, R401). -/
def State.boundCtx (s : State) (line : Nat) : Option Nat :=
  match s.bindAt line with
  | some (c, _) => some c
  | none => (s.chuteAt line).map (·.1)

/-! ## One access -/

/-- Causes of 22 Table 22.1 that an access can meet. -/
def causeXlate : Nat := 5
/-- PROT. -/
def causeProt : Nat := 6
/-- ALIGN. -/
def causeAlign : Nat := 7
/-- STAGE_ILLEGAL. -/
def causeStageIllegal : Nat := 8
/-- STAGE_BUSY. -/
def causeStageBusy : Nat := 9
/-- STAGE_TABLE. -/
def causeStageTable : Nat := 10
/-- PARK_LIMIT. -/
def causeParkLimit : Nat := 11
/-- POISON. -/
def causePoison : Nat := 12
/-- MCHECK. -/
def causeMcheck : Nat := 13

/-- What an access does, for its rights (R274). -/
inductive Right where
  | load
  | store
  | fetch
  deriving DecidableEq, Repr

/-- The leaf's rights forbid the access at this level (R274, R519). -/
def rightDenied (e : Word) (lv : Level) (r : Right) : Bool :=
  (lv == .program && !leafU e)
    || (match r with
        | .load => !leafR e
        | .store => !leafW e
        | .fetch => !leafX e)

/-- The pieces of n bytes from va, cut at 16 KiB boundaries; fuel bounds their number. -/
def splitPages : Nat → Int → Nat → List (Int × Nat)
  | 0, _, _ => []
  | fuel + 1, va, n =>
    if n = 0 then []
    else
      let room := 16384 - (va % 16384).toNat
      if n ≤ room then [(va, n)] else (va, room) :: splitPages fuel (va + room) (n - room)

/-- The first line of a piece on which an access without a transition is refused, with its cause (R341, R342). -/
def State.stagedFault (s : State) (ctx : Nat) (p : Part) : Option (Nat × Nat) :=
  if s.ctxs.all (fun c => c.2.binds.isEmpty) && s.launches.isEmpty then none
  else
    (linesOf p.pa p.len).findSome? fun l =>
      let at_ := if 64 * l < p.pa then p.va else p.va + (64 * l - p.pa)
      (s.boundCtx l).map fun c => (if c = ctx then causeStageIllegal else causeProt, at_)

/-- Walks made once for the pages of one instruction: (16 KiB page number, leaf). -/
abbrev Walks := List (Nat × Option Leaf)

/-- The leaf of an address, from the walks already made or by a walk. -/
def State.leafFor (s : State) (ws : Walks) (ctx va : Nat) : Option Leaf :=
  match ws.lookup (va / 16384) with
  | some l => l
  | none => s.walk ctx va

/-- The cause of a walk that gives no leaf: XLATE, or POISON, which is contained (R274, R471). -/
def State.walkCause (s : State) (ctx va : Nat) : Nat := if s.walkPoisoned ctx va then causePoison else causeXlate

/-- XLATE and PROT of one piece (R317). -/
def State.checkPart (s : State) (ws : Walks) (ctx : Nat) (lv : Level) (r : Right) (va : Int) (n : Nat) :
    Except (Nat × Word) Part :=
  if va < 0 ∨ va ≥ ((2 ^ 57 : Nat) : Int) then .error (causeXlate, wordOf va)
  else
    match s.leafFor ws ctx va.toNat with
    | none => .error (s.walkCause ctx va.toNat, wordOf va)
    | some l =>
      if rightDenied l.val lv r then .error (causeProt, wordOf va)
      else
        .ok { va := va.toNat, pa := l.base + va.toNat % l.size, len := n, ordk := leafOrdk l.val
              mig := leafMig l.val, entry := l.entry, page := l.size }

/-- The checks of the pieces in turn, with the staged checks when `staged` asks for them. -/
def State.checkParts (s : State) (ws : Walks) (ctx : Nat) (lv : Level) (r : Right) (staged : Bool) :
    List (Int × Nat) → Except (Nat × Word) (List Part)
  | [] => .ok []
  | (va, n) :: t =>
    match s.checkPart ws ctx lv r va n with
    | .error e => .error e
    | .ok p =>
      match (if staged then s.stagedFault ctx p else none) with
      | some (c, a) => .error (c, BitVec.ofNat 64 a)
      | none =>
        match s.checkParts ws ctx lv r staged t with
        | .error e => .error e
        | .ok ps => .ok (p :: ps)

/-- The checks of R317 on one access of n bytes, in the order ALIGN, XLATE, PROT, staged: the pieces it touches, or the
cause and the reported byte. -/
def State.checkAccessIn (s : State) (ws : Walks) (ctx : Nat) (lv : Level) (r : Right) (align staged : Bool) (va : Int)
    (n : Nat) : Except (Nat × Word) (List Part) :=
  if align && decide (va % n ≠ 0) then .error (causeAlign, wordOf va)
  else s.checkParts ws ctx lv r staged (splitPages (n / 16384 + 2) va n)

/-- `checkAccessIn` with no walk made before. -/
def State.checkAccess (s : State) (ctx : Nat) (lv : Level) (r : Right) (align staged : Bool) (va : Int) (n : Nat) :
    Except (Nat × Word) (List Part) :=
  s.checkAccessIn [] ctx lv r align staged va n

/-- A and D set in a leaf entry by an access (R275). -/
def State.markEntry (s : State) (entry : Nat) (store : Bool) : State :=
  let e := s.readWord entry
  let e' := e ||| (if store then 0x30 else 0x20)
  if e' = e then s else s.writeWord entry e'

/-- A and D set for every piece of an access. -/
def State.markParts (s : State) (store : Bool) : List Part → State
  | [] => s
  | p :: t => (s.markEntry p.entry store).markParts store t

end Sys2Proof.Machine
end

