-- ==== Sys2Proof/Machine/Block.lean ====
section
/-! DEFINITION. Context blocks and vector save blocks: layouts, saving and loading, lazy saves, landings, and the end of
a context (22 R436 to R445, R454, R455). -/
namespace Sys2Proof.Machine

/-! ## Accesses of the Headframe -/

/-- Lines that n bytes from pa cover whole. -/
def wholeLines (pa n : Nat) : List Nat := (linesOf pa n).filter fun l => decide (pa ≤ 64 * l ∧ 64 * l + 64 ≤ pa + n)

/-- Writes the pieces of an access; a line that is covered whole is left unpoisoned (R318). -/
def State.writeParts (s : State) : List Part → List Byte → State
  | [], _ => s
  | p :: t, bs =>
    let s1 := s.writePhys p.pa (bs.take p.len)
    let s2 := (wholeLines p.pa p.len).foldl (fun s l => if (s.metaOf l).pois then s.setPois l false else s) s1
    let s3 := (linesOf p.pa p.len).foldl State.stored s2
    s3.writeParts t (bs.drop p.len)

/-- The bytes of the pieces of an access. -/
def State.readParts (s : State) : List Part → List Byte
  | [] => []
  | p :: t => s.readPhys p.pa p.len ++ s.readParts t

/-- The migrations under way of the pages that some bytes of a context lie in end: a write of the device stalls until they
have, and the model lets that pass within the step (R279). -/
def State.awaitMoves (s : State) (ctx : Nat) (lv : Level) (va n : Nat) : State :=
  match s.checkAccess ctx lv .store false true va n with
  | .error _ => s
  | .ok ps =>
    (s.migs.filter fun m => ps.any fun p => p.mig && decide (m.old ≤ p.pa ∧ p.pa < m.old + m.size)).foldl State.endMove s

/-- A checked write by the device in a context's address space; none when a check of R5 fails. -/
def State.ctxWrite (s : State) (ctx : Nat) (lv : Level) (va : Nat) (bs : List Byte) : Option State :=
  let s1 := if s.migs.isEmpty then s else s.awaitMoves ctx lv va bs.length
  match s1.checkAccess ctx lv .store false true va bs.length with
  | .error _ => none
  | .ok ps => some (((s1.markParts true ps).writeParts ps bs).askParts ctx true ps)

/-- A is set in the leaves of the pages that a read by the device goes through (R275). -/
def State.ctxSeen (s : State) (ctx : Nat) (lv : Level) (va n : Nat) : State :=
  match s.checkAccess ctx lv .load false true va n with
  | .error _ => s
  | .ok ps => (s.markParts false ps).askParts ctx false ps

/-- A checked read by the device in a context's address space. -/
def State.ctxRead (s : State) (ctx : Nat) (lv : Level) (va n : Nat) : Option (List Byte) :=
  match s.checkAccess ctx lv .load false true va n with
  | .error _ => none
  | .ok ps => some (s.readParts ps)

/-- A byte of a virtual range lies in a poisoned line. -/
def State.ctxPoisoned (s : State) (ctx : Nat) (lv : Level) (va n : Nat) : Bool :=
  match s.checkAccess ctx lv .load false false va n with
  | .error _ => false
  | .ok ps => ps.any fun p => s.poisoned p.pa p.len

/-- Several checked writes; none when one fails. -/
def State.ctxWrites (s : State) (ctx : Nat) (lv : Level) : List (Nat × List Byte) → Option State
  | [] => some s
  | (va, bs) :: t =>
    match s.ctxWrite ctx lv va bs with
    | none => none
    | some s' => s'.ctxWrites ctx lv t

/-! ## Layouts -/

/-- Bytes of a context block (R440). -/
def blockSize : Nat := 282688

/-- Offset of the vector save block in a context block (22 Table 22.5). -/
def vecOffset : Nat := 0x800

/-- A loop-stack entry as 256 bits (06 Table 6.4). -/
def Loop.bits (l : Loop) : Nat :=
  bit l.h * 2 ^ 255 + l.last.toNat * 2 ^ 192 + l.first.toNat * 2 ^ 128 + l.count.toNat * 2 ^ 64 + l.index.toNat

/-- The entry that 256 bits hold. -/
def Loop.ofBits (x : Nat) : Loop :=
  { h := bitOf x 255, last := BitVec.ofNat 57 (field x 192 57), first := BitVec.ofNat 57 (field x 128 57)
    count := BitVec.ofNat 64 (field x 64 64), index := BitVec.ofNat 64 (field x 0 64) }

/-- A saved loop entry is refused (R146). The low three bits of LAST and FIRST, which Table 6.4 gives as 0, count as the reserved bits
do (DEDUCED, log 45). -/
def loopRefused (x : Nat) : Bool :=
  let l := Loop.ofBits x
  field x 249 6 != 0 || field x 185 7 != 0 || l.last.toNat % 8 != 0 || l.first.toNat % 8 != 0
    || l.count.toNat ≤ l.index.toNat || l.last.toNat < l.first.toNat

/-- HND of CAUSE (22 Table 22.2): a trap is being handled. -/
def Hart.handling (h : Hart) : Bool := bitOf h.cause.toNat 58

/-- What a landing writes beside the registers (22 Table 22.6). -/
structure Landing where
  fatal : Bool
  halted : Bool
  miditer : Bool
  lazily : Bool
  pc : Word
  cause : Word
  epc : Word
  tval : Word
  deriving DecidableEq, Repr

/-- The scalar part of a context block (22 Tables 22.5, 22.6). -/
def Hart.scalarBlock (h : Hart) (l : Landing) : List Byte :=
  let w0 := 2 ^ 56 + (if h.level = .supervisor then 2 ^ 8 else 0) + bit l.fatal * 2 ^ 7 + bit l.halted * 2 ^ 6
    + bit h.handling * 2 ^ 5 + bit l.miditer * 2 ^ 4 + bit l.lazily * 2 ^ 3 + h.loops.length
  let w6 := h.inst.serial * 2 ^ 16 + h.inst.stage * 2 ^ 13
  wordBytes [BitVec.ofNat 64 w0, l.pc, l.cause, l.epc, l.tval, h.wid, BitVec.ofNat 64 w6, 0]
    ++ wordBytes (0 :: h.g.toList.drop 1)
    ++ (h.loops ++ List.replicate (6 - h.loops.length) (Loop.ofBits 0)).flatMap (fun x => toBytes x.bits 32)
    ++ h.cols.toList.flatMap (fun x => toBytes x.toNat 64)
    ++ wordBytes [h.rmode, h.seed, h.parklim, BitVec.ofNat 64 (h.wmark.getD 0), h.tvec, 0, 0, 0]
    ++ List.replicate 448 0

/-- A rectangle of register cells (22 R444): registers lo to hi, cells below ext. -/
structure Rect where
  lo : Nat
  hi : Nat
  ext : Nat
  deriving DecidableEq, Repr

/-- The rectangle that HWM or RECT holds (22 Table 22.7). -/
def Rect.ofWord (w : Word) : Rect := { lo := wbits w 8 5, hi := wbits w 16 5, ext := min (wbits w 0 8) 128 }

/-- Its word, with ZRST = 0. -/
def Rect.word (r : Rect) : Word :=
  if r.ext = 0 then 0 else BitVec.ofNat 64 (r.hi * 2 ^ 16 + r.lo * 2 ^ 8 + r.ext)

/-- The rectangle is empty. -/
def Rect.isEmpty (r : Rect) : Bool := r.ext == 0 || r.hi < r.lo

/-- The rectangle holds a cell. -/
def Rect.has (r : Rect) (n u : Nat) : Bool := decide (r.lo ≤ n ∧ n ≤ r.hi ∧ u < r.ext)

/-- The smallest rectangle covering two (R454). -/
def Rect.cover (r q : Rect) : Rect :=
  if r.isEmpty then (if q.isEmpty then ⟨0, 0, 0⟩ else q)
  else if q.isEmpty then r
  else { lo := min r.lo q.lo, hi := max r.hi q.hi, ext := max r.ext q.ext }

/-- The vector header (22 Table 22.9). -/
def Vec.header (v : Vec) (lendep : Bool) (rect : Word) : List Byte :=
  wordBytes [BitVec.ofNat 64 (2 ^ 56 + bit lendep * 2 ^ 17 + v.vlmax),
    BitVec.ofNat 64 (v.ew.toNat * 2 ^ 37 + v.ty.toNat * 2 ^ 34 + v.vstart * 2 ^ 17 + v.vl),
    BitVec.ofNat 64 v.nreg.toNat, rect, 0, 0, 0, 0]

/-- VLMAX of a header. -/
def hdrVlmax (h : List Byte) : Nat := wbits (wordAt h 0) 0 17
/-- EW. -/
def hdrEw (h : List Byte) : BitVec 3 := BitVec.ofNat 3 (wbits (wordAt h 8) 37 3)
/-- TY. -/
def hdrTy (h : List Byte) : BitVec 3 := BitVec.ofNat 3 (wbits (wordAt h 8) 34 3)
/-- VSTART. -/
def hdrVstart (h : List Byte) : Nat := wbits (wordAt h 8) 17 17
/-- VL. -/
def hdrVl (h : List Byte) : Nat := wbits (wordAt h 8) 0 17
/-- NREG. -/
def hdrNreg (h : List Byte) : BitVec 2 := BitVec.ofNat 2 (wbits (wordAt h 16) 0 2)
/-- RECT. -/
def hdrRect (h : List Byte) : Rect :=
  { lo := wbits (wordAt h 24) 8 5, hi := wbits (wordAt h 24) 16 5, ext := wbits (wordAt h 24) 0 8 }

/-- R445: a vector header is refused. -/
def headerRefused (h : List Byte) : Bool :=
  let w0 := wordAt h 0
  let w1 := wordAt h 8
  let w2 := wordAt h 16
  let w3 := wordAt h 24
  let r := hdrRect h
  wbits w0 56 8 != 1 || wbits w0 18 38 != 0 || wbits w1 40 24 != 0 || wbits w2 2 62 != 0
    || wbits w3 21 43 != 0 || wbits w3 13 3 != 0 || (h.drop 32).any (· != 0)
    || hdrNreg h == 3
    || !(hdrVlmax h == 0 || isLanePower (hdrVlmax h))
    || regCount (hdrNreg h) ≤ r.hi || r.hi < r.lo || hdrVlmax h / 512 < r.ext
    || hdrVl h < hdrVstart h || hdrVlmax h < hdrVl h * widthOf (hdrEw h)
    || !Legal.pairOk (hdrEw h) (hdrTy h)
    || (hdrVlmax h == 0 && hdrVl h != 0)

/-! ## Saving and loading vector state -/

/-- The 64 bytes of a register cell. -/
def Vec.cell (v : Vec) (n u : Nat) : List Byte :=
  toBytes (field ((v.v.toList.getD n 0).toNat) (512 * u) 512) 64

/-- The writes of R454 as (offset, bytes), and the number of bytes, for a save block whose header reads `old`. -/
def Vec.saveWrites (v : Vec) (old : List Byte) (full : Bool) : List (Nat × List Byte) × Nat :=
  let n := regCount v.nreg
  let h := if full then (if v.vlmax = 0 then ⟨0, 0, 0⟩ else { lo := 0, hi := n - 1, ext := v.vlmax / 512 })
    else Rect.ofWord v.hwm
  let r : Rect :=
    if full then ⟨0, 0, 0⟩
    else if bitOf v.hwm.toNat 63 || headerRefused old then ⟨0, 0, 0⟩
    else { hdrRect old with ext := min (hdrRect old).ext (v.vlmax / 512) }
  let u := h.cover r
  let cells := (List.range 32).flatMap fun i =>
    (List.range u.ext).filterMap fun j =>
      if u.has i j && (h.has i j || !r.has i j) then some (i, j) else none
  let writes := cells.flatMap fun c =>
    [(0x4840 + 8192 * c.1 + 64 * c.2, v.cell c.1 c.2),
     (0x40 + 128 * c.1 + c.2, [BitVec.ofNat 8 (field (v.pois.toList.getD c.1 0).toNat (8 * c.2) 8)])]
  let masks := if v.vlmax = 0 then [] else
    (List.range 7).map fun k =>
      (0x1040 + 2048 * k, toBytes (v.m.toList.getD (k + 1) 0).toNat (v.vlmax / 32))
  (writes ++ masks ++ [(0, v.header false u.word)], 65 * cells.length + 7 * (v.vlmax / 32) + 64)

/-- What a load reads from a save block: cells by register (bytes below L), poison maps, masks. -/
structure SavedVec where
  hdr : List Byte
  cells : List (Nat × Nat × Nat)
  masks : List Nat
  deriving DecidableEq, Repr

/-- L of R455: the bits of each saved register that a load takes. -/
def loadBits (hdr : List Byte) (vlmax : Nat) : Nat := min ((hdrRect hdr).ext * 512) vlmax

/-- The vector state that a load leaves (R455), and LENDEP. Cells are (register, bits, poison bits). -/
def SavedVec.load (d : SavedVec) (vlmax : Nat) : Vec × Bool :=
  let reg n := (d.cells.find? fun c => c.1 == n).getD (n, 0, 0)
  let ew := hdrEw d.hdr
  let vl := min (hdrVl d.hdr) (vlmax / widthOf ew)
  ({ v := Vector.ofFn fun i : Fin 32 => BitVec.ofNat 65536 (reg i.val).2.1
     pois := Vector.ofFn fun i : Fin 32 => BitVec.ofNat 1024 (reg i.val).2.2
     m := Vector.ofFn fun i : Fin 8 => if i.val = 0 then 0 else BitVec.ofNat 16384 (d.masks.getD (i.val - 1) 0)
     vl, vstart := min (hdrVstart d.hdr) vl, ew, ty := hdrTy d.hdr, nreg := hdrNreg d.hdr, vlmax
     hwm := 0 },
   hdrVlmax d.hdr != vlmax || vl < hdrVl d.hdr)

/-- Poison of the eight groups of a cell from its line and of every group from its map line (R455). -/
def poisonFix (n bytesPois : Nat) (cellPois mapPois : Nat → Bool) : Nat :=
  (List.range n).foldl (fun acc u =>
    let b := if cellPois u || mapPois u then 255 else field bytesPois (8 * u) 8
    acc + b * 2 ^ (8 * u)) 0

/-- Reads a save block at a virtual address as the device does; none when a read fails a check, or a poisoned line
stands in the header or the masks. -/
def State.readSaved (s : State) (ctx va : Nat) (vlmaxFor : List Byte → Nat) : Option SavedVec :=
  match s.ctxRead ctx .supervisor va 64 with
  | none => none
  | some hdr =>
    if s.ctxPoisoned ctx .supervisor va 64 || headerRefused hdr then none
    else
      let vlmax := vlmaxFor hdr
      let bits := loadBits hdr vlmax
      let r := hdrRect hdr
      let regs := if r.ext = 0 then [] else (List.range (r.hi + 1 - r.lo)).map (· + r.lo)
      let cells := regs.map fun n =>
        let base := va + 0x4840 + 8192 * n
        let mbase := va + 0x40 + 128 * n
        match s.ctxRead ctx .supervisor base (bits / 8), s.ctxRead ctx .supervisor mbase (bits / 512) with
        | some bs, some ps =>
          some (n, ofBytes bs, poisonFix (bits / 512) (ofBytes ps)
            (fun u => s.ctxPoisoned ctx .supervisor (base + 64 * u) 64)
            (fun u => s.ctxPoisoned ctx .supervisor (mbase + u) 1))
        | _, _ => none
      let mlen := min (hdrVlmax hdr) vlmax / 32
      let masks := (List.range 7).map fun k =>
        let a := va + 0x1040 + 2048 * k
        if s.ctxPoisoned ctx .supervisor a mlen then none else (s.ctxRead ctx .supervisor a mlen).map ofBytes
      if cells.all Option.isSome && masks.all Option.isSome then
        some { hdr, cells := cells.filterMap id, masks := masks.filterMap id }
      else none

/-- The ranges of a save block that `readSaved` reads, as (offset, bytes). -/
def savedRanges (hdr : List Byte) (vlmax : Nat) : List (Nat × Nat) :=
  let bits := loadBits hdr vlmax
  let r := hdrRect hdr
  let regs := if r.ext = 0 then [] else (List.range (r.hi + 1 - r.lo)).map (· + r.lo)
  (0, 64) :: (regs.flatMap fun n => [(0x4840 + 8192 * n, bits / 8), (0x40 + 128 * n, bits / 512)])
    ++ (List.range 7).map fun k => (0x1040 + 2048 * k, min (hdrVlmax hdr) vlmax / 32)

/-- A set for the reads of a save block at a virtual address (R275). -/
def State.seeSaved (s : State) (ctx va : Nat) (hdr : List Byte) (vlmax : Nat) : State :=
  (savedRanges hdr vlmax).foldl (fun t x => t.ctxSeen ctx .supervisor (va + x.1) x.2) s

/-! ## The end of a context, landings, lazy saves -/

/-- Where a context's block lies. -/
def State.blockAddr (s : State) (ctx blk : Nat) : Nat := (s.ctxOf ctx).save + blockSize * blk

/-- The agent belongs to a context. -/
def State.agentCtx (s : State) (a : Agent) : Option Nat :=
  match a with
  | .seq c q | .fetch c q => some (s.hartAt c q).ctx
  | .task h => (s.tasks.find? fun t => t.h == h).map (·.ctx)
  | .cmd i => (s.cmds.find? fun c => c.id == i).map (·.ctx)
  | .launch n => (s.launchOf n).map (·.ctx)
  | .queue fn q => some (wbits (Table.get HostQ.reset q (s.funcOf fn).queues).qctl 16 12)
  | _ => none

/-- The context that an export entry opens to a source window (R496). -/
def State.exportCtx (s : State) (src win : Nat) : Option Nat :=
  s.fabric.exports.findSome? fun e =>
    if bitOf e.2.toNat 63 && wbits e.2 53 10 == src && wbits e.2 45 8 == win then some (wbits e.2 33 12) else none

/-- The parked access is another device's. -/
def Park.isRemote (p : Park) : Bool :=
  match p.agent with
  | .remote _ _ _ => true
  | _ => false

/-- The context of a parked access. -/
def State.parkCtx (s : State) (p : Park) : Option Nat :=
  if p.isRemote then s.exportCtx (Packet.parse p.pkt).src (Packet.parse p.pkt).win else s.agentCtx p.agent

/-- The accesses of some agents leave every FIFO, those of other devices by a withdrawal (R348), and their outstanding
answers are dropped. -/
def State.dropAgents (s : State) (sel : Agent → Bool) : State :=
  let s1 := s.withdraw true fun r => sel r.agent
  { s1 with
    parks := s1.parks.filter fun p => !sel p.agent, remotes := s1.remotes.filter fun r => !sel r.agent
    flights := s1.flights.filter fun f => !sel f.agent }

/-- The accesses of an agent are dropped. -/
def State.dropAgent (s : State) (a : Agent) : State := s.dropAgents fun x => x == a

/-- A sequencer's accesses and its fetch are dropped. -/
def State.dropSeq (s : State) (core sq : Nat) : State := (s.dropAgent (.seq core sq)).dropAgent (.fetch core sq)

/-- A sequencer is freed: its accesses leave every FIFO, its lane group is released. The vector state stays in the storage
under its owner's tag (R442). -/
def State.freeHart (s : State) (h : Hart) : State :=
  let s1 := (s.dropSeq h.core h.sq).putHart
    { h with live := false, waiting := false, atPoint := false, mayYield := false, held := none, preq := false, grace := false }
  s1.releaseLanes h.core h.sq

/-- An instance stops on its sequencer: the block's scalar part is written when it can be, and the sequencer is freed. -/
def State.stopHart (s : State) (h : Hart) (l : Landing) : State :=
  ((s.ctxWrite h.ctx .supervisor (s.blockAddr h.ctx h.blk) (h.scalarBlock l)).getD s).freeHart h

/-- CAUSE in a block for an imprecise cause: IMPR and CODE (22 Table 22.2). -/
def imprecise (code : Nat) : Word := BitVec.ofNat 64 (2 ^ 63 + code)

/-- A stopped instance whose vector state stays in the storage of its sequencer: a later VFIRST saves it into its block
(R438, R442). It never runs again. -/
def State.keepEnded (s : State) (h : Hart) : State :=
  if h.owner == some (h.ctx, h.inst) then
    { s with saved := s.saved ++
      [{ ctx := h.ctx, inst := h.inst, blk := h.blk, halted := true, vsaved := some h.vec.vlmax
         lazyAt := some (h.core, h.sq), asked := none, cycle := h.cycle, slots := [], skipBp := false }] }
  else s

/-- Stops every live sequencer of a context, with FATAL = 1 in its block, as a landing under point 4 (R437, R439); the culprit's
block also holds the cause. -/
def State.stopAll (s : State) (ctx : Nat) (cause tval : Word) (culprit : Option (Nat × Nat × Word)) : List Hart → State
  | [] => s
  | h :: t =>
    if h.live && h.ctx == ctx then
      let own := h.owner == some (ctx, h.inst)
      let mine := match culprit with
        | some (c, q, _) => h.at c q
        | none => false
      let p := match culprit with
        | some (_, _, p) => if mine then p else h.pc
        | none => h.pc
      let l : Landing :=
        if mine then
          { fatal := true, halted := false, miditer := true, lazily := own, pc := p
            cause, epc := p, tval }
        else
          { fatal := true, halted := false, miditer := true, lazily := own, pc := p, cause := h.cause, epc := h.epc
            tval := h.tval }
      ((s.stopHart h l).keepEnded h).stopAll ctx cause tval culprit t
    else s.stopAll ctx cause tval culprit t

/-- FATAL = 1 in the block of an instance that was switched out. -/
def State.markFatal (s : State) (x : Saved) : State :=
  let a := s.blockAddr x.ctx x.blk
  match s.ctxRead x.ctx .supervisor a 8 with
  | none => s
  | some bs =>
    let s1 := s.ctxSeen x.ctx .supervisor a 8
    (s1.ctxWrite x.ctx .supervisor a (toBytes (ofBytes bs ||| 0x80) 8)).getD s1

/-- Cancels a context's tasks and commands (R226, R360): no STATUS, no FTRN, no further access. -/
def State.cancelAll (s : State) (ctx : Nat) : State :=
  { s.dropAgents fun a => s.agentCtx a == some ctx with
    tasks := s.tasks.filter fun t => t.ctx != ctx
    cmds := s.cmds.filter fun c => c.ctx != ctx }

/-- R436: POISON, MCHECK or a fatal trap ends a context. The culprit is the place of the stopped instance and p. -/
def State.endContext (s : State) (ctx : Nat) (cause tval : Word) (culprit : Option (Nat × Nat × Word)) : State :=
  let s1 := s.cancelAll ctx
  let s2 := s1.stopAll ctx cause tval culprit s1.harts
  let out := s1.saved.filter fun x => x.ctx == ctx
  let s3 := out.foldl (fun (t : State) (x : Saved) => (t.markFatal x).giveUp x) { s2 with saved := s2.saved.map fun x => if x.ctx == ctx then { x with halted := true } else x }
  (s3.setCtx ctx { s3.ctxOf ctx with ended := true }).reportEnd ctx

/-- R436 for an end of a context that its own instructions do not bring: MCHECK, unless it has ended. -/
def State.endOnce (s : State) (ctx : Nat) : State :=
  if (s.ctxOf ctx).ended then s else s.endContext ctx (imprecise causeMcheck) 0 none

/-- R436 for the acting sequencer, stopped at its PC (DESIGN CHOICE, log 12). -/
def State.fatalHere (s : State) (code : Nat) (tval : Word) : State :=
  s.endContext s.hart.ctx (imprecise code) tval (some (s.hart.core, s.hart.sq, s.hart.pc))

/-- A pending scatter-addition performed (15 R333, 14 R313). On a poisoned line it writes nothing, and its context ends
(R318, R436). -/
def State.performAdd (s : State) (a : Add) : State :=
  let s1 := { s with adds := s.adds.erase a }
  if s.linePoisoned (lineOf a.pa) then
    if (s.ctxOf a.ctx).ended then s1
    else s1.endContext a.ctx (imprecise causePoison) a.pc (some (a.core, a.sq, (s.hartAt a.core a.sq).pc))
  else s1.writePhys a.pa (toBytes (ofBytes (s.readPhys a.pa a.bytes) + a.val.toNat) a.bytes)

/-- The pending scatter-additions of a sequencer. -/
def State.addsOf (s : State) (core sq : Nat) : List Add := s.adds.filter fun a => a.core == core && a.sq == sq

/-- Every pending addition to one of some physical ranges, as (first byte, bytes), is performed (R309, R355). -/
def State.drainIn (s : State) (ranges : List (Nat × Nat)) : State :=
  (s.adds.filter fun a => ranges.any fun x => decide (x.1 ≤ a.pa ∧ a.pa < x.1 + x.2)).foldl State.performAdd s

/-- A sequencer's pending additions performed, in order: it sees its own writes (R286). -/
def State.drainAdds (s : State) (core sq : Nat) : State :=
  if s.adds.isEmpty then s else (s.addsOf core sq).foldl State.performAdd s

/-- An event in a die's event log (R432): it takes an event number (DEDUCED, log 21). -/
def State.logEvent (s : State) (die : Nat) (kind : String) : State := (s.bumpEvseq die).emit (.event die kind)

/-- The instance of a sequencer, as an owner tag. -/
def Hart.tag (h : Hart) : Nat × InstId := (h.ctx, h.inst)

/-- Launch priority of an instance. -/
def State.prioOf (s : State) (serial : Nat) : Nat :=
  match s.launchOf serial with
  | some l => l.prio
  | none => 0

/-- R438: the instance on a sequencer lands at `pc`: its state is saved, its lane group released. A block write that
fails ends the context with MCHECK (R440). -/
def State.land (s : State) (core sq : Nat) (halted miditer : Bool) (pc cause : Word) : State :=
  let h := s.hartAt core sq
  let own := h.owner == some h.tag
  let l : Landing :=
    { fatal := false, halted, miditer, lazily := own, pc, cause, epc := h.epc, tval := h.tval }
  let ended := (s.ctxOf h.ctx).ended
  let s := s.drainAdds core sq
  if (s.ctxOf h.ctx).ended && !ended then s
  else
  match s.ctxWrite h.ctx .supervisor (s.blockAddr h.ctx h.blk) (h.scalarBlock l) with
  | none =>
    let s1 := s.endContext h.ctx (imprecise causeMcheck) 0 (some (core, sq, pc))
    if own then s1.putHart { s1.hartAt core sq with vec := Vec.reset, owner := none } else s1
  | some s1 =>
    let s2 := s1.freeHart h
    let x : Saved :=
      { ctx := h.ctx, inst := h.inst, blk := h.blk, halted
        vsaved := if own then some (if h.group.isSome then h.vec.vlmax else 0) else h.vsaved
        lazyAt := if own then some (core, sq) else none, asked := none, cycle := h.cycle, slots := h.slots
        skipBp := h.skipBp }
    { s2 with saved := s2.saved ++ [x] }

/-- The lines of a block that a lazy save reads before it writes them hold poison: word 0 of the block, and the vector header
where its rectangle is taken (R454, R471). -/
def State.lazyPoisoned (s : State) (ctx a : Nat) (v : Vec) : Bool :=
  s.ctxPoisoned ctx .supervisor a 8 || (!bitOf v.hwm.toNat 63 && s.ctxPoisoned ctx .supervisor (a + vecOffset) 64)

/-- R442 step 1: the stale vector state that a sequencer's storage holds for another owner is saved into that owner's
block, and its VLAZY cleared. A write that fails, or a poisoned line that the save reads, ends that owner's context with MCHECK
(R440, R471). -/
def State.saveLazy (s : State) (core sq : Nat) : State :=
  let h := s.hartAt core sq
  match h.owner with
  | none => s
  | some (ctx, inst) =>
    if h.live && h.tag == (ctx, inst) then s
    else
      let clear (s : State) := s.putHart { s.hartAt core sq with owner := none, vec := { Vec.reset with vlmax := h.vec.vlmax } }
      match s.saved.find? fun x => x.ctx == ctx && x.inst == inst with
      | none => clear s
      | some x =>
        let a := s.blockAddr ctx x.blk
        if s.lazyPoisoned ctx a h.vec then clear (s.endOnce ctx) else
        let old := (s.ctxRead ctx .supervisor (a + vecOffset) 64).getD []
        let ws := (h.vec.saveWrites old false).1.map fun w => (a + vecOffset + w.1, w.2)
        let w0 := (s.ctxRead ctx .supervisor a 8).getD []
        match ((s.ctxSeen ctx .supervisor (a + vecOffset) 64).ctxSeen ctx .supervisor a 8).ctxWrites ctx .supervisor (ws ++ [(a, toBytes (setField (ofBytes w0) 3 1 0) 8)]) with
        | none => clear (s.endOnce ctx)
        | some s1 =>
          clear { s1 with saved := s1.saved.map fun y =>
            if y.ctx == ctx && y.inst == inst then { y with lazyAt := none } else y }

/-- Before a core's storage is repartitioned, every stale state in it is saved (R442). -/
def State.saveLazyCore (s : State) (core : Nat) : State :=
  (List.range 4).foldl (fun s q => s.saveLazy core q) s

end Sys2Proof.Machine
end

