-- ==== Sys2Proof/Machine/Dram.lean ====
section
/-! DEFINITION. The DRAM line code, the vertical bus, failed channels and injection (25 R472 to R478, R490, R491, 27 R509,
R511). -/
namespace Sys2Proof.Machine

/-- A context number that no context has: what the device itself or a host requester does is no access of a context (R490); in a
report it reads 0. -/
def noCtx : Nat := 4096

/-! ## Injection registers -/

/-- ARM of ERRINJ. -/
def State.injArmed (s : State) : Bool := bitOf s.reliab.errinj.toNat 63
/-- KIND. -/
def State.injKind (s : State) : Nat := wbits s.reliab.errinj 59 3
/-- PG. -/
def State.injPg (s : State) : Nat := wbits s.reliab.errinj 54 5
/-- BEATS; 0 means beat 0. -/
def State.injBeats (s : State) : Nat := if wbits s.reliab.errinj 50 4 = 0 then 1 else wbits s.reliab.errinj 50 4
/-- COUNT. -/
def State.injCount (s : State) : Nat := wbits s.reliab.errinj 42 8
/-- PAT; 0 means 0x01. -/
def State.injPat (s : State) : Nat := if wbits s.reliab.errinj 0 8 = 0 then 1 else wbits s.reliab.errinj 0 8

/-- The DRAM line that an armed injection targets now, for accesses of the context that armed it (R490, R491). -/
def State.injLine (s : State) (ctx : Nat) : Option Nat :=
  if s.injArmed && s.reliab.armer == some ctx then
    let va := wbits s.reliab.errinja 6 51 * 64
    match s.walk ctx va with
    | none => none
    | some l => let line := lineOf (l.base + va % l.size); if inDram line then some line else none
  else none

/-- FIRED set. -/
def State.injFired (s : State) : State :=
  { s with reliab := { s.reliab with errinj := wset s.reliab.errinj 62 1 1 } }

/-- The device clears ARM. -/
def State.injDisarm (s : State) : State :=
  { s with reliab := { s.reliab with errinj := wset s.reliab.errinj 63 1 0, stuck := none, injStore := none } }

/-! ## Failed channels -/

/-- A binding has a line on a channel. -/
def Bind.onChan (b : Bind) (chan : Nat) : Bool :=
  b.extents.any fun x =>
    inDram (lineOf x.2.1) && chanNo (lineOf x.2.1) / 64 == chan / 64
      && ((List.range (min (x.2.2 / 64) 64)).any fun k => chanNo (lineOf x.2.1 + k) == chan)

/-- A chute control line of a launch lies on a channel. -/
def Launch.onChan (l : Launch) (chan : Nat) : Bool :=
  l.chutes.any fun c => c.lines.any fun n => inDram n && chanNo n == chan

/-- The contexts that hold a binding on a channel, the control lines of their chutes among what they have bound (R401, R478). -/
def State.ctxsOn (s : State) (chan : Nat) : List Nat :=
  (s.ctxs.filterMap fun c => if c.2.binds.any fun b => b.onChan chan then some c.1 else none)
    ++ s.launches.filterMap fun l => if l.onChan chan then some l.ctx else none

/-- ORIG of a record that an injection brings about (25 Table 25.6). -/
def origInjection : Nat := 5

/-- R478: a channel fails, at a transfer of a line or in training; the context of the access, ORIG and the retries made say what
brought it about. -/
def State.failChannel (s : State) (chan : Nat) (line : Option Nat) (ctx orig nsym : Nat) : State :=
  let s1 := s.setChan chan { s.chanOf chan with failed := true }
  let s2 := s1.logError (chan / 64) bankVbus false
    { ctx, pois := true, swap := false, spare := false
      owner := match line with
        | some n => s.frameTenant (64 * n)
        | none => 0
      orig, unit := chan % 64, subu := 0xFF, nsym, line := line.getD 0 }
  (s2.ctxsOn chan).foldl State.endOnce s2

/-! ## The vertical bus -/

/-- The pin group is replaced by a spare (R477). -/
def Channel.replaced (c : Channel) (pg : Nat) : Bool := c.spare20 == some pg || c.spare21 == some pg

/-- A corrected record of the VBUS bank (27 Table 27.4). -/
def State.logVbus (s : State) (line pg nsym : Nat) (swap spare : Bool) (ctx orig : Nat) : State :=
  s.logError (chanNo line / 64) bankVbus true
    { ctx, pois := false, swap, spare, owner := s.frameTenant (64 * line), orig, unit := chanNo line % 64, subu := pg, nsym, line }

/-- The channel with a group on its lower-numbered free spare, and which spare that is; none when no spare is free, or one
replaces the group already (R477). -/
def Channel.swap (c : Channel) (pg : Nat) : Option (Channel × Bool) :=
  if c.replaced pg then none
  else if c.spare20.isNone then some ({ c with spare20 := some pg }, false)
  else if c.spare21.isNone then some ({ c with spare21 := some pg }, true)
  else none

/-- Four attempts failed on one pin group: a spare takes it for attempt 5, or the channel fails (R476, R477). When attempt 5
fails too, the swap is reported with the bank's STAT as it stands (R489), and the channel fails. -/
def State.swapGroup (s : State) (line pg : Nat) (passes : Bool) (ctx orig : Nat) : State :=
  let chan := chanNo line
  let die := chan / 64
  match (s.chanOf chan).swap pg with
  | none => s.failChannel chan (some line) ctx orig 3
  | some (c, spare) =>
    let s1 := s.setChan chan c
    if passes then s1.logVbus line pg 4 true spare ctx orig
    else (s1.reportBank 3 ctx die bankVbus (s1.bankOf die bankVbus).stat).failChannel chan (some line) ctx orig 4

/-- R476 with a stuck pin group: four attempts fail, then a free spare takes the group, or the channel fails. -/
def State.stuckTransfer (s : State) (ctx line : Nat) : State :=
  let chan := chanNo line
  let pg := s.injPg
  let done := match s.reliab.stuck with
    | some (_, k) => k
    | none => 0
  let left := if s.injCount = 0 then 4 else s.injCount - done
  let fails := min left 4
  let s1 := { s with reliab := { s.reliab with stuck := some (chan, done + fails) } }
  let s2 := if s.injCount != 0 && done + fails == s.injCount then s1.injDisarm else s1
  if fails = 0 then s2
  else if fails < 4 then s2.logVbus line pg fails false false ctx origInjection
  else s2.swapGroup line pg true ctx origInjection

/-- One transfer of a DRAM line across the vertical bus (R476), with any injection that fires on it (R491, R511). -/
def State.transfer (s : State) (ctx line : Nat) : State :=
  let chan := chanNo line
  let hit := s.injLine ctx == some line && (s.injKind == 2 || (s.injKind == 3 && s.reliab.stuck.isNone))
  if (s.chanOf chan).failed then s
  else if hit && (s.chanOf chan).replaced s.injPg then s.injFired.injDisarm
  else if hit && s.injKind == 2 then
    (s.injFired.injDisarm).logVbus line s.injPg 1 false false ctx origInjection
  else
    let s1 := if hit then { s.injFired with reliab := { s.injFired.reliab with stuck := some (chan, 0) } } else s
    match s1.reliab.stuck with
    | some (c, _) => if c == chan && !((s1.chanOf chan).replaced s1.injPg) then s1.stuckTransfer ctx line else s1
    | none => s1

/-! ## The line code -/

/-- Symbol i of an 80-symbol error pattern. -/
def errSym (e : BitVec 640) (i : Nat) : Nat := field e.toNat (8 * i) 8

/-- The pin groups that an error pattern touches (25 Table 25.1). -/
def errGroups (e : BitVec 640) : List Nat :=
  (List.range 20).filter fun g => (List.range 4).any fun k => errSym e (4 * g + k) != 0

/-- Number of symbols in error. -/
def errCount (e : BitVec 640) : Nat := ((List.range 80).filter fun i => errSym e i != 0).length

/-- The row enters its channel's watch list, in place of the oldest when 4,096 rows are watched (R480). -/
def State.watchRow (s : State) (line : Nat) : State :=
  let c := s.chanOf (chanNo line)
  let due := match c.watch.find? fun r => r.row == rowNo line with
    | some r => r.due
    | none => 0
  let kept := c.watch.filter fun r => r.row != rowNo line
  let kept := if kept.length ≥ 4096 then kept.drop 1 else kept
  s.setChan (chanNo line) { c with watch := kept ++ [{ row := rowNo line, clean := 0, hit := true, due }] }

/-- The pattern of an armed DRAM-cell injection: symbols 4 PG + k for the beats k of BEATS, each XORed with PAT. -/
def State.injPattern (s : State) : BitVec 640 :=
  BitVec.ofNat 640 ((List.range 4).foldl (fun acc k =>
    acc + (if bitOf s.injBeats k then s.injPat * 2 ^ (8 * (4 * s.injPg + k)) else 0)) 0)

/-- R473, R474: the controller decodes a line that it reads from the array (DEDUCED, log 47). -/
def State.decodeLine (s : State) (ctx line orig : Nat) : State :=
  let hit := s.injLine ctx == some line && s.injKind == 1
  let e0 := Table.get 0 line s.reliab.errors
  let e := if hit then e0 ^^^ s.injPattern else e0
  let s0 := if hit then s.injFired.injDisarm else s
  let orig := if hit then origInjection else orig
  let s1 := { s0 with reliab := { s0.reliab with errors := Table.put 0 line 0 s0.reliab.errors } }
  let groups := errGroups e
  let r : ErrRec :=
    { ctx, pois := false, swap := false, spare := false, owner := s.frameTenant (64 * line), orig, unit := chanNo line % 64
      subu := groups.headD 0, nsym := 0, line }
  let die := chanNo line / 64
  match groups.length with
  | 0 => s1
  | 1 => (s1.logError die bankDram true { r with nsym := errCount e }).watchRow line
  | n =>
    let data := toBytes (ofBytes (s1.readPhys (64 * line) 64) ^^^ field e.toNat 0 512) 64
    let s2 := s1.writePhys (64 * line) data
    if n ≥ 3 && Config.freeBool s2.tick then s2.nextTick
    else
      let s3 := ((if n ≥ 3 then s2.nextTick else s2).setPois line true).logError die bankDram false { r with pois := true }
      match s3.boundCtx line with
      | some c => s3.endOnce c
      | none => s3

/-- The line has something for an access to meet on its way to the array. -/
def State.arrayMatters (s : State) (ctx line : Nat) : Bool :=
  Table.get 0 line s.reliab.errors != 0 || s.injLine ctx == some line
    || s.reliab.stuck.isSome || (s.chanOf (chanNo line)).failed

/-- A read of a DRAM line at the array: transfer, then decode. A failed channel takes no transfer, and every read of it is
poisoned (R478, `State.linePoisoned`). -/
def State.arrayAccess (s : State) (ctx line orig : Nat) : State :=
  let s1 := s.transfer ctx line
  if (s1.chanOf (chanNo line)).failed then s1 else s1.decodeLine ctx line orig

/-- A write to a failed channel enters the line in its poison list (R478). -/
def State.listPoison (s : State) (line : Nat) : State :=
  let c := s.chanOf (chanNo line)
  if c.poisons.contains line then s else s.setChan (chanNo line) { c with poisons := c.poisons ++ [line] }

/-- A write of a DRAM line at the array: transfer, then a fresh codeword; a failed channel lists the line. -/
def State.arrayWrite (s : State) (ctx line : Nat) : State :=
  let s1 := s.transfer ctx line
  if (s1.chanOf (chanNo line)).failed then s1.listPoison line else s1.freshCode line

/-- A store is kept on the chip: a bus injection on its line meets it at the write-back (R491, R509). The line that is kept is new,
or the rest of it has been read from the array when its symbols hold an error there (R473). -/
def State.keepStore (s : State) (ctx orig : Nat) (whole : Bool) (line : Nat) : State :=
  let s1 := if whole then s.freshCode line
    else if Table.get 0 line s.reliab.errors = 0 then s else s.arrayAccess ctx line orig
  if (s1.chanOf (chanNo line)).failed then s1.listPoison line
  else if s1.injLine ctx == some line then { s1 with reliab := { s1.reliab with injStore := some line } } else s1

/-- An access of a context, or of `noCtx`, to a line (R509): a sequencer load after a host write reaches the array, until an agent
of the package has accessed the line, which another device (ORIG 2) is not; a failed channel is met always, and any other access
reaches the array when the device chooses. A store there that does not cover the line reads the rest of it first. -/
def State.reachLine (s : State) (ctx orig : Nat) (write whole : Bool) (line : Nat) : State :=
  if !inDram line then s
  else
    let must := !write && orig == 0 && ctx != noCtx && s.reliab.fresh.contains line
    let s1 := if ctx == noCtx || orig == 2 then s else s.touch line
    if !s1.arrayMatters ctx line then s1
    else if (s1.chanOf (chanNo line)).failed then if write then s1.listPoison line else s1
    else if must then s1.arrayAccess ctx line orig
    else if Config.freeBool s1.tick then
      let s2 := if write && whole then s1.nextTick else s1.nextTick.arrayAccess ctx line orig
      if write then s2.arrayWrite ctx line else s2
    else if write then s1.nextTick.keepStore ctx orig whole line
    else s1.nextTick

/-- The line is one of those that some bytes cover whole. -/
def coversLine (pa n line : Nat) : Bool := decide (pa ≤ 64 * line ∧ 64 * line + 64 ≤ pa + n)

/-- `reachLine` for every line of some bytes. -/
def State.reachBytes (s : State) (ctx orig : Nat) (write : Bool) (pa n : Nat) : State :=
  (linesOf pa n).foldl (fun s l => s.reachLine ctx orig write (coversLine pa n l) l) s

/-- `reachLine` for every line of the pieces of an access. -/
def State.reachParts (s : State) (ctx orig : Nat) (write : Bool) : List Part → State
  | [] => s
  | p :: t => (s.reachBytes ctx orig write p.pa p.len).reachParts ctx orig write t

end Sys2Proof.Machine
end

