-- ==== Sys2Proof/Machine/Access.lean ====
section
/-! DEFINITION. Memory operations of an agent: checks first, then remote accesses, then the local ones (15 R317, R318,
R324, 26 R497). -/
namespace Sys2Proof.Machine

/-! ## Stopping short of completion -/

/-- Why an instruction, or a step of another agent, does not complete now. -/
inductive Stop where
  /-- A precise cause of 22 Table 22.1, with TVAL, SUB, and whether a remote device reported it (R435). -/
  | trap (cause : Nat) (tval : Word) (sub : Nat) (remote : Bool)
  /-- POISON (R159, R318). -/
  | poison
  /-- MCHECK. -/
  | mcheck
  /-- It waits, with nothing performed, and is tried again: a page under migration (R279), a remote answer (R497). -/
  | stall
  /-- It waits at an instruction boundary for lanes (R72). -/
  | lanes
  /-- It waits at an instruction boundary for what it has read at another device to change. -/
  | poll
  /-- It parks (R347, R415), with its address. -/
  | park (key : ParkKey) (cond : ParkCond) (va : Nat)
  /-- The state is final as it stands: an error met on the way has ended the acting context. -/
  | ended
  deriving DecidableEq, Repr

/-- A computation over the package that may stop short. -/
abbrev M := ExceptT Stop (StateM State)

/-- A computation of an agent that is no sequencer, from the state where it acts. -/
def State.attempt {α : Type} (s : State) (m : M α) : Except Stop α × State := m { s with rix := 0 }

/-- A precise cause. -/
def raise {α : Type} (cause : Nat) (tval : Word) : M α := throw (.trap cause tval 0 false)

/-- How a check of an access that fails ends: a walk through poison has no precise cause (R436, R471). -/
def Stop.check (cause : Nat) (tval : Word) : Stop := if cause = causePoison then .poison else .trap cause tval 0 false

/-- Ends with a check that has failed. -/
def failCheck {α : Type} (cause : Nat) (tval : Word) : M α := throw (.check cause tval)

/-! ## Who accesses -/

/-- The agent of an access, its context, the level of its checks (R519), and ORIG of the error records it may cause. -/
structure Who where
  agent : Agent
  ctx : Nat
  level : Level
  orig : Nat
  deriving DecidableEq, Repr

/-- The acting sequencer. -/
def State.me (s : State) : Who :=
  { agent := .seq s.hart.core s.hart.sq, ctx := s.hart.ctx, level := s.hart.level, orig := 0 }

/-! ## Operations -/

/-- 15 Table 15.6: the new value of an atomic on n bytes. -/
def amoNew (fn n old b c : Nat) : Nat :=
  match fn with
  | 0 => b
  | 1 => if old = c then b else old
  | 2 => (old + b) % 2 ^ (8 * n)
  | 3 => old &&& b
  | 4 => old ||| b
  | 5 => old ^^^ b
  | 6 => if sint (8 * n) old ≤ sint (8 * n) b then old else b
  | 7 => if sint (8 * n) b ≤ sint (8 * n) old then old else b
  | 8 => min old b
  | _ => max old b

/-- What an operation does to its bytes. -/
inductive Act where
  | load
  | store (bs : List Byte)
  | amo (fn b c : Nat)
  | add (v ins : Nat)
  deriving DecidableEq, Repr

/-- One access of n bytes: alignment asked for, whether a poisoned byte raises POISON (R318), ORD and SCOPE codes. -/
structure MemOp where
  va : Int
  n : Nat
  align : Bool
  strict : Bool
  act : Act
  ord : Nat
  scope : Nat
  deriving DecidableEq, Repr

/-- The right that an operation needs (R274). -/
def Act.right : Act → Right
  | .load => .load
  | _ => .store

/-- The operation writes. -/
def Act.writes : Act → Bool
  | .load => false
  | _ => true

/-- The operation reads its bytes, so that poison is consumed (R318). -/
def Act.reads : Act → Bool
  | .store _ => false
  | _ => true

/-- Walks of the pages that some operations touch, once each. -/
def State.walksFor (s : State) (ctx : Nat) : List MemOp → Walks → Walks
  | [], ws => ws
  | o :: t, ws =>
    let p := o.va.toNat / 16384
    if o.va < 0 || ws.any (fun x => x.1 == p) then s.walksFor ctx t ws
    else s.walksFor ctx t ((p, s.walk ctx (p * 16384)) :: ws)

/-- The checks of one operation. -/
def State.checkOp (s : State) (ws : Walks) (w : Who) (o : MemOp) : Except (Nat × Word) (List Part) :=
  s.checkAccessIn ws w.ctx w.level o.act.right o.align true o.va o.n

/-- The checks of operations in turn; the first that fails is reported with its index (R317). -/
def State.checkOps (s : State) (ws : Walks) (w : Who) :
    List MemOp → Nat → Except (Nat × Nat × Word) (List (MemOp × List Part))
  | [], _ => .ok []
  | o :: t, i =>
    match s.checkOp ws w o with
    | .error (c, v) => .error (i, c, v)
    | .ok ps =>
      match s.checkOps ws w t (i + 1) with
      | .error e => .error e
      | .ok l => .ok ((o, ps) :: l)

/-- The first operation that fails a check: its index, cause and TVAL. -/
def State.firstFail (s : State) (w : Who) (ops : List MemOp) : Option (Nat × Nat × Word) :=
  match s.checkOps (s.walksFor w.ctx ops []) w ops 0 with
  | .error e => some e
  | .ok _ => none

/-! ## Remote accesses -/

/-- The part lies in a fabric window. -/
def Part.isRemote (p : Part) : Bool :=
  match homeOf p.pa with
  | .fabric _ => true
  | _ => false

/-- The agent's remote accesses, in order. -/
def State.remotesOf (s : State) (a : Agent) : List Remote := s.remotes.filter fun r => r.agent == a

/-- The answer of the agent's next remote access, or its sending. POISON in the answer stops a strict access; another one
receives its bytes as poisoned (R318) (DEDUCED, log 27). -/
def remoteOne (w : Who) (va : Nat) (wantsRsp strict : Bool) (p : Packet) : M (List Byte × Bool) := do
  let s ← get
  match (s.remotesOf w.agent)[s.rix]? with
  | some r =>
    match r.answer with
    | none => throw .stall
    | some (stat, bs) =>
      if stat = 0 then
        set { s with rix := s.rix + 1 }
        return (bs, false)
      else if stat = causePoison then
        if strict then throw .poison
        set { s with rix := s.rix + 1 }
        return (bs, true)
      else if stat = causeMcheck then throw .mcheck
      else throw (.trap stat (BitVec.ofNat 64 va) 0 true)
  | none =>
    if s.fabric.unreach.contains p.dst then throw .mcheck
    else
      match s.sendRequest w.agent wantsRsp p with
      | none => throw .stall
      | some s' =>
        set s'
        throw .stall

/-- Cuts n bytes at va into naturally aligned pieces of 8, 4, 2 or 1 bytes. -/
def pow2Pieces : Nat → Nat → Nat → List (Nat × Nat)
  | 0, _, _ => []
  | fuel + 1, va, n =>
    if n = 0 then []
    else
      let k := if va % 8 = 0 ∧ 8 ≤ n then 8 else if va % 4 = 0 ∧ 4 ≤ n then 4 else if va % 2 = 0 ∧ 2 ≤ n then 2 else 1
      (va, k) :: pow2Pieces fuel (va + k) (n - k)

/-- The pieces that the packets of a load of n bytes ask for: RD gives no other length than its element size, so an access
that is no element is cut into aligned ones (DESIGN CHOICE, log 64). -/
def loadPieces (pa n : Nat) : List (Nat × Nat) :=
  if n = 1 ∨ n = 2 ∨ n = 4 ∨ n = 8 then [(pa, n)] else pow2Pieces n pa n

/-- The pieces that the packets of a store carry: up to 256 bytes each, so that a WR is all of a shorter store of a page
(DESIGN CHOICE, log 64). -/
def storePieces : Nat → Nat → Nat → List (Nat × Nat)
  | 0, _, _ => []
  | fuel + 1, pa, n =>
    if n = 0 then [] else (pa, min n 256) :: storePieces fuel (pa + min n 256) (n - min n 256)

/-- log2 of 1, 2, 4 or 8. -/
def sizeCode (n : Nat) : Nat := if n = 1 then 0 else if n = 2 then 1 else if n = 4 then 2 else 3

/-- The packet of one remote piece (26 Table 26.2), its class by 26 Table 26.3 (DEDUCED, log 42). -/
def State.remotePacket (s : State) (pa : Nat) (type op ord scope ordk : Nat) (opnd : Word) (payload : List Byte) : Packet :=
  let win := (pa - 0x8000000000000) / 0x80000000000
  let tc := if ord != 0 || ordk == 1 || type == pktAt || type == pktSa then 0 else 1
  { type, tc, src := s.fabric.devNum, dst := wbits (s.winOf win).1 48 10, seq := 0, op, scope
    ord := if ord = 4 then 3 else ord, win, route := 0, off := (pa - 0x8000000000000) % 0x80000000000, opnd, rack := 0
    stat := 0, payload }

/-- A remote access to make: its address, whether it waits for a response, the bytes that it gives, its packet. -/
structure Request where
  va : Nat
  wantsRsp : Bool
  bytes : Nat
  pkt : Packet
  deriving DecidableEq, Repr

/-- The bytes of a store's piece, from one place of its bytes on. -/
def payloadAt (bs : List Byte) (o n : Nat) : List Byte := (bs.drop o).take n

/-- The remote accesses of a part of an operation, at byte offset `o` of the operation. -/
def State.requestsOf (s : State) (op : MemOp) (o : Nat) (p : Part) : List Request :=
  match op.act with
  | .load =>
    (loadPieces p.pa p.len).map fun x =>
      ⟨p.va + (x.1 - p.pa), true, x.2, s.remotePacket x.1 pktRd (sizeCode x.2) op.ord op.scope p.ordk 0 []⟩
  | .store bs =>
    (storePieces p.len p.pa p.len).map fun x =>
      ⟨p.va + (x.1 - p.pa), false, 0,
        s.remotePacket x.1 pktWr (sizeCode op.n) op.ord op.scope p.ordk 0 (payloadAt bs (o + (x.1 - p.pa)) x.2)⟩
  | .amo fn b c =>
    [⟨p.va, true, op.n, s.remotePacket p.pa pktAt (sizeCode op.n * 64 + fn) op.ord op.scope p.ordk (BitVec.ofNat 64 b)
      (if fn = 1 then toBytes c 8 else [])⟩]
  | .add v _ =>
    [⟨p.va, false, 0, s.remotePacket p.pa pktSadd (sizeCode op.n) op.ord op.scope p.ordk (BitVec.ofNat 64 v) []⟩]

/-- The answers of some remote accesses in order, each sent when it is not yet. -/
def remoteAll (w : Who) (strict : Bool) : List Request → M (List Byte × Bool)
  | [] => pure ([], false)
  | r :: t => do
    let x ← remoteOne w r.va r.wantsRsp strict r.pkt
    let rest ← remoteAll w strict t
    return (x.1.take r.bytes ++ List.replicate (r.bytes - x.1.length) 0 ++ rest.1, x.2 || rest.2)

/-- The remote part of an operation, at byte offset `o` of the operation; its old or loaded bytes. -/
def remotePart (w : Who) (op : MemOp) (o : Nat) (p : Part) : M (List Byte × Bool) := do
  let s ← get
  remoteAll w (op.strict || op.act != .load) (s.requestsOf op o p)

/-- The bytes that a request reaches at its destination. -/
def Request.len (r : Request) : Nat := max r.bytes r.pkt.payload.length

/-- Two requests of one instruction may write the same byte of their destination, and no window keeps their order (R326, R494). -/
def Request.meets (a b : Request) : Bool :=
  (a.pkt.type == pktWr || b.pkt.type == pktWr) && a.pkt.dst == b.pkt.dst && !(a.pkt.tc == 0 && b.pkt.tc == 0)
    && (a.pkt.win != b.pkt.win || decide (a.pkt.off < b.pkt.off + b.len ∧ b.pkt.off < a.pkt.off + a.len))

/-- Sends requests as far as the windows take them, after some of the same instruction that have no answer yet: one is held behind
those that it must follow (R494); none follows one to an unreachable device. -/
def sendAhead (w : Who) : List Request → List Request → M Unit
  | _, [] => pure ()
  | ahead, r :: t => do
    let s ← get
    if s.fabric.unreach.contains r.pkt.dst then pure ()
    else if ahead.any fun a => a.meets r then throw .stall
    else
      match s.sendRequest w.agent r.wantsRsp r.pkt with
      | none => throw .stall
      | some s' =>
        set s'
        sendAhead w (ahead ++ [r]) t

/-- The remote parts of one operation. -/
def remoteParts (w : Who) (op : MemOp) : Nat → List Part → M (List (List Byte × Bool))
  | _, [] => pure []
  | o, p :: t => do
    let r ← if p.isRemote then remotePart w op o p else pure ([], false)
    let rest ← remoteParts w op (o + p.len) t
    return r :: rest

/-- The remote parts of every operation, in order. -/
def remotePass (w : Who) : List (MemOp × List Part) → M (List (List (List Byte × Bool)))
  | [] => pure []
  | (op, ps) :: t => do
    let r ← remoteParts w op 0 ps
    let rest ← remotePass w t
    return r :: rest

/-! ## Local accesses -/

/-- The bytes that the parts of an operation hold, remote parts as answered. -/
def State.gather (s : State) : List Part → List (List Byte × Bool) → List Byte
  | [], _ => []
  | p :: t, rs => (if p.isRemote then (rs.headD ([], false)).1 else s.readPhys p.pa p.len) ++ s.gather t rs.tail

/-- Writes the local parts of an operation. -/
def State.scatter (s : State) : List Part → List Byte → State
  | [], _ => s
  | p :: t, bs => (if p.isRemote then s else s.writePhys p.pa (bs.take p.len)).scatter t (bs.drop p.len)

/-- One operation on its parts: the old or loaded bytes and the state after. -/
def State.doOp (s : State) (op : MemOp) (ps : List Part) (rs : List (List Byte × Bool)) : List Byte × State :=
  match op.act with
  | .load => (s.gather ps rs, s)
  | .store bs => ([], s.scatter ps bs)
  | .amo fn b c =>
    let old := s.gather ps rs
    (old, s.scatter ps (toBytes (amoNew fn op.n (ofBytes old) b c) op.n))
  | .add v ins =>
    match ps with
    | [p] =>
      if p.isRemote then ([], s)
      else ([], { s with adds := s.adds ++
        [{ core := s.hart.core, sq := s.hart.sq, ctx := s.hart.ctx, pc := s.hart.pc, ins, pa := p.pa, bytes := op.n, val := BitVec.ofNat 64 v }] })
    | _ => ([], s)

/-- Every operation in order: results with their poison, and the state after. -/
def State.localPass (s : State) : List (MemOp × List Part) → List (List (List Byte × Bool)) → List (List Byte × Bool) × State
  | [], _ => ([], s)
  | (op, ps) :: t, rs =>
    let pois := (ps.any fun p => !p.isRemote && s.poisoned p.pa p.len) || (rs.headD []).any (·.2)
    let (bs, s1) := s.doOp op ps (rs.headD [])
    let (rest, s2) := s1.localPass t rs.tail
    ((bs, pois) :: rest, s2)

/-- The local physical extents that some operations store to. -/
def storeExtents (l : List (MemOp × List Part)) : List (Nat × Nat) :=
  l.flatMap fun x =>
    match x.1.act with
    | .store _ => x.2.filterMap fun p => if p.isRemote then none else some (p.pa, p.len)
    | _ => []

/-- Byte b of a line lies in one of some extents. -/
def inExtents (l : List (Nat × Nat)) (a : Nat) : Bool := l.any fun e => decide (e.1 ≤ a ∧ a < e.1 + e.2)

/-- Lines that the stores of one instruction cover whole lose their poison (R318). -/
def State.cleanLines (s : State) (exts : List (Nat × Nat)) : State :=
  if s.lineMeta.isEmpty then s
  else
    (exts.flatMap fun e => linesOf e.1 e.2).foldl (fun s l =>
      if (s.metaOf l).pois && ((List.range 64).all fun k => inExtents exts (64 * l + k)) then s.setPois l false else s) s

/-- Pending additions of the agent, when it is a sequencer. -/
def State.drainFor (s : State) (w : Who) : State :=
  match w.agent with
  | .seq c q => s.drainAdds c q
  | _ => s

/-- A step ends when the context that it acts for has ended since a state on its way. -/
def unlessEnded (s0 : State) (ctx : Nat) : M Unit := do
  let s ← get
  if (s.ctxOf ctx).ended && !(s0.ctxOf ctx).ended then throw .ended

/-- An agent's pending additions are performed before what follows: nothing does when one of them ends its context (R436). -/
def drainFirst (w : Who) : M Unit := do
  let s ← get
  set (s.drainFor w)
  unlessEnded s w.ctx

/-- The pending additions of the acting sequencer are performed (R286, R333). -/
def drainOwn : M Unit := do
  let s ← get
  drainFirst s.me

/-- A and D set by every operation. -/
def State.markOps (s : State) : List (MemOp × List Part) → State
  | [] => s
  | (o, ps) :: t => (s.markParts o.act.writes ps).markOps t

/-- The host memory that operations reach is asked for (R503). -/
def State.askOps (s : State) (w : Who) (l : List (MemOp × List Part)) : State :=
  { s with out := s.out ++ l.flatMap fun x => hostAsks (s.ctxOf w.ctx).tenant x.1.act.writes x.2 }

/-- The lines of every operation met on their way (R509). -/
def State.reachOps (s : State) (w : Who) : List (MemOp × List Part) → State
  | [] => s
  | (o, ps) :: t => (s.reachParts w.ctx w.orig o.act.writes ps).reachOps w t

/-- The operations on their local pieces, with the answers of the remote ones: what they read, the lines that they cover
whole, the tickets of `.sc` events (R306). -/
def finishOps (l : List (MemOp × List Part)) (rs : List (List (List Byte × Bool))) : M (List (List Byte × Bool)) := do
  let s ← get
  if l.any fun x => x.1.strict && x.1.act.reads && x.2.any fun p => !p.isRemote && s.poisoned p.pa p.len then throw .poison
  let (res, s3) := s.localPass l rs
  let s4 := s3.cleanLines (storeExtents l)
  set { s4 with ticket := s4.ticket + (l.filter fun (x : MemOp × List Part) => x.1.ord == 4).length }
  return res

/-- An operation has a piece in a fabric window. -/
def anyRemote (l : List (MemOp × List Part)) : Bool := l.any fun x => x.2.any Part.isRemote

/-- Every operation stores. -/
def allStores (l : List (MemOp × List Part)) : Bool := l.all fun x => x.1.act.writes && !x.1.act.reads

/-- The remote pieces of some stores, each with its bytes. -/
def remoteStores (l : List (MemOp × List Part)) : List (MemOp × Part × List Byte) :=
  l.flatMap fun x =>
    match x.1.act with
    | .store bs =>
      (x.2.zipIdx.filter fun p => p.1.isRemote).map fun p =>
        (x.1, p.1, payloadAt bs ((x.2.take p.2).map (·.len)).sum p.1.len)
    | _ => []

/-- The piece holds a byte. -/
def Part.has (p : Part) (a : Nat) : Bool := decide (p.pa ≤ a ∧ a < p.pa + p.len)

/-- The bytes that some stores leave in a line that they cover whole: the last one counts (R326). -/
def lineOfStores (xs : List (MemOp × Part × List Byte)) (line : Nat) : List Byte :=
  (List.range 64).map fun k =>
    match xs.reverse.find? fun x => x.2.1.has (64 * line + k) with
    | some x => x.2.2.getD (64 * line + k - x.2.1.pa) 0
    | none => 0

/-- The requests of the stores of one instruction: a line that they cover whole goes as one WR, which leaves it unpoisoned
(R318); what else they write goes as it is cut. -/
def State.storeRequests (s : State) (l : List (MemOp × List Part)) : List Request :=
  let xs := remoteStores l
  let exts := xs.map fun x => (x.2.1.pa, x.2.1.len)
  let full (n : Nat) : Bool := (List.range 64).all fun k => inExtents exts (64 * n + k)
  let req (op : MemOp) (p : Part) (pa : Nat) (bs : List Byte) : Request :=
    ⟨p.va + (pa - p.pa), false, 0, s.remotePacket pa pktWr (sizeCode op.n) op.ord op.scope p.ordk 0 bs⟩
  let own := xs.flatMap fun x =>
    let p := x.2.1
    let pieces :=
      if (linesOf p.pa p.len).any full then
        ((linesOf p.pa p.len).filter fun n => !full n).map fun n =>
          (max p.pa (64 * n), min (p.pa + p.len) (64 * n + 64) - max p.pa (64 * n))
      else storePieces p.len p.pa p.len
    pieces.map fun y => req x.1 p y.1 (payloadAt x.2.2 (y.1 - p.pa) y.2)
  let lines := ((xs.flatMap fun x => linesOf x.2.1.pa x.2.1.len).filter full).eraseDups
  own ++ lines.filterMap fun n =>
    (xs.find? fun x => x.2.1.has (64 * n)).map fun x => req x.1 x.2.1 (64 * n) (lineOfStores xs n)

/-- The remote accesses of some operations, in order. -/
def State.requestsFor (s : State) (l : List (MemOp × List Part)) : List Request :=
  if allStores l then s.storeRequests l
  else l.flatMap fun x =>
    (x.2.zipIdx.filter fun p => p.1.isRemote).flatMap fun p =>
      s.requestsOf x.1 ((x.2.take p.2).map (·.len)).sum p.1

/-- An access that waits for another device has a piece still to perform in a physical range. -/
def State.flightIn (s : State) (pa size : Nat) : Bool :=
  s.flights.any fun f => !f.fin && f.parts.any fun ps => ps.any fun p => decide (p.pa < pa + size ∧ pa < p.pa + p.len)

/-- The operations are performed one piece at a time, in order: `.sc` events (R306, R330), or pieces that all lie on
strongly ordered pages (R294). -/
def inTurn (l : List (MemOp × List Part)) : Bool :=
  l.any fun x => x.1.ord == 4 || (decide (1 < x.2.length) && x.2.all fun p => p.ordk == 1)

/-- The pieces of some operations as operations of one piece each. -/
def unitsOf (l : List (MemOp × List Part)) : List (MemOp × Part) :=
  l.flatMap fun x =>
    match x.2 with
    | [p] => [(x.1, p)]
    | ps => ps.zipIdx.map fun p =>
      ({ x.1 with
          va := p.1.va, n := p.1.len
          act := match x.1.act with
            | .store bs => .store (payloadAt bs ((ps.take p.2).map (·.len)).sum p.1.len)
            | a => a }, p.1)

/-- Two flights are of the same accesses: of one agent, from the same index on, at the same addresses. -/
def Flight.same (f g : Flight) : Bool := g.agent == f.agent && g.start == f.start && g.vas == f.vas

/-- A change of a flight. -/
def State.setFlight (s : State) (f : Flight) (g : Flight → Flight) : State :=
  { s with flights := s.flights.map fun x => if f.same x then g x else x }

/-- The flight of some operations of an agent, from its next remote access on. -/
def State.flightOf (s : State) (a : Agent) (ops : List MemOp) : Option Flight :=
  s.flights.find? fun f => f.agent == a && f.start == s.rix && f.vas == ops.map (·.va)

/-- The pieces of some operations performed one after the other; the flight holds the results so far. -/
def unitsInTurn (w : Who) (f : Flight) : List (MemOp × Part) → M Unit
  | [] => pure ()
  | (op, p) :: t => do
    let r ← if p.isRemote then remotePart w op 0 p else pure ([], false)
    let res ← finishOps [(op, [p])] [[r]]
    modify fun (s : State) =>
      s.setFlight f fun x => { x with used := s.rix - f.start, res := x.res ++ res }
    unitsInTurn w f t

/-- The results of operations from those of their pieces. -/
def joinResults : List (List Part) → List (List Byte × Bool) → List (List Byte × Bool)
  | [], _ => []
  | ps :: t, rs =>
    let own := rs.take ps.length
    (own.flatMap (·.1), own.any (·.2)) :: joinResults t (rs.drop ps.length)

/-- Operations that have passed their checks and reach other devices: every request is sent, then the answers are taken in
order, then the local pieces follow; or piece after piece (R306, R294). -/
def flyOps (w : Who) (l : List (MemOp × List Part)) (f : Flight) : M (List (List Byte × Bool)) := do
  modify fun (s : State) => { s with rix := f.start + f.used }
  if f.fin then return f.res
  let res ← if inTurn l then do
      unitsInTurn w f ((unitsOf l).drop f.res.length)
      let s ← get
      let rs := ((s.flights.find? f.same).map (·.res)).getD []
      modify fun (s : State) => s.cleanLines (storeExtents l)
      pure (joinResults (l.map (·.2)) rs)
    else do
      let s ← get
      let reqs := s.requestsFor l
      let mine := (s.remotesOf w.agent).drop s.rix
      sendAhead w (((reqs.zip mine).filter fun x => x.2.answer.isNone).map (·.1)) (reqs.drop mine.length)
      let s ← get
      if ((s.remotesOf w.agent).drop s.rix).any fun r => r.answer.isNone then throw .stall
      let rs ← if allStores l then do
          let _ ← remoteAll w true reqs
          pure (l.map fun x => x.2.map fun _ => ([], false))
        else remotePass w l
      finishOps l rs
  modify fun (s : State) => s.setFlight f fun x => { x with used := s.rix - x.start, res, fin := true }
  return res

/-- Some operations of one instruction: all checks, or none of the accesses (R324). The results are the loaded or old
bytes of each, and whether one of its bytes lies in a poisoned line (DESIGN CHOICE, log 11). Accesses that wait for other
devices keep the translation that they were checked with (R303). -/
def perform (w : Who) (ops : List MemOp) : M (List (List Byte × Bool)) := do
  let s0 ← get
  match s0.flightOf w.agent ops with
  | some f => flyOps w (ops.zip f.parts) f
  | none =>
    match s0.checkOps (s0.walksFor w.ctx ops []) w ops 0 with
    | .error (_, c, v) => failCheck c v
    | .ok l =>
      if l.any fun x => x.1.act.writes && x.2.any fun p => p.mig then throw .stall
      let s1 := (((s0.drainFor w).markOps l).reachOps w l).askOps w l
      set s1
      if (s1.ctxOf w.ctx).ended && !(s0.ctxOf w.ctx).ended then throw .ended
      if anyRemote l then do
        let f : Flight :=
          { agent := w.agent, start := s1.rix, vas := ops.map (·.va), parts := l.map (·.2), used := 0, res := [], fin := false }
        set { s1 with flights := s1.flights ++ [f] }
        flyOps w l f
      else finishOps l (l.map fun x => x.2.map fun _ => ([], false))

/-- The piece of an access that passes its checks once: it is kept while the access waits for another device (R303). -/
def checkedOnce (w : Who) (va : Int) (check : M Part) : M Part := do
  let s ← get
  let f : Flight := { agent := w.agent, start := s.rix, vas := [va], parts := [], used := 0, res := [], fin := false }
  match (s.flights.find? f.same).bind fun x => x.parts.flatten.head? with
  | some p => return p
  | none =>
    let p ← check
    if p.isRemote then modify fun (s : State) => { s with flights := s.flights ++ [{ f with parts := [[p]] }] }
    return p

/-- A plain operation of the acting agent. -/
def plainOp (va : Int) (n : Nat) (act : Act) : MemOp :=
  { va, n, align := false, strict := true, act, ord := 0, scope := 1 }

/-- The line of an address in an agent's context takes poison. -/
def State.poisonVa (s : State) (w : Who) (va : Nat) : State :=
  match s.checkPart [] w.ctx w.level .store va 1 with
  | .ok p => s.setPois (lineOf p.pa) true
  | .error _ => s

/-- A whole line is stored with poison (R375). To another device the WR carries it: STAT holds the code of POISON (DEDUCED, log
31). -/
def storePoisoned (w : Who) (va : Nat) (bs : List Byte) : M Unit := do
  let s ← get
  match s.checkPart [] w.ctx w.level .store va 1 with
  | .ok q =>
    if q.isRemote then do
      let p ← checkedOnce w va do
        match s.checkAccess w.ctx w.level .store false true va bs.length with
        | .error (c, v) => failCheck c v
        | .ok ps =>
          if ps.any fun p => p.mig then throw .stall
          set (s.markParts true ps)
          return q
      let t ← get
      let _ ← remoteOne w va false true { t.remotePacket p.pa pktWr 0 0 1 p.ordk 0 bs with stat := causePoison }
    else do
      let _ ← perform w [{ va, n := bs.length, align := false, strict := true, act := .store bs, ord := 0, scope := 1 }]
      modify fun (t : State) => t.poisonVa w va
  | .error (c, v) => failCheck c v

/-- mem.load of n bytes as one access. -/
def loadBytes (w : Who) (va : Int) (n : Nat) : M (List Byte) := do
  let r ← perform w [plainOp va n .load]
  return (r.headD ([], false)).1

/-- mem.store of some bytes as one access. -/
def storeBytes (w : Who) (va : Int) (bs : List Byte) : M Unit := do
  let _ ← perform w [plainOp va bs.length (.store bs)]

end Sys2Proof.Machine
end

