-- ==== Sys2Proof/Machine/Ops.lean ====
section
/-! DEFINITION. The named operations of a sequencer: registers, the loop-end step, taking a trap and returning from one,
and how an instruction's computation becomes an outcome. -/
namespace Sys2Proof.Machine

/-- The outcome of a step. -/
abbrev Res := Host.Outcome State Fault Refusal

/-! ## Scalar registers -/

/-- GR(r): g0 reads 0 (03 Table 3.2). -/
def Hart.rg (h : Hart) (r : BitVec 5) : Word := if r = 0 then 0 else h.g[r.toNat]'r.isLt

/-- GR(r) of the acting sequencer. -/
def State.rg (s : State) (r : BitVec 5) : Word := s.hart.rg r

/-- A sequencer with GR(r) written: g0 ignores writes (03 Table 3.2). -/
def Hart.setG (h : Hart) (r : BitVec 5) (v : Word) : Hart :=
  if r = 0 then h else { h with g := h.g.set r.toNat v r.isLt }

/-- The state with GR(r) of the acting sequencer written. -/
def State.setG (s : State) (r : BitVec 5) (v : Word) : State := { s with hart := s.hart.setG r v }

/-- The state with the PC of the acting sequencer replaced. -/
def State.setPc (s : State) (pc : Word) : State := { s with hart := { s.hart with pc } }

/-- The state with the acting sequencer's vector side replaced. -/
def State.setVec (s : State) (v : Vec) : State := { s with hart := { s.hart with vec := v } }

/-! ## The loop stack -/

/-- The loop-end step at address q (R149): the stack after, the next PC, and whether an iteration starts over. -/
def loopEnd (handling : Bool) (q : Word) : List Loop → List Loop × Word × Bool
  | [] => ([], q + 8, false)
  | e :: t =>
    if e.last.setWidth 64 = q ∧ e.h = handling then
      if e.index.toNat + 1 < e.count.toNat then ({ e with index := e.index + 1 } :: t, e.first.setWidth 64, true)
      else loopEnd handling q t
    else (e :: t, q + 8, false)

/-- An instruction that is no transfer of control completes at its address (R149). -/
def Hart.advance (h : Hart) : Hart :=
  let r := loopEnd h.handling h.pc h.loops
  { h with loops := r.1, pc := r.2.1, atPoint := r.2.2, waiting := false, mayYield := false, skipBp := false }

/-- The acting sequencer's instruction completes (R149). -/
def State.advance (s : State) : State := { s with hart := s.hart.advance }

/-- The acting sequencer goes to an address by a transfer of control; `back` marks a landing point (R437). -/
def State.jump (s : State) (pc : Word) (back : Bool) : State :=
  { s with hart := { s.hart with pc, atPoint := back, waiting := false, mayYield := false, skipBp := false } }

/-- R150: a transfer of control stands at the last address of the innermost loop body. -/
def Hart.atLoopEnd (h : Hart) : Bool :=
  match h.loops with
  | [] => false
  | e :: _ => e.h == h.handling && e.last.setWidth 64 == h.pc

/-! ## Traps -/

/-- A cause to deliver: its code of 22 Table 22.1, SUB, VEC and DAS of CAUSE, EPC and TVAL. -/
structure Cause where
  code : Nat
  sub : Nat
  vec : Bool
  das : Bool
  epc : Word
  tval : Word
  deriving DecidableEq, Repr

/-- ILLEGAL. -/
def causeIllegal : Nat := 1
/-- RSVD_FIELD. -/
def causeRsvd : Nat := 2
/-- UNIMPL_COMBO. -/
def causeUnimpl : Nat := 3
/-- UNIT_ABSENT. -/
def causeAbsent : Nat := 4
/-- BRKPT. -/
def causeBrkpt : Nat := 15
/-- TRAPI. -/
def causeTrapi : Nat := 16

/-- CAUSE with CODE, SUB, VEC, DAS, PLEV, and HND as given (22 Table 22.2); SKIP is clear (DEDUCED, log 19). -/
def Cause.word (c : Cause) (plev : Level) (hnd : Bool) : Word :=
  BitVec.ofNat 64 (bit c.das * 2 ^ 62 + bit c.vec * 2 ^ 61 + bit (plev == .supervisor) * 2 ^ 60 + bit hnd * 2 ^ 58
    + c.sub % 65536 * 2 ^ 32 + c.code)

/-- CAUSE as a block of an instance that a breakpoint has halted holds it: CODE, SUB and SKIP = 1 (R446). VEC and PLEV, which
the rule does not give, are free values (DESIGN CHOICE, log 17). -/
def Cause.haltWord (c : Cause) (free : Word) : Word :=
  BitVec.ofNat 64 (free.toNat % 4 * 2 ^ 60 + 2 ^ 59 + c.sub % 65536 * 2 ^ 32 + c.code)

/-- R446: a breakpoint halts the acting instance at `pc`. -/
def State.haltAt (s : State) (c : Cause) (pc : Word) : State :=
  s.nextTick.land s.hart.core s.hart.sq true false pc (c.haltWord s.freeWord)

/-- TVEC.BASE (22 Table 22.3). -/
def Hart.tvecBase (h : Hart) : Word := BitVec.ofNat 64 (wbits h.tvec 3 54 * 8)

/-- Delivery of a trap to the handler (R430): CAUSE, EPC and TVAL are written, the level becomes supervisor, the PC goes to
TVEC.BASE. -/
def State.deliver (s : State) (c : Cause) : State :=
  { s with hart :=
    { s.hart with
      cause := c.word s.hart.level true
      epc := c.epc &&& 0xFFFFFFFFFFFFFFF8#64
      tval := c.tval
      level := .supervisor
      pc := s.hart.tvecBase
      waiting := false, atPoint := false, mayYield := false, skipBp := false, held := none } }

/-- R430, R431, R446: a precise trap of the acting sequencer is taken: delivered; or, while a trap is handled or without a
handler, the context ends; or a BRKPT without a handler halts the instance. -/
def State.takeTrap (s : State) (c : Cause) : State :=
  if s.hart.handling then
    s.endContext s.hart.ctx (c.word s.hart.level false) c.tval (some (s.hart.core, s.hart.sq, c.epc))
  else if s.hart.tvecBase = 0 then
    if c.code = causeBrkpt then
      s.haltAt c c.epc
    else s.endContext s.hart.ctx (c.word s.hart.level false) c.tval (some (s.hart.core, s.hart.sq, c.epc))
  else s.deliver c

/-- VEC of CAUSE for a word (R430). -/
def vecClass (w : Word) : Bool :=
  let op := opOf w
  (0x20 ≤ op && op ≤ 0x5F) || op == 0x61 || op == 0x62 || (0x70 ≤ op && op ≤ 0x7F) || op == 0x80 || op == 0x88
    || op == 0x92 || op == 0x9F

/-- R450 after its checks: entries with H = 1 are popped, the level becomes PLEV, HND is cleared, the PC is EPC; with
SKIP = 1 one breakpoint match is suppressed and SKIP cleared. -/
def State.returnFromTrap (s : State) : State :=
  let h := s.hart
  { s with hart :=
    { h with
      loops := h.loops.filter fun e => !e.h
      level := if bitOf h.cause.toNat 60 then .supervisor else .program
      cause := wset (wset h.cause 58 1 0) 59 1 0
      pc := h.epc
      skipBp := bitOf h.cause.toNat 59
      waiting := false, atPoint := true, mayYield := false } }

/-! ## The next instruction's wait (R77, R435) -/

/-- The acting sequencer as the agent of its fetches, whose remote answers are no answers of its instruction. -/
def State.fetcher (s : State) : Who := { s.me with agent := .fetch s.hart.core s.hart.sq }

/-- The address of the next instruction in program order. -/
def State.nextPc (s : State) : Word := (loopEnd s.hart.handling s.hart.pc s.hart.loops).2.1

/-- The pieces of the next instruction in program order, when the acting sequencer may fetch it. -/
def State.nextParts (s : State) : List Part :=
  match s.checkAccess s.hart.ctx s.hart.level .fetch false false s.nextPc.toNat 8 with
  | .error _ => []
  | .ok ps => ps

/-- The next instruction's word, when it can be read; one at another device as its answer gave it. -/
def State.peekWord (s : State) : Option Word :=
  match s.nextParts with
  | [] => none
  | ps =>
    if ps.any Part.isRemote then
      match s.remotesOf s.fetcher.agent with
      | [r] =>
        match r.answer with
        | some (0, bs) => some (BitVec.ofNat 64 (ofBytes bs))
        | _ => none
      | _ => none
    else some (BitVec.ofNat 64 (ofBytes (s.readParts ps)))

/-- The classes of vector memory instructions that `vwait` selects (R334): loads, stores, atomics and additions. -/
def waitClass (w : Word) : Nat :=
  let op := opOf w
  if 0x50 ≤ op && op ≤ 0x54 then 1 else if 0x58 ≤ op && op ≤ 0x5D then 2 else if op == 0x61 || op == 0x62 then 4 else 0

/-- The word is of a vector memory instruction. -/
def isVecMem (w : Word) : Bool := waitClass w != 0

/-- The word is of a column instruction. -/
def isColumn (w : Word) : Bool := 0x70 ≤ opOf w && opOf w ≤ 0x7D

/-- The vector registers that a memory or column instruction writes: from the first number, how many. -/
def vecWrites (w : Word) : Nat × Nat :=
  let op := opOf w
  if op == 0x53 then ((vmOf w).d.toNat, fnOf w % 8 + 1)
  else if (0x50 ≤ op && op ≤ 0x54) || op == 0x61 || op == 0x71 then ((vmOf w).d.toNat, 1)
  else (0, 0)

/-- The instruction writes VSTART: every vector memory instruction, `cld` and `cst` do (15 R324, 11 R256, R257). -/
def writesVstart (w : Word) : Bool := isVecMem w || opOf w == 0x71 || opOf w == 0x72

/-- The instruction writes VL: `vldff` (R325). -/
def writesVl (w : Word) : Bool := opOf w == 0x50 && (vmOf w).ff == 1

/-- The column registers that an instruction writes while it accesses memory. -/
def colWrites (w : Word) : List (BitVec 5) :=
  match decodeOp w with
  | .ok .cjoinInner | .ok .cgrp => [(clOf w).d, (clOf w).c]
  | .ok .cld => []
  | _ => if isColumn w && 0x72 ≤ opOf w && !(0x73 ≤ opOf w && opOf w ≤ 0x75) then [(clOf w).d] else []

/-- The column registers whose descriptors or rows an instruction reads, its destinations among them. -/
def colReads (w : Word) : List (BitVec 5) :=
  let f := clOf w
  match decodeOp w with
  | .ok o =>
    match o with
    | .clen | .cpend | .cld => [f.a]
    | .cst => [f.d]
    | .cselScalar | .caggCntWhole | .caggSumWhole | .caggMinWhole | .caggMaxWhole | .csort | .csortDesc | .cuniq | .ctopk
    | .ctopkMin => [f.d, f.a]
    | .cselColumn | .cprj | .cjoinSemi | .cjoinAnti | .caggCnt | .caggSum | .caggMin | .caggMax => [f.d, f.a, f.b]
    | .cselList => [f.d, f.a, f.c]
    | .cjoinInner => [f.d, f.c, f.a, f.b]
    | .cgrp => [f.d, f.c, f.a]
    | _ => []
  | .error _ => []

/-- The instruction `next` reads a column register that the instruction `fault` writes. -/
def colMeets (fault next : Word) : Bool := (colReads next).any fun c => (colWrites fault).contains c

/-- The instruction writes vector register n. -/
def writesVreg (w : Word) (n : Nat) : Bool := decide ((vecWrites w).1 ≤ n ∧ n < (vecWrites w).1 + (vecWrites w).2)

/-- A system register whose read or write waits for older memory accesses (R488, R510), or for vector state (R77). -/
def csrWaits (fault next : Word) : Bool :=
  let n := (syOf next).sreg.toNat
  let reads := fnOf next == 0
  (reads && ((n == 2 && writesVstart fault) || (n == 7 && (vecWrites fault).2 != 0) || (n == 0 && writesVl fault)))
    || (reads && 0x800 ≤ n && n < 0x880) || n == 0x8C0 || n == 0x8C1

/-- `setvl` would change the lane group or VLMAX (R72). -/
def State.setvlChanges (s : State) (avl : Nat) : Bool :=
  let h := s.hart
  if h.group.isNone then decide (0 < avl)
  else if h.pend then
    let c := s.coreOf h.core
    c.groupOf h.sq != h.group || c.g != h.part
      || vlmaxOf (c.groupOf h.sq).isSome c.g (regCount h.vec.nreg) h.tvl != h.vec.vlmax
  else vlmaxOf true h.part (regCount h.vec.nreg) h.tvl != h.vec.vlmax

/-- The instruction `next` makes the scalar side wait for the older instruction `fault`, judged at its values (R77): a point
waits for the results that it reads. `vmvx` reads its register; `mfirst`, `mpopc`, `cld` and `cst` read VL and VSTART;
`clen`, `cpend` and the column words read their column registers. No memory access writes a mask. A column word whose LREG is
g0 writes no scalar register and is no point; `vmvx`, `clen` and `cpend` with D = g0 are (DEDUCED, log 66). -/
def State.waitsFor (s : State) (fault next : Word) : Bool :=
  match decodeOp next with
  | .error _ => false
  | .ok o =>
    match o with
    | .vmvx => writesVreg fault (vvOf next).a.toNat
    | .mfirst | .mpopc => writesVl fault || writesVstart fault
    | .clen | .cpend => colMeets fault next
    | .cselScalar | .cselColumn | .cselList | .cprj | .cjoinInner | .cjoinSemi | .cjoinAnti | .cgrp
    | .caggCnt | .caggSum | .caggMin | .caggMax | .caggCntWhole | .caggSumWhole | .caggMinWhole | .caggMaxWhole
    | .csort | .csortDesc | .cuniq | .ctopk | .ctopkMin => (clOf next).lreg != 0 && colMeets fault next
    | .cld => (clOf next).lreg != 0 && (colMeets fault next || writesVl fault || writesVstart fault)
    | .cst =>
      (clOf next).lreg != 0
        && (colMeets fault next || writesVl fault || writesVstart fault || writesVreg fault (clOf next).a.toNat)
    | .setvl => s.setvlChanges (s.rg (vvOf next).a).toNat
    | .vcfg | .vsave | .vrest | .fence | .publ | .arrive | .exit | .rft => true
    | .csrr | .csrw | .csrs | .csrc => csrWaits fault next
    | .vwait =>
      let g := (s.rg (rrOf next).a).toNat
      !bitOf g 3 && (g % 8 &&& waitClass fault) != 0
    | .tenq | .launch => waitClass fault == 2
    | _ => false

/-- DAS of the cause depends on the next instruction (R435). -/
def dasAsks (w : Word) (cause : Nat) (remote : Bool) : Bool :=
  !remote && (isVecMem w || isColumn w) && decide (5 ≤ cause ∧ cause ≤ 11)

/-- DAS of R435 for a cause of the instruction word w of the acting sequencer (DEDUCED, log 16). -/
def State.dasOf (s : State) (w : Word) (cause : Nat) (remote : Bool) : Bool :=
  remote || (dasAsks w cause remote
    && (match s.peekWord with
        | none => true
        | some next => !s.waitsFor w next))

/-- The next instruction is read, where DAS asks for it and it lies at another device. -/
def awaitNext (w : Word) (cause : Nat) (remote : Bool) : M Unit := do
  let s ← get
  let ps := s.nextParts
  if dasAsks w cause remote && ps.any Part.isRemote then
    set { s with rix := 0 }
    try
      let _ ← remoteParts s.fetcher (plainOp s.nextPc.toNat 8 .load) 0 ps
    catch
      | .stall => throw .stall
      | _ => pure ()
    modify fun (t : State) => { t with rix := s.rix }

/-- The precise cause of an instruction word at the PC. -/
def State.causeOf (s : State) (w : Word) (code : Nat) (tval : Word) (sub : Nat) (remote : Bool) : Cause :=
  { code, sub, vec := vecClass w, das := s.dasOf w code remote, epc := s.hart.pc, tval }

/-- The instruction word w traps with a cause of Table 4.7 (R98): TVAL is the word. -/
def State.trapWord (s : State) (w : Word) (code : Nat) : State :=
  s.takeTrap { code, sub := 0, vec := vecClass w, das := false, epc := s.hart.pc, tval := w }

/-! ## From computations to outcomes -/

/-- The answers of an agent's remote accesses are done with. -/
def State.settle (s : State) (a : Agent) : State :=
  { s with
    remotes := s.remotes.filter fun r => r.agent != a, rix := 0, flights := s.flights.filter fun f => f.agent != a }

/-- The acting sequencer as an agent. -/
def State.agent (s : State) : Agent := .seq s.hart.core s.hart.sq

/-- The acting sequencer's instruction is over: no answer of it or of its fetches is used any more. -/
def State.endInstr (s : State) : State :=
  let s1 := (s.settle s.agent).settle s.fetcher.agent
  { s1 with hart := { s1.hart with held := none } }

/-- The acting sequencer waits for other devices. -/
def State.awaits (s : State) : Bool := s.remotes.any fun r => r.agent == s.agent || r.agent == s.fetcher.agent

/-- How an instruction w of the acting sequencer ends when it stops short: `s` is the state that it started in, `s'` the
one that it stopped in. One that waits for another device is held, and is not fetched again. -/
def State.stopShort (s : State) (w : Word) (st : Stop) (s' : State) : State :=
  match st with
  | .trap c v sub remote =>
    let t := { s' with hart := s.hart, rix := 0 }
    t.endInstr.takeTrap (t.causeOf w c v sub remote)
  | .poison => ({ s' with hart := s.hart }).endInstr.fatalHere causePoison s.hart.pc
  | .mcheck => ({ s' with hart := s.hart }).endInstr.fatalHere causeMcheck s.hart.pc
  | .stall =>
    { s' with
      hart := { s.hart with
        held := if s'.awaits then some w else none
        waiting := s.hart.waiting || (s'.remotesOf s.agent).any Remote.open }
      cores := s.cores, rix := 0 }
  | .poll => { s' with hart := { s'.hart with waiting := true, held := some w }, rix := 0 }
  | .lanes => { s' with hart := { s'.hart with waiting := true, held := none }, rix := 0 }
  | .park key cond va =>
    ({ s' with hart := { s'.hart with waiting := true, held := none } }).addPark s.hart.ctx
      { key, cond, agent := s.agent, va, page := 0, lim := BitVec.ofNat 64 (wbits s.hart.parklim 0 48), pkt := toBytes w.toNat 8 }
  | .ended => { s' with rix := 0 }

/-- An instruction of the acting sequencer, as a computation that ends with its own advance. -/
def State.run (s : State) (w : Word) (m : M Unit) : Res :=
  match m s with
  | (.ok _, s') => .next s'.endInstr
  | (.error (.trap c v sub remote), s') =>
    match awaitNext w c remote { s' with hart := s.hart, rix := 0 } with
    | (.error _, t) => .next (s.stopShort w .stall t)
    | (.ok _, t) => .next (s.stopShort w (.trap c v sub remote) t)
  | (.error st, s') => .next (s.stopShort w st s')

/-- A change of the state that cannot stop short. -/
def change (f : State → State) : M Unit := modify f

/-- The instruction completes. -/
def complete : M Unit := modify State.advance

end Sys2Proof.Machine
end

