-- ==== Sys2Proof/Machine/Flags.lean ====
section
/-! DEFINITION. Conditions. The device has no flags register (06); what a comparison code asks is 04 Table 4.5. -/
namespace Sys2Proof.Machine

/-- 04 Table 4.5 for integers given as signed (x, y) and natural (a, b) readings. The float codes 1010b and 1011b are
false and true, for no integer is a NaN; decoding refuses them. -/
def intCond (code : Nat) (x y : Int) (a b : Nat) : Bool :=
  match code with
  | 0 => decide (a = b)
  | 1 => decide (a ≠ b)
  | 2 => decide (x < y)
  | 3 => decide (y ≤ x)
  | 4 => decide (a < b)
  | 5 => decide (b ≤ a)
  | 6 => decide (x ≤ y)
  | 7 => decide (y < x)
  | 8 => decide (a ≤ b)
  | 9 => decide (b < a)
  | 10 => false
  | _ => true

/-- The condition of `bc` and `setc` between two scalar registers (R138). -/
def wordCond (cc : BitVec 3) (a b : Word) : Bool := intCond cc.toNat a.toInt b.toInt a.toNat b.toNat

end Sys2Proof.Machine
end

