-- ==== Sys2Proof/Machine/Operands.lean ====
section
/-! DEFINITION. Operand forms: immediates, offsets and the addresses they make (04 Table 4.1, 06 R135, 15 R315). -/
namespace Sys2Proof.Machine

/-- sext(IMM35, 35) as an integer (R135). -/
def RiF.simm (f : RiF) : Int := f.imm.toInt

/-- sext(IMM35, 35) as a 64-bit word. -/
def RiF.wimm (f : RiF) : Word := f.imm.signExtend 64

/-- The position of `bext` and `bins` (R136). -/
def RiF.pos (f : RiF) : Nat := f.imm.toNat % 64

/-- The length of `bext` and `bins` (R136). -/
def RiF.len (f : RiF) : Nat := f.imm.toNat / 64 % 128

/-- Target of a branch at `pc`: trunc(PC + 8 x sext(OFF35, 35), 64) (R141). -/
def branchTarget (pc : Word) (off : BitVec 35) : Word := pc + off.signExtend 64 <<< 3

/-- Address of a scalar access: GR(A) + sext(IMM35, 35), exact (R315, R321). -/
def State.riAddr (s : State) (f : RiF) : Int := ((s.rg f.a).toNat : Int) + f.imm.toInt

/-- Base of a VM access: GR(A) + sext(OFF16, 16), exact (R315, R323). -/
def State.vmAddr (s : State) (f : VmF) : Int := ((s.rg f.a).toNat : Int) + f.off.toInt

/-- Address of a staged access: GR(A) + sext(OFF28, 28), exact (R357). -/
def State.sgAddr (s : State) (f : SgF) : Int := ((s.rg f.a).toNat : Int) + f.off.toInt

/-- Bytes of a size code 0 to 3. -/
def sizeBytes (code : Nat) : Nat := 2 ^ code

end Sys2Proof.Machine
end

