-- ==== Sys2Proof/Machine/VSave.lean ====
section
/-! DEFINITION. Vector state on demand: VFIRST, `vsave` and `vrest` (22 R442, R454, R455). -/
namespace Sys2Proof.Machine

/-! ## VFIRST -/

/-- The word touches vector state (R442). -/
def touchesVec (w : Word) : Bool :=
  let op := opOf w
  (0x20 ≤ op && op ≤ 0x5F) || op == 0x61 || op == 0x62 || op == 0x88 || op == 0x71 || op == 0x72 || op == 0x92
    || op == 0x9F || (op == 0x66 && fnOf w == 1 && (rrOf w).b != 0) || (op == 0x90 && (syOf w).sreg.toNat ≤ 7)

/-- VLMAX of the acting sequencer's group for a register count (R68). -/
def State.vlmaxFor (s : State) (nreg : BitVec 2) : Nat :=
  vlmaxOf s.hart.group.isSome s.hart.part (regCount nreg) s.hart.tvl

/-- The acting sequencer with vector state of its own (R442, R455). -/
def State.ownVec (s : State) (v : Vec) : State :=
  let h := s.hart
  { s with hart := { h with vec := v, owner := some h.tag, gcap := if h.group.isSome then min h.gcap v.vlmax else 0 } }

/-- R442: VFIRST served for the acting sequencer. A refused block ends the context with CODE = 13 (R441). -/
def State.serveVfirst (s : State) : State :=
  let s1 := s.saveLazy s.hart.core s.hart.sq
  let s2 := s1.logEvent (dieOf s1.hart.core) "VFIRST"
  let h := s2.hart
  if !h.live then s2
  else
    match h.vsaved with
    | none => s2.ownVec Vec.reset
    | some _ =>
      let va := s2.blockAddr h.ctx h.blk + vecOffset
      match s2.readSaved h.ctx va (fun hdr => s2.vlmaxFor (hdrNreg hdr)) with
      | none => s2.fatalHere causeMcheck 0
      | some d =>
        let vlmax := s2.vlmaxFor (hdrNreg d.hdr)
        let r := d.load vlmax
        let s2 := s2.seeSaved h.ctx va d.hdr vlmax
        if r.2 then
          match s2.ctxWrite h.ctx .supervisor va (toBytes (ofBytes (d.hdr.take 8) ||| 2 ^ 17) 8) with
          | none => s2.fatalHere causeMcheck 0
          | some s3 => s3.ownVec r.1
        else s2.ownVec r.1

/-- The acting sequencer's storage holds another owner's state, or no state of its instance (R442). -/
def Hart.needsVfirst (h : Hart) : Bool := h.live && h.owner != some h.tag

/-- R442, R432: VFIRST of the acting sequencer. -/
def execVfirst (s : State) : Res := .next (if s.hart.needsVfirst then s.serveVfirst else s)

/-! ## `vsave` and `vrest` -/

/-- The level check of R429: PROT with TVAL the word (DEDUCED, log 38). -/
def supervisorOnly (w : Word) : M Unit := do
  let s ← get
  if s.hart.level != .supervisor then raise causeProt w

/-- A read or write of the save block, cut into operations in order. -/
def blockOp (va n : Nat) (strict : Bool) (act : Act) : MemOp :=
  { va, n, align := false, strict, act, ord := 0, scope := 1 }

/-- The address of a save block: a multiple of 64 (R454, R455). -/
def blockBase (r : BitVec 5) : M Nat := do
  let s ← get
  let va := (s.rg r).toNat
  if va % 64 ≠ 0 then raise causeAlign (s.rg r)
  return va

/-- R454. -/
def execVsave (f : SyF) (s : State) : Res :=
  let w := encSy 0x92 0 f
  s.run w do
    supervisorOnly w
    let va ← blockBase f.a
    let me := s.me
    let old ← loadBytes me va 64
    let v := s.hart.vec
    let r := v.saveWrites old (bitOf f.imm.toNat 0)
    let _ ← perform me (r.1.map fun x => blockOp (va + x.1) x.2.length true (.store x.2))
    change fun s => ((s.setVec { s.hart.vec with hwm := 0 }).setG f.d (BitVec.ofNat 64 r.2)).advance

/-- Reads of the k cells of a register at an address, line by line. -/
def cellOps (va k : Nat) : List MemOp := (List.range k).map fun u => blockOp (va + 64 * u) 64 false .load

/-- Lines of the poison map of k cells. -/
def mapLines (k : Nat) : Nat := (k + 63) / 64

/-- Reads of the poison map of k cells at an address, line by line. -/
def mapOps (va k : Nat) : List MemOp :=
  (List.range (mapLines k)).map fun j => blockOp (va + 64 * j) (min 64 (k - 64 * j)) false .load

/-- A register of a saved block from its k cells and its poison map as they are read: a poisoned line of a cell poisons the eight
groups that it holds, one of the map every group that it describes (R455). -/
def savedCell (n k : Nat) (cells maps : List (List Byte × Bool)) : Nat × Nat × Nat :=
  (n, ofBytes ((cells.take k).flatMap (·.1)),
    poisonFix k (ofBytes ((maps.take (mapLines k)).flatMap (·.1))) (fun u => (cells.getD u ([], false)).2)
      (fun u => (maps.getD (u / 64) ([], false)).2))

/-- R455. -/
def execVrest (f : SyF) (s : State) : Res :=
  let w := encSy 0x92 1 f
  s.run w do
    supervisorOnly w
    let va ← blockBase f.a
    let me := s.me
    let hdr ← loadBytes me va 64
    if headerRefused hdr then raise causeIllegal w
    if hdrVlmax hdr ≠ 0 ∧ s.hart.group.isNone then raise causeIllegal w
    let vlmax := s.vlmaxFor (hdrNreg hdr)
    let bits := loadBits hdr vlmax
    let rect := hdrRect hdr
    let regs := if bits = 0 then [] else (List.range (rect.hi + 1 - rect.lo)).map (· + rect.lo)
    let mlen := min (hdrVlmax hdr) vlmax / 32
    let cells ← perform me (regs.flatMap fun n => cellOps (va + 0x4840 + 8192 * n) (bits / 512))
    let maps ← perform me (regs.flatMap fun n => mapOps (va + 0x40 + 128 * n) (bits / 512))
    let masks ← perform me ((List.range 7).map fun k => blockOp (va + 0x1040 + 2048 * k) mlen true .load)
    let d : SavedVec :=
      { hdr
        cells := regs.zipIdx.map fun x =>
          savedCell x.1 (bits / 512) (cells.drop (x.2 * (bits / 512))) (maps.drop (x.2 * mapLines (bits / 512)))
        masks := masks.map fun m => ofBytes m.1 }
    let r := d.load vlmax
    if r.2 then storeBytes me va (toBytes (ofBytes (hdr.take 8) ||| 2 ^ 17) 8)
    change fun s => ((s.ownVec r.1).setG f.d (if r.2 then 1 else 0)).advance

end Sys2Proof.Machine
end

