-- ==== Sys2Proof/Machine/System.lean ====
section
/-! DEFINITION. System registers, traps on request, breakpoints, halts, translation invalidation, and the two
instructions that shape the vector side (03 R64 to R73, 22 R446 to R453, 25 R483 to R491). -/
namespace Sys2Proof.Machine

/-! ## Reading -/

/-- CAPS0 (01 Table 1.7); STEP is 0x01 (R24). -/
def State.caps0 (s : State) : Word :=
  let part := if s.part = 0 then 0x7160 else if s.part = 1 then 0x7152 else 0x7144
  let mask := if s.part = 2 then 0x03F else 0xFFF
  BitVec.ofNat 64 (part * 2 ^ 48 + 1 * 2 ^ 40 + 4 * 2 ^ 32 + 64 * 2 ^ 24 + 4 * 2 ^ 20 + 64 * 2 ^ 12 + mask)

/-- CAPS1 (01 Table 1.8). -/
def State.caps1 (s : State) : Word :=
  BitVec.ofNat 64 (48 * 2 ^ 24 + 4 * 2 ^ 16 + bit s.hasXform * 2 ^ 7 + 1 * 2 ^ 6 + bit s.hasF64 * 2 ^ 5 + 1 * 2 ^ 4
    + 1 * 2 ^ 3)

/-- Field i of the work identifier (R58): the fields listed after it lie below it. -/
def widField (wid wfmt : Word) (i : Nat) : Word :=
  let nf := wbits wfmt 42 3
  let width k := wbits wfmt (7 * k) 7
  if i < nf then
    let lo := ((List.range nf).filter fun k => i < k).foldl (fun acc k => acc + width k) 0
    BitVec.ofNat 64 (field wid.toNat lo (width i))
  else 0

/-- The tenant of the acting sequencer's context. -/
def State.tenant (s : State) : Nat := (s.ctxOf s.hart.ctx).tenant

/-- The record of a bank is shown to the acting sequencer (R486). -/
def State.bankShown (s : State) (b : Bank) : Bool := s.tenant == 0 || wbits b.stat 51 5 == s.tenant

/-- Register r of bank k of all dies' banks (R483). -/
def Bank.reg (b : Bank) (r : Nat) : Word :=
  match r with
  | 0 => b.stat
  | 1 => b.addr
  | 2 => b.misc
  | _ => b.seq

/-- A register number of 03 Table 3.3 (R64, R483). -/
def csrListed (n : Nat) : Bool :=
  n ≤ 7 || n == 0x10 || n == 0x11 || (0x20 ≤ n && n ≤ 0x22) || (0x28 ≤ n && n ≤ 0x2D) || n == 0x30 || n == 0x40
    || n == 0x41 || (0x100 ≤ n && n ≤ 0x104) || n == 0x110 || n == 0x111 || (0x800 ≤ n && n < 0x880) || n == 0x8C0
    || n == 0x8C1 || n == 0xFC0 || n == 0xFC1

/-- A register reserved to the supervisor. -/
def csrSupervisor (n : Nat) : Bool :=
  n == 7 || (0x100 ≤ n && n ≤ 0x103) || (0x800 ≤ n && n < 0x880) || n == 0x8C0 || n == 0x8C1

/-- The value of a register whose reading changes nothing; WMARK, CYCLE and the banks have their own rules. -/
def State.csrPlain (s : State) (n : Nat) : Word :=
  let h := s.hart
  match n with
  | 0x00 => BitVec.ofNat 64 h.vec.vl
  | 0x01 => BitVec.ofNat 64 (h.vec.ew.toNat * 8 + h.vec.ty.toNat)
  | 0x02 => BitVec.ofNat 64 h.vec.vstart
  | 0x03 => BitVec.ofNat 64 h.vec.nreg.toNat
  | 0x04 => BitVec.ofNat 64 h.vec.vlmax
  | 0x05 => BitVec.ofNat 64 h.gcap
  | 0x06 => wset h.lpart 4 1 (bit h.pend)
  | 0x07 => h.vec.hwm
  | 0x10 => h.rmode
  | 0x11 => h.seed
  | 0x20 => h.wid
  | 0x21 => h.wfmt
  | 0x22 => BitVec.ofNat 64 (h.inst.stage * 2 ^ 13 + h.sq * 2 ^ 8 + h.core)
  | 0x28 => widField h.wid h.wfmt 0
  | 0x29 => widField h.wid h.wfmt 1
  | 0x2A => widField h.wid h.wfmt 2
  | 0x2B => widField h.wid h.wfmt 3
  | 0x2C => widField h.wid h.wfmt 4
  | 0x2D => widField h.wid h.wfmt 5
  | 0x30 => BitVec.ofNat 64 h.loops.length
  | 0x40 => h.parklim
  | 0x100 => h.cause
  | 0x101 => h.epc
  | 0x102 => h.tvec
  | 0x103 => h.tval
  | 0x104 => BitVec.ofNat 64 (s.tenant * 2 ^ 16 + h.ctx)
  | 0x111 => s.evseqOf (dieOf h.core)
  | 0x8C0 => if s.tenant = 0 then s.reliab.errinj else 0
  | 0x8C1 => if s.tenant = 0 then s.reliab.errinja else 0
  | 0xFC0 => s.caps0
  | 0xFC1 => s.caps1
  | _ => 0

/-- A read of an error-bank register (R486, R488): a read of STAT that returns V = 1 sets SEEN. -/
def readBank (n : Nat) : M Word := do
  let s ← get
  let k := (n - 0x800) / 4
  let b := s.bankOf (k / 8) (k % 8)
  if s.bankShown b then
    if n % 4 = 0 ∧ bitOf b.stat.toNat 63 then set (s.setBank (k / 8) (k % 8) { b with stat := wset b.stat 60 1 1 })
    return b.reg (n % 4)
  else return 0

/-- CYCLE (R65): it has moved on by a free amount and never falls (DESIGN CHOICE, log 6). -/
def readCycle : M Word := do
  let s ← get
  let c := s.hart.cycle.toNat
  let v := BitVec.ofNat 64 (c + s.freeWord.toNat % (2 ^ 64 - c))
  set { s.nextTick with hart := { s.hart with cycle := v } }
  return v

/-- A read of WMARK (R413): COUNT of the bound line, an acquire load at the line's SCOPE. -/
def readWmark : M Word := do
  let s ← get
  match s.hart.wmark with
  | none => return 0
  | some a =>
    let w1 ← loadBytes s.me (a + 8 : Nat) 8
    let r ← perform s.me [{ plainOp a 8 .load with ord := 1, scope := field (ofBytes w1) 0 3 }]
    return BitVec.ofNat 64 (ofBytes (r.headD ([], false)).1)

/-- The value of a system register, with what its reading does (R448). -/
def readCsr (n : Nat) : M Word := do
  if 0x800 ≤ n ∧ n < 0x900 then drainOwn
  if 0x800 ≤ n ∧ n < 0x880 then readBank n
  else if n = 0x110 then readCycle
  else if n = 0x41 then readWmark
  else do
    let s ← get
    return s.csrPlain n

/-! ## Writing -/

/-- The RW bits of a word taken from `new`. -/
def mergeBits (mask old new : Word) : Word := (old &&& ~~~mask) ||| (new &&& mask)

/-- R487: writing 1 to STAT.V clears the bank. -/
def State.clearBank (s : State) (n : Nat) : State :=
  let k := (n - 0x800) / 4
  if s.tenant = 0 ∧ n % 4 = 0 then s.setBank (k / 8) (k % 8) Bank.zero else s

/-- R490, R491: a write of ERRINJ, `ones` being the W1C bits that it clears. -/
def State.writeErrinj (s : State) (new ones : Word) : State :=
  let old := s.reliab.errinj
  let v := mergeBits 0xBFFFFC00000000FF#64 old new
  let v := if bitOf ones.toNat 62 then wset v 62 1 0 else v
  if s.tenant ≠ 0 ∨ wbits v 59 3 ≥ 4 ∨ wbits v 54 5 > 19 then s
  else if bitOf v.toNat 63 then
    { s with reliab := { s.reliab with errinj := v, armer := some s.hart.ctx, stuck := none, injStore := none } }
  else { s with reliab := { s.reliab with errinj := v, stuck := none } }

/-- Writes a system register (R448): `new` for RW fields, `ones` for W1C fields. -/
def State.writeCsr (s : State) (n : Nat) (new ones : Word) : State :=
  let h := s.hart
  match n with
  | 0x02 => s.setVec { h.vec with vstart := wbits new 0 17 }
  | 0x07 => s.setVec { h.vec with hwm := mergeBits 0x80000000001F1FFF#64 h.vec.hwm new }
  | 0x10 => { s with hart := { h with rmode := mergeBits 0xFFFFFFFFFF000017#64 h.rmode new } }
  | 0x11 => { s with hart := { h with seed := new } }
  | 0x40 => { s with hart := { h with parklim := mergeBits 0x0000FFFFFFFFFFFF#64 h.parklim new } }
  | 0x100 => { s with hart := { h with cause := mergeBits 0x7800FFFF000000FF#64 h.cause new } }
  | 0x101 => { s with hart := { h with epc := mergeBits 0xFFFFFFFFFFFFFFF8#64 h.epc new } }
  | 0x102 => { s with hart := { h with tvec := mergeBits 0x01FFFFFFFFFFFFF8#64 h.tvec new } }
  | 0x103 => { s with hart := { h with tval := new } }
  | 0x8C0 => s.writeErrinj new ones
  | 0x8C1 =>
    if s.tenant = 0 then
      { s with reliab := { s.reliab with errinja := mergeBits 0x01FFFFFFFFFFFFC0#64 s.reliab.errinja new } }
    else s
  | _ => if 0x800 ≤ n ∧ n < 0x880 ∧ bitOf ones.toNat 63 then s.clearBank n else s

/-- A register access: checks, the read, the write that `f` gives from the old value and GR(A) (R448). -/
def csrAccess (w : Word) (f : SyF) (write : Word → Word → Option (Word × Word)) : M Unit := do
  let s ← get
  let n := f.sreg.toNat
  if !csrListed n then raise causeIllegal w
  if csrSupervisor n && s.hart.level != .supervisor then raise causeProt w
  let a := s.rg f.a
  let old ← readCsr n
  match write old a with
  | none => pure ()
  | some (new, ones) => change fun s => s.writeCsr n new ones
  change fun s => s.setG f.d old
  complete

/-- R448. -/
def execCsrr (f : SyF) (s : State) : Res :=
  let w := encSy 0x90 0 f
  s.run w (csrAccess w f fun _ _ => none)
/-- R448. -/
def execCsrw (f : SyF) (s : State) : Res :=
  let w := encSy 0x90 1 f
  s.run w (csrAccess w f fun _ a => some (a, a))
/-- R448. -/
def execCsrs (f : SyF) (s : State) : Res :=
  let w := encSy 0x90 2 f
  s.run w (csrAccess w f fun old a => some (old ||| a, a))
/-- R448: `csrc` leaves every W1C field unchanged. -/
def execCsrc (f : SyF) (s : State) : Res :=
  let w := encSy 0x90 3 f
  s.run w (csrAccess w f fun old a => some (old &&& ~~~a, 0))

/-! ## Traps on request, returns, halts -/

/-- R449: `trap` completes, then TRAPI is taken at the next PC. -/
def execTrap (f : SyF) (s : State) : Res :=
  let s1 := s.advance
  .next (s1.takeTrap
    { code := causeTrapi, sub := f.imm.toNat % 65536, vec := false, das := false, epc := s1.hart.pc, tval := s.rg f.a })

/-- R449: `brk` completes, then BRKPT is taken at the next PC, with TVAL its own address. -/
def execBrk (f : SyF) (s : State) : Res :=
  let s1 := s.advance
  .next (s1.takeTrap
    { code := causeBrkpt, sub := f.imm.toNat % 65536, vec := false, das := false, epc := s1.hart.pc, tval := s.hart.pc })

/-- R450; at program level it traps PROT (R429). -/
def execRft (f : SyF) (s : State) : Res :=
  let w := encSy 0x91 1 f
  s.run w do
    supervisorOnly w
    if !s.hart.handling then raise causeIllegal w
    change State.returnFromTrap

/-- R451: older scatter-additions are performed; every fetch of the model reads memory as it stands. -/
def execIsync (_f : SyF) (s : State) : Res :=
  let t := s.drainAdds s.hart.core s.hart.sq
  .next (if (t.ctxOf s.hart.ctx).ended && !(s.ctxOf s.hart.ctx).ended then t else t.advance)

/-- R452: `halt` completes, then the instance lands with HALTED = 1. -/
def execHalt (f : SyF) (s : State) : Res :=
  let w := encSy 0x91 3 f
  s.run w do
    supervisorOnly w
    complete
    change fun t => t.land t.hart.core t.hart.sq true false t.hart.pc t.hart.cause

/-- Every scatter-addition of a context performed. -/
def State.drainCtx (s : State) (ctx : Nat) : State :=
  (s.adds.filter fun a => a.ctx == ctx).foldl State.performAdd s

/-- A fetch from another device is under way at an address, whose page is at most the largest. -/
def State.fetching (s : State) (a : Agent) (sel : Nat → Nat → Bool) : Bool :=
  match a with
  | .fetch c q => sel (s.hartAt c q).pc.toNat (2 ^ 34)
  | _ => false

/-- An access of a context, by another agent than the acting sequencer, that is translated and not yet performed, at an address
and by a page that `sel` takes: one that waits for another device, or that is parked (R453). -/
def State.translated (s : State) (ctx : Nat) (sel : Nat → Nat → Bool) : Bool :=
  let other (a : Agent) : Bool := a != s.agent && s.agentCtx a == some ctx
  (s.flights.any fun f => other f.agent && !f.fin && f.parts.flatten.any fun p => sel p.va p.page)
    || (s.parks.any fun p => other p.agent && sel p.va p.page)
    || s.remotes.any fun r => other r.agent && r.answer.isNone && s.fetching r.agent sel

/-- R453: the model translates through memory at each access, so nothing stale remains; it completes once the context's
accesses already translated have been performed. -/
def invalidate (w : Word) (sel : Nat → Nat → Bool) : M Unit := do
  supervisorOnly w
  let s ← get
  if s.translated s.hart.ctx sel then throw .stall
  change fun s => s.drainCtx s.hart.ctx
  unlessEnded s s.hart.ctx
  complete

/-- R453, mode 0: the entries that map the page of GR(A), of whatever size. -/
def execTlbinvPage (f : SyF) (s : State) : Res :=
  let w := encSy 0x91 5 f
  s.run w (invalidate w fun va page => va / page == (s.rg f.a).toNat / page)
/-- R453, mode 1. -/
def execTlbinvAll (f : SyF) (s : State) : Res :=
  let w := encSy 0x91 5 f
  s.run w (invalidate w fun _ _ => true)

/-! ## Breakpoints -/

/-- An enabled breakpoint register of the acting sequencer's context that matches its PC: the lowest (R446) (DEDUCED, log 37). -/
def State.matchingBp (s : State) : Option (Nat × Word) :=
  let h := s.hart
  if h.live && !h.handling && !h.skipBp then
    (s.ctxOf h.ctx).bps.find? fun b => bitOf b.2.toNat 63 && wbits b.2 3 54 * 8 == h.pc.toNat
  else none

/-- R446: breakpoint register n matches at the PC: BRKPT is taken with SUB = n, or the instance halts. -/
def execBreakpointMatch (n : Nat) (s : State) : Res :=
  match s.matchingBp with
  | none => .next s
  | some (k, b) =>
    if k ≠ n then .next s
    else
      let c : Cause := { code := causeBrkpt, sub := n, vec := false, das := false, epc := s.hart.pc, tval := s.hart.pc }
      if bitOf b.toNat 62 then
        .next (s.haltAt c s.hart.pc)
      else .next (s.takeTrap c)

/-! ## Words that do not execute -/

/-- The cause of 04 Table 4.7 for a word that is no instruction of the device. -/
def execNonInstructionWord (w : Word) (s : State) : Res :=
  match decodeOp w with
  | .ok _ => .next s
  | .error .illegal => .next (s.trapWord w causeIllegal)
  | .error .rsvdField => .next (s.trapWord w causeRsvd)
  | .error .unimplCombo => .next (s.trapWord w causeUnimpl)

/-! ## `setvl` and `vcfg` -/

/-- The sequencer wants lanes, and the Headframe decides for it (R417). -/
def State.requestLanes (s : State) : State :=
  let h := s.hart
  let c := s.coreOf h.core
  let add (l : List Nat) : List Nat := if l.contains h.sq then l else l ++ [h.sq]
  (s.setCore h.core { c with want := add c.want, waitQ := add c.waitQ }).decidePartition h.core

/-- Stale vector state of the core is saved before its storage is repartitioned (R442), and the partition in force at the
instruction is applied, not one that a save which ends another context brings (R427). A save that ends the acting context ends
the instruction. -/
def applyLanes : M Unit := do
  let s ← get
  let s1 := s.saveLazyCore s.hart.core
  set s1
  if s.hart.live && !s1.hart.live then throw .ended
  set (s1.applyDecided (s.coreOf s.hart.core))

/-- A lane group for the acting sequencer, before `setvl` grants (R72, R418). One that was granted its group while it waited in this
`setvl` applies no partition decided since (R427). -/
def takeLanes (avl : Nat) : M Unit := do
  let s ← get
  let h := s.hart
  if h.group.isSome then
    if h.pend && !h.waiting then applyLanes
    else
      let vec := h.vec.resize (s.vlmaxFor h.vec.nreg)
      set { s with hart := { h with vec } }
  else if 0 < avl then
    let s1 := s.requestLanes
    set s1
    if s1.grantable h.core h.sq then applyLanes else throw .lanes

/-- VL, VTYPE, VSTART, GCAP and GR(D) of R72, with the grant cap of R420. LPART changes where a partition is applied (R426). -/
def State.grantLength (s : State) (d : BitVec 5) (ew ty : BitVec 3) (avl : Nat) : State :=
  let h := s.hart
  let gcap := if h.group.isSome then min h.vec.vlmax (s.coreOf h.core).pcap else 0
  let vl := if h.group.isSome then min avl (gcap / widthOf ew) else 0
  let h1 := { h with gcap, vec := { h.vec with vl, vstart := 0, ew, ty } }
  ({ s with hart := h1 }).setG d (BitVec.ofNat 64 vl)

/-- R72. -/
def execSetvl (f : VvF) (s : State) : Res :=
  s.run (encVv 0x9F 0 f) do
    let avl := (s.rg f.a).toNat
    takeLanes avl
    change fun s => s.grantLength f.d f.ew f.ty avl
    complete

/-- NREG of a register count (03 Table 3.6). -/
def nregOf (n : Nat) : BitVec 2 := if n = 8 then 0 else if n = 16 then 1 else 2

/-- R73: everything zero, the register count set, VLMAX and GCAP by R68 and R71. -/
def State.clearVec (s : State) (n : Nat) : State :=
  s.setVec { Vec.reset with nreg := nregOf n, vlmax := s.hart.vec.vlmax }

/-- R73. -/
def execVcfg (f : VvF) (s : State) : Res :=
  s.run (encVv 0x9F 1 f) do
    change fun s => s.clearVec f.imm.toNat
    if s.hart.group.isSome && s.hart.pend then applyLanes
    change State.refreshVlmax
    complete

end Sys2Proof.Machine
end

