-- ==== Sys2Proof/Machine/Fetch.lean ====
section
/-! DEFINITION. Fetching an instruction's bytes, and what fails there (06 R144, 13 R274). -/
namespace Sys2Proof.Machine

/-- The word at the PC, with the checks of a fetch (R144, R274, R342): translation, X and U, bound lines, poison (DESIGN CHOICE, log 60).
A fetch from host memory goes out on its link (R503). -/
def fetchWord : M Word := do
  let s0 ← get
  let me := s0.me
  match s0.checkAccess me.ctx me.level .fetch false true s0.hart.pc.toNat 8 with
  | .error (c, v) => failCheck c v
  | .ok ps =>
    let s1 := ((s0.markParts false ps).askParts me.ctx false ps).reachParts me.ctx me.orig false ps
    set s1
    if (s1.ctxOf me.ctx).ended && !(s0.ctxOf me.ctx).ended then throw .ended
    if ps.any fun p => !p.isRemote && s1.poisoned p.pa p.len then throw .poison
    let rs ← remoteParts s0.fetcher (plainOp s0.hart.pc.toNat 8 .load) 0 ps
    change fun s => s.settle s0.fetcher.agent
    let s2 ← get
    return BitVec.ofNat 64 (ofBytes (s2.gather ps rs))

/-- The fetch at the PC fails: its fault is taken with EPC the PC (R144), or the context ends with POISON or MCHECK. -/
def execFetchFault (s : State) : Res :=
  match fetchWord s with
  | (.ok _, _) => .next s
  | (.error .stall, s') => .next { s' with hart := s.hart, cores := s.cores, rix := 0 }
  | (.error st, s') => .next (s.stopShort 0 st s')

/-- Open or close of a chute word is told by bit 8 of GR(A) (R414). -/
def State.resolve (s : State) (o : Op) (w : Word) : Op :=
  let close := bitOf (s.rg (rrOf w).a).toNat 8
  match o with
  | .chputOpen => if close then .chputClose else .chputOpen
  | .chgetOpen => if close then .chgetClose else .chgetOpen
  | o => o

/-- The acting sequencer's instruction is parked: it runs again when its FIFO is judged (R347, R348). -/
def State.parked (s : State) : Bool := s.parks.any fun p => p.agent == s.agent

/-- The instruction boundary is a landing point of its own (R437): an iteration boundary, a taken backward branch, a
waiting instruction, or `yield` (R407), outside a handler. -/
def Hart.landingPoint (h : Hart) : Bool := !h.handling && (h.atPoint || h.waiting || h.mayYield)

/-- A landing is due (R437): at a landing point, or after PREEMPT_GRACE at any boundary. -/
def State.landingDue (s : State) : Bool := s.hart.preq && (s.hart.grace || s.hart.landingPoint)

/-- The remote access has no effect, so that it can be left: a read, or a staged access that has been withdrawn (R348). -/
def Remote.leaves (r : Remote) : Bool :=
  r.type == pktRd || (r.wdr == some true && (r.answer.map (·.1)) == some causeParkLimit)

/-- The word at the PC, as held, or as local memory holds it for a fetch. -/
def State.wordAtPc (s : State) : Option Word :=
  match s.hart.held, s.checkAccess s.hart.ctx s.hart.level .fetch false true s.hart.pc.toNat 8 with
  | some w, _ => some w
  | none, .ok ps => if ps.any Part.isRemote then none else some (BitVec.ofNat 64 (ofBytes (s.readParts ps)))
  | none, .error _ => none

/-- The instruction at the PC resumes an execution of a column instruction, MIDOP (10 Table 10.1) being set in its destination: it is
not pre-empted before it commits a row or completes (R244). -/
def State.resumesColumn (s : State) : Bool :=
  match s.wordAtPc with
  | none => false
  | some w =>
    (opOf w == 0x72 || decide (0x76 ≤ opOf w ∧ opOf w ≤ 0x7D))
      && bitOf (s.hart.cols.toList.getD (clOf w).d.toNat 0).toNat 445

/-- A pre-emption request lands here: a landing is due, no remote access of the instruction may have its effect, and it is no column
instruction that resumes. -/
def State.landsNow (s : State) : Bool :=
  s.landingDue && (s.remotesOf s.agent).all Remote.leaves && !s.resumesColumn

/-- A landing is due while a staged access of the sequencer is parked at another device, or on its way: it is withdrawn
(R348, R437, R500). -/
def State.withdrawDue (s : State) : Bool :=
  s.landingDue && (s.remotesOf s.agent).any fun r => r.open && r.wdr.isNone

/-- A pre-emption lands (R438, R439): MIDITER for a landing under point 4. It is logged (R432). -/
def State.landPreempt (s : State) : State :=
  let h := s.hart
  (s.logEvent (dieOf h.core) "PREEMPT").land h.core h.sq false (!h.landingPoint) h.pc h.cause

end Sys2Proof.Machine
end

