-- ==== Sys2Proof/Machine/Num.lean ====
section
/-! DEFINITION. Floating formats, exact values and rounding (05 R102 to R116). -/
namespace Sys2Proof.Machine

/-! ## Formats -/

/-- A format of 05 Table 5.1: fraction bits, exponent bits, whether it has infinities. -/
structure Fmt where
  frac : Nat
  expo : Nat
  inf : Bool
  deriving DecidableEq, Repr

/-- binary16. -/
def fmtF16 : Fmt := ⟨10, 5, true⟩
/-- bfloat16. -/
def fmtBf16 : Fmt := ⟨7, 8, true⟩
/-- binary32. -/
def fmtF32 : Fmt := ⟨23, 8, true⟩
/-- binary64. -/
def fmtF64 : Fmt := ⟨52, 11, true⟩
/-- E4M3. -/
def fmtE4m3 : Fmt := ⟨3, 4, false⟩
/-- E5M2. -/
def fmtE5m2 : Fmt := ⟨2, 5, true⟩
/-- A48. -/
def fmtA48 : Fmt := ⟨37, 10, true⟩

/-- The format of a TY and EW pair of 02 Table 2.1 that names a float. -/
def fmtOf (ew ty : BitVec 3) : Fmt :=
  match ty.toNat with
  | 2 => if ew = 1 then fmtF16 else if ew = 2 then fmtF32 else fmtF64
  | 3 => fmtBf16
  | 4 => fmtE4m3
  | _ => fmtE5m2

/-- Exponent bias. -/
def Fmt.bias (f : Fmt) : Nat := 2 ^ (f.expo - 1) - 1
/-- Width in bits. -/
def Fmt.width (f : Fmt) : Nat := 1 + f.expo + f.frac
/-- Magnitude bits of infinity, or of the NaN of E4M3. -/
def Fmt.topBits (f : Fmt) : Nat := if f.inf then (2 ^ f.expo - 1) * 2 ^ f.frac else 2 ^ (f.expo + f.frac) - 1
/-- Magnitude bits of the largest finite value. -/
def Fmt.maxBits (f : Fmt) : Nat := f.topBits - 1
/-- The canonical NaN (R104). -/
def Fmt.nan (f : Fmt) : Nat := if f.inf then f.topBits + 2 ^ (f.frac - 1) else f.topBits
/-- The sign bit's weight. -/
def Fmt.signBit (f : Fmt) : Nat := 2 ^ (f.expo + f.frac)

/-! ## Exact values -/

/-- The value of an encoding: not a number, an infinity, a zero, or ±m x 2^e with m > 0. -/
inductive Val where
  | nan
  | inf (neg : Bool)
  | zero (neg : Bool)
  | fin (neg : Bool) (m : Nat) (e : Int)
  deriving DecidableEq, Repr

/-- R102: the value of an encoding. -/
def Fmt.val (f : Fmt) (x : Nat) : Val :=
  let neg := bitOf x (f.expo + f.frac)
  let ex := field x f.frac f.expo
  let fr := field x 0 f.frac
  let unit : Int := 1 - (f.bias : Int) - f.frac
  if f.inf && ex == 2 ^ f.expo - 1 then (if fr = 0 then .inf neg else .nan)
  else if !f.inf && ex == 2 ^ f.expo - 1 && fr == 2 ^ f.frac - 1 then .nan
  else if ex = 0 then (if fr = 0 then .zero neg else .fin neg fr unit)
  else .fin neg (2 ^ f.frac + fr) (unit + (ex - 1 : Nat))

/-- An integer times 2^e. -/
def Val.ofInt (n : Int) (e : Int) : Val := if n = 0 then .zero false else .fin (decide (n < 0)) n.natAbs e

/-- The value negated. -/
def Val.neg : Val → Val
  | .nan => .nan
  | .inf s => .inf !s
  | .zero s => .zero !s
  | .fin s m e => .fin (!s) m e

/-- ±m as an integer. -/
def signed (neg : Bool) (m : Nat) : Int := if neg then -(m : Int) else m

/-- Exact sum of two values; a zero sum of opposite signs is −0 under RDN (R106). -/
def Val.add (rdn : Bool) : Val → Val → Val
  | .nan, _ => .nan
  | _, .nan => .nan
  | .inf a, .inf b => if a = b then .inf a else .nan
  | .inf a, _ => .inf a
  | _, .inf b => .inf b
  | .zero a, .zero b => if a = b then .zero a else .zero rdn
  | .zero _, y => y
  | x, .zero _ => x
  | .fin a m e, .fin b n g =>
    let lo := min e g
    let t : Int := signed a (m * 2 ^ (e - lo).toNat) + signed b (n * 2 ^ (g - lo).toNat)
    if t = 0 then .zero rdn else .fin (decide (t < 0)) t.natAbs lo

/-- Exact product of two values. -/
def Val.mul : Val → Val → Val
  | .nan, _ => .nan
  | _, .nan => .nan
  | .inf _, .zero _ => .nan
  | .zero _, .inf _ => .nan
  | .inf a, .inf b => .inf (a != b)
  | .inf a, .fin b _ _ => .inf (a != b)
  | .fin a _ _, .inf b => .inf (a != b)
  | .zero a, .zero b => .zero (a != b)
  | .zero a, .fin b _ _ => .zero (a != b)
  | .fin a _ _, .zero b => .zero (a != b)
  | .fin a m e, .fin b n g => .fin (a != b) (m * n) (e + g)

/-- The value times 2^k. -/
def Val.scale (k : Int) : Val → Val
  | .fin a m e => .fin a m (e + k)
  | v => v

/-- The sign of a value. -/
def Val.sign : Val → Bool
  | .nan => false
  | .inf s | .zero s | .fin s _ _ => s

/-- x < y for two values that are not NaN; −0 equals +0. -/
def Val.less : Val → Val → Bool
  | .inf a, .inf b => a && !b
  | .inf a, _ => a
  | _, .inf b => !b
  | x, y =>
    match x.add false y.neg with
    | .fin s _ _ => s
    | _ => false

/-! ## Positive reals, by their scaled floors -/

/-- Nat x 2^k, rounded down, and whether nothing was lost. -/
def shiftFloor (m : Nat) (k : Int) : Nat × Bool :=
  if 0 ≤ k then (m * 2 ^ k.toNat, true)
  else (m / 2 ^ (-k).toNat, m % 2 ^ (-k).toNat == 0)

/-- Bits of the square root of n below position k, added to r. -/
def isqrtFrom (n : Nat) : Nat → Nat → Nat
  | 0, r => r
  | k + 1, r => isqrtFrom n k (if (r + 2 ^ k) * (r + 2 ^ k) ≤ n then r + 2 ^ k else r)

/-- The integer square root. -/
def isqrt (n : Nat) : Nat := isqrtFrom n (n.log2 / 2 + 1) 0

/-- An exact positive real of an operation (R110): m x 2^e, its quotient, square root, reciprocal square root, a power of
two with a dyadic exponent that is no integer, or the magnitude of a logarithm of a number that is no power of two. -/
inductive Real where
  | dy (m : Nat) (e : Int)
  | quot (n d : Nat) (e : Int)
  | sqrt (m : Nat) (e : Int)
  | rsq (m : Nat) (e : Int)
  | exp2 (neg : Bool) (m : Nat) (e : Int)
  | log2 (m : Nat) (e : Int)
  deriving DecidableEq, Repr

/-- Fixed-point bounds of 2^f, f = x / 2^p in [0, 1): for each bit from the highest, a square root of the factor before. -/
def exp2Bounds (p x : Nat) : Nat → Nat × Nat → Nat × Nat → Nat × Nat
  | 0, _, acc => acc
  | i + 1, c, acc =>
    let lo := isqrt (c.1 * 2 ^ p)
    let hi := isqrt (c.2 * 2 ^ p) + 1
    let acc' :=
      if bitOf x i then (acc.1 * lo / 2 ^ p, acc.2 * hi / 2 ^ p + 1) else acc
    exp2Bounds p x i (lo, hi) acc'

/-- floor(2^f x 2^j) for f = m / 2^q with 0 < f < 1, by bounds of growing precision; fuel bounds the attempts. -/
def exp2Floor (m q j : Nat) : Nat → Nat → Nat
  | 0, _ => 0
  | fuel + 1, p =>
    let x := if q ≤ p then m * 2 ^ (p - q) else m / 2 ^ (q - p)
    let b := exp2Bounds p x p (2 * 2 ^ p, 2 * 2 ^ p) (2 ^ p, 2 ^ p)
    let up := if q ≤ p then b.2 else b.2 + b.2 / 2 ^ p + 1
    let lo := b.1 * 2 ^ j / 2 ^ p
    let hi := up * 2 ^ j / 2 ^ p
    if lo = hi ∨ fuel = 0 then lo else exp2Floor m q j fuel (2 * p)

/-- Leading bits of log2 z for z between the bounds l and h over 2^p in [1, 2): k squarings. None when a bit is not yet
decided. -/
def log2Bits (p : Nat) : Nat → Nat × Nat → Nat → Option Nat
  | 0, _, acc => some acc
  | k + 1, c, acc =>
    let lo := c.1 * c.1 / 2 ^ p
    let hi := c.2 * c.2 / 2 ^ p + 1
    if 2 * 2 ^ p ≤ lo then log2Bits p k (lo / 2, hi / 2 + 1) (2 * acc + 1)
    else if hi < 2 * 2 ^ p then log2Bits p k (lo, hi) (2 * acc)
    else none

/-- floor(log2(z) x 2^k) for z = m / 2^(number of bits of m, less one) in (1, 2). -/
def log2Floor (m k : Nat) : Nat → Nat → Nat
  | 0, _ => 0
  | fuel + 1, p =>
    let b := m.log2
    let z := if b ≤ p then (m * 2 ^ (p - b), m * 2 ^ (p - b)) else (m / 2 ^ (b - p), m / 2 ^ (b - p) + 1)
    match log2Bits p k z 0 with
    | some r => r
    | none => log2Floor m k fuel (2 * p)

/-- floor(x x 2^k), and whether it is exact. -/
def Real.floor (x : Real) (k : Int) : Nat × Bool :=
  match x with
  | .dy m e => shiftFloor m (e + k)
  | .quot n d e =>
    if 0 ≤ e + k then
      let a := n * 2 ^ (e + k).toNat
      (a / d, a % d == 0)
    else
      let b := d * 2 ^ (-(e + k)).toNat
      (n / b, n % b == 0)
  | .sqrt m e =>
    let s := shiftFloor m (e + 2 * k)
    let r := isqrt s.1
    (r, s.2 && r * r == s.1)
  | .rsq m e =>
    if 2 * k - e < 0 then (0, false)
    else
      let a := 2 ^ (2 * k - e).toNat
      let r := isqrt (a / m)
      (r, m * r * r == a)
  | .exp2 neg m e =>
    let q := (-e).toNat
    let whole := m / 2 ^ q
    let part := m % 2 ^ q
    let i : Int := if neg then -(whole : Int) - 1 else whole
    let f := if neg then 2 ^ q - part else part
    let j := i + k
    if j < 0 then (0, false) else (exp2Floor f q j.toNat 16 (j.toNat + 64), false)
  | .log2 m e =>
    let n : Int := e + m.log2
    if 0 ≤ k then
      let l := log2Floor m k.toNat 16 (k.toNat + 64)
      if 0 ≤ n then (n.toNat * 2 ^ k.toNat + l, false) else ((-n).toNat * 2 ^ k.toNat - l - 1, false)
    else
      let whole := if 0 ≤ n then n.toNat else (-n).toNat - 1
      (whole / 2 ^ (-k).toNat, false)

/-- The real lies at or above 2^e. -/
def Real.atLeast (x : Real) (e : Int) : Bool := decide (1 ≤ (x.floor (-e)).1)

/-- Goes down from a bound to floor(log2 x); fuel bounds the steps. -/
def Real.expoFrom (x : Real) : Nat → Int → Int
  | 0, e => e
  | fuel + 1, e => if x.atLeast e then e else x.expoFrom fuel (e - 1)

/-- floor(log2 x), or less when x is far below every format. -/
def Real.expo (x : Real) : Int :=
  match x with
  | .dy m e => e + m.log2
  | .quot n d e => x.expoFrom 2 (e + n.log2 - d.log2)
  | .sqrt m e => (e + m.log2) / 2
  | .rsq m e => x.expoFrom 3 (-((e + m.log2) / 2))
  | .exp2 neg m e =>
    let whole : Int := m / 2 ^ (-e).toNat
    if neg then -whole - 1 else whole
  | .log2 m e =>
    let n : Int := e + m.log2
    let whole := if 0 ≤ n then n.toNat else (-n).toNat - 1
    if whole ≠ 0 then (whole.log2 : Int)
    else
      let d := if 0 ≤ n then m - 2 ^ m.log2 else 2 ^ (m.log2 + 1) - m
      x.expoFrom 4 ((d.log2 : Int) - m.log2 + 1)

/-! ## Rounding -/

/-- Rounding-mode codes that remain when DYN is resolved (04 Table 4.3). -/
inductive Mode where
  | rne
  | rtz
  | rdn
  | rup
  | rna
  | stoch
  deriving DecidableEq, Repr

/-- The mode of a code; 110b and 111b have none. -/
def modeOf (code : Nat) : Option Mode :=
  match code with
  | 0 => some .rne
  | 1 => some .rtz
  | 2 => some .rdn
  | 3 => some .rup
  | 4 => some .rna
  | 5 => some .stoch
  | _ => none

/-- How a result is rounded: the mode, and for STOCH the key and the global index. -/
structure Rnd where
  mode : Mode
  key : Word
  idx : Word
  deriving DecidableEq, Repr

/-- RNE. -/
def Rnd.rne : Rnd := ⟨.rne, 0, 0⟩

/-- z of R113. -/
def stochMix (key idx : Word) : Word :=
  let z0 := key + (idx + 1) * 0x9E3779B97F4A7C15#64
  let z1 := (z0 ^^^ (z0 >>> 30)) * 0xBF58476D1CE4E5B9#64
  let z2 := (z1 ^^^ (z1 >>> 27)) * 0x94D049BB133111EB#64
  z2 ^^^ (z2 >>> 31)

/-- The magnitude rounds up: n is the lower neighbour's multiple of 2^q, and the real lies strictly above it
(R106, R113). -/
def roundsUp (r : Rnd) (neg : Bool) (x : Real) (q : Int) (n : Nat) : Bool :=
  match r.mode with
  | .rtz => false
  | .rup => !neg
  | .rdn => neg
  | .stoch =>
    let frac := (x.floor (-q + 32)).1 - n * 2 ^ 32
    decide (wbits (stochMix r.key r.idx) 32 32 < frac)
  | .rne =>
    let h := x.floor (-q + 1)
    if h.1 % 2 = 0 then false else if h.2 then n % 2 == 1 else true
  | .rna => (x.floor (-q + 1)).1 % 2 == 1

/-- R107: the encoding of an overflow. E4M3 gives its NaN where the other formats give an infinity (DEDUCED, log 14). -/
def Fmt.overflow (f : Fmt) (r : Rnd) (sat neg : Bool) : Nat :=
  let s := if neg then f.signBit else 0
  let top := if f.inf then s + f.topBits else f.nan
  let max_ := s + f.maxBits
  if sat then max_
  else
    match r.mode with
    | .rtz => max_
    | .rup => if neg then max_ else top
    | .rdn => if neg then top else max_
    | _ => top

/-- Magnitude bits that a rounding of a positive real chooses, exponent unbounded above. -/
def Fmt.roundBits (f : Fmt) (r : Rnd) (neg : Bool) (x : Real) : Nat :=
  let emin : Int := 1 - (f.bias : Int)
  let q : Int := max x.expo emin - f.frac
  let lo := x.floor (-q)
  let n := if lo.2 then lo.1 else if roundsUp r neg x q lo.1 then lo.1 + 1 else lo.1
  (q + f.frac + f.bias).toNat * 2 ^ f.frac + n - 2 ^ f.frac

/-- round(±x, fmt, mode) of R106 to R108 and R113. Under STOCH a magnitude above the largest finite value rounds RNE. -/
def Fmt.roundReal (f : Fmt) (r : Rnd) (sat neg : Bool) (x : Real) : Nat :=
  let s := if neg then f.signBit else 0
  let down := f.roundBits ⟨.rtz, 0, 0⟩ neg x
  let exact := (x.floor (f.frac - max x.expo (1 - (f.bias : Int)))).2
  let above := decide (f.maxBits < down) || (down == f.maxBits && !exact)
  let r' := if r.mode = .stoch ∧ above then { r with mode := .rne } else r
  let n := f.roundBits r' neg x
  if f.maxBits < n then f.overflow r sat neg else s + n

/-- round(v, fmt, mode) of an exact value, with the results of R104 and R107 for NaN and infinities. -/
def Fmt.round (f : Fmt) (r : Rnd) (sat : Bool) (v : Val) : Nat :=
  match v with
  | .nan => f.nan
  | .inf s => if f.inf then (if s then f.signBit else 0) + f.topBits else f.nan
  | .zero s => if s then f.signBit else 0
  | .fin s m e => f.roundReal r sat s (.dy m e)

/-- The integer that a real rounds to, its neighbours being the integers next to it (R109, R176). -/
def roundInt (r : Rnd) (neg : Bool) (x : Real) : Nat :=
  let lo := x.floor 0
  if lo.2 then lo.1 else if roundsUp r neg x 0 lo.1 then lo.1 + 1 else lo.1

/-- R109: a value to an integer between bounds. -/
def Val.toInt (r : Rnd) (lo hi : Int) : Val → Int
  | .nan => 0
  | .inf s => if s then lo else hi
  | .zero _ => 0
  | .fin s m e => clampInt lo hi (signed s (roundInt r s (.dy m e)))

end Sys2Proof.Machine
end

