-- ==== Sys2Proof/Machine/FloatOps.lean ====
section
/-! DEFINITION. Floating operations on encodings (07 R172 to R180). -/
namespace Sys2Proof.Machine

/-- An exact result before rounding. -/
inductive Exact where
  | val (v : Val)
  | real (neg : Bool) (x : Real)
  deriving DecidableEq, Repr

/-- The result rounded once (R110). -/
def Fmt.roundExact (f : Fmt) (r : Rnd) (sat : Bool) : Exact → Nat
  | .val v => f.round r sat v
  | .real s x => f.roundReal r sat s x

/-- a / b (07 Table 7.4). -/
def Val.div : Val → Val → Exact
  | .nan, _ => .val .nan
  | _, .nan => .val .nan
  | .inf _, .inf _ => .val .nan
  | .zero _, .zero _ => .val .nan
  | .inf a, y => .val (.inf (a != y.sign))
  | .zero a, y => .val (.zero (a != y.sign))
  | x, .inf b => .val (.zero (x.sign != b))
  | x, .zero b => .val (.inf (x.sign != b))
  | .fin a m e, .fin b n g => .real (a != b) (.quot m n (e - g))

/-- Square root (07 Table 7.5). -/
def Val.root : Val → Exact
  | .nan => .val .nan
  | .inf s => .val (if s then .nan else .inf false)
  | .zero s => .val (.zero s)
  | .fin s m e => if s then .val .nan else .real false (.sqrt m e)

/-- 1/a. -/
def Val.recip (v : Val) : Exact := Val.div (.fin false 1 0) v

/-- 1/√a. -/
def Val.recipRoot : Val → Exact
  | .nan => .val .nan
  | .inf s => .val (if s then .nan else .zero false)
  | .zero s => .val (.inf s)
  | .fin s m e => if s then .val .nan else .real false (.rsq m e)

/-- 2^a; beyond ±4,096 every format overflows or rounds as a value next to zero does. -/
def Val.pow2 : Val → Exact
  | .nan => .val .nan
  | .inf s => .val (if s then .zero false else .inf false)
  | .zero _ => .val (.fin false 1 0)
  | .fin s m e =>
    let t := shiftFloor m e
    if t.1 ≥ 4096 then .val (.fin false 1 (signed s 5000))
    else if t.2 then .val (.fin false 1 (signed s t.1))
    else .real false (.exp2 s m e)

/-- log2 a. -/
def Val.logTwo : Val → Exact
  | .nan => .val .nan
  | .inf s => .val (if s then .nan else .inf false)
  | .zero _ => .val (.inf true)
  | .fin s m e =>
    let n : Int := e + m.log2
    if s then .val .nan
    else if m = 2 ^ m.log2 then .val (Val.ofInt n 0)
    else .real (decide (n < 0)) (.log2 m e)

/-- Table 7.4: functions 0 to 3 and 6 of two or three values. -/
def Fmt.arith (f : Fmt) (r : Rnd) (fn : Nat) (a b c : Nat) : Nat :=
  let rdn := r.mode == .rdn
  let x := f.val a
  let y := f.val b
  match fn with
  | 0 => f.round r false (x.add rdn y)
  | 1 => f.round r false (x.add rdn y.neg)
  | 2 => f.round r false (x.mul y)
  | 3 => f.round r false ((x.mul y).add rdn (f.val c))
  | _ => f.roundExact r false (x.div y)

/-- a counts as less than b, −0 below +0 (R174). -/
def Val.below (x y : Val) : Bool :=
  match x, y with
  | .zero a, .zero b => a && !b
  | _, _ => x.less y

/-- R174. -/
def Fmt.pick (f : Fmt) (max : Bool) (a b : Nat) : Nat :=
  match f.val a, f.val b with
  | .nan, .nan => f.nan
  | .nan, _ => b
  | _, .nan => a
  | x, y => if max then (if x.below y then b else a) else (if y.below x then b else a)

/-- OP 0x25, functions 0 to 4 (R175). -/
def Fmt.unary (f : Fmt) (r : Rnd) (fn : Nat) (a : Nat) : Nat :=
  let v := f.val a
  f.roundExact r false
    (match fn with
     | 0 => v.root
     | 1 => v.recip
     | 2 => v.recipRoot
     | 3 => v.pow2
     | _ => v.logTwo)

/-- R176. -/
def Fmt.toIntegral (f : Fmt) (r : Rnd) (a : Nat) : Nat :=
  match f.val a with
  | .fin s m e =>
    let n := roundInt r s (.dy m e)
    if n = 0 then (if s then f.signBit else 0) else f.round Rnd.rne false (.fin s n 0)
  | .nan => f.nan
  | _ => a

/-- 07 Table 7.6: the class bit of an encoding. -/
def Fmt.classBit (f : Fmt) (a : Nat) : Nat :=
  let neg := bitOf a (f.expo + f.frac)
  match f.val a with
  | .nan => if bitOf a (f.frac - 1) then 9 else 8
  | .inf _ => if neg then 0 else 7
  | .zero _ => if neg then 3 else 4
  | .fin _ _ _ =>
    if field a f.frac f.expo = 0 then (if neg then 2 else 5) else (if neg then 1 else 6)

/-- 04 Table 4.5 on float values, by R178: codes 10 and 11 are unordered and ordered. -/
def Val.cond (code : Nat) (x y : Val) : Bool :=
  let nan := x == .nan || y == .nan
  let lt := !nan && x.less y
  let gt := !nan && y.less x
  match code with
  | 0 => !nan && !lt && !gt
  | 1 => nan || lt || gt
  | 2 => lt
  | 3 => !nan && !lt
  | 6 => !nan && !gt
  | 7 => gt
  | 10 => nan
  | 11 => !nan
  | _ => false

/-- R179. -/
def convertFloat (dst src : Fmt) (r : Rnd) (sat : Bool) (a : Nat) : Nat :=
  match src.val a with
  | .nan => dst.nan
  | v => dst.round r (sat && dst.width == 8) v

/-- Bounds of an integer type of w bits. -/
def intBounds (w : Nat) (isSigned : Bool) : Int × Int :=
  if isSigned then (-(2 ^ (w - 1) : Nat), ((2 ^ (w - 1) - 1 : Nat) : Int)) else (0, ((2 ^ w - 1 : Nat) : Int))

end Sys2Proof.Machine
end

