-- ==== Sys2Proof/Machine/BlockFmt.lean ====
section
/-! DEFINITION. The Decnor E2M1 block: decoding, the quantiser, scale-and-accumulate (05 R117 to R125). -/
namespace Sys2Proof.Machine

/-- Magnitudes of 05 Table 5.5 in units of 1/4. -/
def e2m1Quarters (code : Nat) : Nat :=
  match code % 8 with
  | 0 => 0
  | 1 => 2
  | 2 => 4
  | 3 => 6
  | 4 => 8
  | 5 => 12
  | 6 => 16
  | _ => 24

/-- Sign and magnitude in quarters of a code under a header (R117, R118). -/
def codeQuarters (code header : Nat) : Bool × Nat :=
  if code = 8 then (bitOf header 15, field header 9 6) else (decide (8 ≤ code), e2m1Quarters code)

/-- R119: the value of a code under a header. A zero special value has the sign SS, so K = 0 with SS = 1 makes −0, where R119
says no more than "a zero" (DEDUCED, log 62). -/
def blockVal (code header : Nat) : Val :=
  let e := header % 512
  if e = 0 then .zero false
  else if e = 511 then .nan
  else
    let q := codeQuarters code header
    if q.2 = 0 then .zero q.1 else .fin q.1 q.2 ((e : Int) - 258)

/-- The value of a code outside a block context, in quarters (Table 5.5 without a special value, which reads as −0). -/
def plainQuarters (code : Nat) : Int := signed (decide (8 ≤ code)) (e2m1Quarters code)

/-- The element of a block in quarters, without the scale; none for a NaN block (R123). -/
def blockQuarters (code header : Nat) : Option Int :=
  let e := header % 512
  if e = 511 then none
  else if e = 0 then some 0
  else
    let q := codeQuarters code header
    some (signed q.1 q.2)

/-! ## The quantiser -/

/-- Magnitude of a value in units of 2^lo. -/
def Val.units (lo : Int) : Val → Nat
  | .fin _ m e => m * 2 ^ (e - lo).toNat
  | _ => 0

/-- The least exponent among values, from a first one. -/
def minExpo (acc : Int) : List Val → Int
  | [] => acc
  | .fin _ _ e :: t => minExpo (min acc e) t
  | _ :: t => minExpo acc t

/-- The candidate codes of step 5 of R120 for a sign: (code, magnitude in quarters). -/
def candidates (neg : Bool) (special : Option (Bool × Nat)) : List (Nat × Nat) :=
  let plain := (0, 0) :: (List.range 7).map fun i => ((if neg then 9 else 1) + i, e2m1Quarters (i + 1))
  match special with
  | some (s, k) => if s == neg then plain ++ [(8, k)] else plain
  | none => plain

/-- The nearest candidate to u / (4 d) quarters, with u a magnitude and d the unit: on a tie the code with bit 0 clear. -/
def nearestCode (u d : Nat) : List (Nat × Nat) → (Nat × Nat) → Nat
  | [], best => best.1
  | (c, q) :: t, best =>
    let dist := ((u : Int) - q * d).natAbs
    if dist < best.2 ∨ (dist = best.2 ∧ c % 2 = 0 ∧ best.1 % 2 = 1) then nearestCode u d t (c, dist)
    else nearestCode u d t best

/-- R120: header and the 32 codes. -/
def quantise (xs : List Val) : Nat × List Nat :=
  let zeros := List.replicate xs.length 0
  if xs.any fun x => match x with
      | .nan | .inf _ => true
      | _ => false
  then (511, zeros)
  else
    let lo := minExpo 0 xs - 3
    let us := xs.map (Val.units lo)
    let amax := us.foldl max 0
    if amax = 0 then (0, zeros)
    else
      -- in units of 2^lo: log2 amax, the scale, and a quarter of the scale
      let l := amax.log2
      let up := if l < 4 then 4 - l else 0
      let amax := amax * 2 ^ up
      let us := us.map (· * 2 ^ up)
      let quarter := 2 ^ (l + up - 4)
      let e : Int := lo + l - 2 + 256
      let at_ := (us.findIdx? (· == amax)).getD 0
      let k :=
        if amax > 24 * quarter then
          let n := amax / quarter
          let r := amax % quarter
          if 2 * r > quarter ∨ (2 * r = quarter ∧ n % 2 = 1) then n + 1 else n
        else 0
      let ss := k != 0 && (xs.getD at_ .nan).sign
      let special :=
        if k = 0 ∨ ((List.range 8).any fun c => e2m1Quarters c == k) then none else some (ss, k)
      let code (x : Val) (u : Nat) : Nat :=
        if u = 0 then 0 else nearestCode u quarter (candidates x.sign special) (0, u)
      (bit ss * 2 ^ 15 + k * 2 ^ 9 + e.toNat, (xs.zip us).map fun p => code p.1 p.2)

/-! ## Scale-and-accumulate -/

/-- R125, R200: the accumulator's new encoding; `none` leaves it unchanged. -/
def scaleAcc (f : Fmt) (r : Rnd) (acc : Nat) (p : Option Int) (unit : Int) (ea eb : Nat) : Option Nat :=
  if ea = 0 ∨ eb = 0 then none
  else
    match p with
    | none => some f.nan
    | some p =>
      if ea = 511 ∨ eb = 511 then some f.nan
      else
        some (f.round r false ((f.val acc).add (r.mode == .rdn) (Val.ofInt p (unit + ea + eb - 512))))

end Sys2Proof.Machine
end

