-- ==== Sys2Proof/Machine/Memory.lean ====
section
/-! DEFINITION. Scalar loads and stores, atomics, fences, waits and `probe` (15 R321, R322, R331 to R336). -/
namespace Sys2Proof.Machine

/-- A scalar load of n bytes by one operation, zero-extended into GR(D) (R321, R322). -/
def loadInto (d : BitVec 5) (op : MemOp) : M Unit := do
  let s ← get
  let r ← perform s.me [op]
  change fun s => s.setG d (BitVec.ofNat 64 (ofBytes (r.headD ([], false)).1))
  complete

/-- A scalar store by one operation. -/
def storeFrom (op : MemOp) : M Unit := do
  let s ← get
  let _ ← perform s.me [op]
  complete

/-- R321. -/
def execLd (sz : BitVec 2) (f : RiF) (s : State) : Res :=
  s.run (encRi 0x10 (sz.setWidth 6) f) (loadInto f.d (plainOp (s.riAddr f) (sizeBytes sz.toNat) .load))

/-- R321. -/
def execSt (sz : BitVec 2) (f : RiF) (s : State) : Res :=
  s.run (encRi 0x11 (sz.setWidth 6) f)
    (storeFrom (plainOp (s.riAddr f) (sizeBytes sz.toNat) (.store (toBytes (s.rg f.b).toNat (sizeBytes sz.toNat)))))

/-- An operation of a VM word: naturally aligned, with the word's ORD and SCOPE (R316). -/
def vmOp (f : VmF) (va : Int) (act : Act) : MemOp :=
  { va, n := sizeBytes f.ew.toNat, align := true, strict := true, act, ord := f.ord.toNat, scope := f.scope.toNat }

/-- R322. -/
def execLdOrdered (f : VmF) (s : State) : Res :=
  s.run (encVm 0x12 0 f) (loadInto f.d (vmOp f (s.vmAddr f) .load))

/-- R322. -/
def execStOrdered (f : VmF) (s : State) : Res :=
  s.run (encVm 0x13 0 f)
    (storeFrom (vmOp f (s.vmAddr f) (.store (toBytes (s.rg f.b).toNat (sizeBytes f.ew.toNat)))))

/-- R331: an atomic of 15 Table 15.6; GR(D) is the old value. -/
def scalarAmo (fn : Nat) (f : VmF) (s : State) : Res :=
  let n := sizeBytes f.ew.toNat
  s.run (encVm 0x60 (BitVec.ofNat 6 fn) f)
    (loadInto f.d (vmOp f (s.vmAddr f)
      (.amo fn ((s.rg f.b).toNat % 2 ^ (8 * n)) ((s.rg f.c).toNat % 2 ^ (8 * n)))))

/-- R331. -/
def execAmoSwap (f : VmF) (s : State) : Res := scalarAmo 0 f s
/-- R331. -/
def execAmoCas (f : VmF) (s : State) : Res := scalarAmo 1 f s
/-- R331. -/
def execAmoAdd (f : VmF) (s : State) : Res := scalarAmo 2 f s
/-- R331. -/
def execAmoAnd (f : VmF) (s : State) : Res := scalarAmo 3 f s
/-- R331. -/
def execAmoOr (f : VmF) (s : State) : Res := scalarAmo 4 f s
/-- R331. -/
def execAmoXor (f : VmF) (s : State) : Res := scalarAmo 5 f s
/-- R331. -/
def execAmoMin (f : VmF) (s : State) : Res := scalarAmo 6 f s
/-- R331. -/
def execAmoMax (f : VmF) (s : State) : Res := scalarAmo 7 f s
/-- R331. -/
def execAmoMinn (f : VmF) (s : State) : Res := scalarAmo 8 f s
/-- R331. -/
def execAmoMaxn (f : VmF) (s : State) : Res := scalarAmo 9 f s

/-- The pending scatter-addition number n is performed (R333, R313). -/
def execScatterAddPerform (n : Nat) (s : State) : Res :=
  match s.adds[n]? with
  | none => .next s
  | some a => .next (s.performAdd a)

/-- Scatter-addition instructions of the acting sequencer that are not yet performed (R334). -/
def State.pendingIns (s : State) : Nat := ((s.addsOf s.hart.core s.hart.sq).map (·.ins)).eraseDups.length

/-- R334. Of the selected classes only scatter-additions outlive their instruction here; vector loads and stores are performed
with it (DESIGN CHOICE, log 11). -/
def execVwait (f : RrF) (s : State) : Res :=
  s.run (encRr 0x63 0 f) do
    let g := (s.rg f.a).toNat
    if bitOf g 3 then change fun s => s.setG f.d (BitVec.ofNat 64 (if bitOf g 2 then min s.pendingIns 64 else 0))
    else
      if bitOf g 2 then drainOwn
      change fun s => s.setG f.d 0
    complete

/-- R335: the model performs every access in program order but the scatter-additions; `.sc` takes a ticket (R306). -/
def execFence (f : VmF) (s : State) : Res :=
  s.run (encVm 0x64 0 f) do
    drainOwn
    change fun s => { s with ticket := s.ticket + bit (f.ord == 4) }
    complete

/-- HOME and PLACE of 15 Table 15.8. -/
def homeCode (pa : Nat) : Nat × Nat :=
  match homeOf pa with
  | .dram d => (0, d)
  | .sram c => (1, c)
  | .host => (2, 0)
  | .fabric _ => (3, 0)
  | .hole => (0, 0)

/-- The result of `probe` (15 Table 15.8). -/
def State.probeWord (s : State) (va : Int) : Word :=
  if va < 0 ∨ va ≥ ((2 ^ 57 : Nat) : Int) then 0
  else
    match s.walk s.hart.ctx va.toNat with
    | none => 0
    | some l =>
      let pa := l.base + va.toNat % l.size
      let home := homeCode pa
      let can r := bit (!rightDenied l.val s.hart.level r)
      BitVec.ofNat 64 (2 ^ 63 + leafOrdk l.val * 2 ^ 61 + bit (leafStaged l.val) * 2 ^ 60 + bit (leafFloat l.val) * 2 ^ 59
        + bit (leafPubp l.val) * 2 ^ 58 + bit (leafMig l.val) * 2 ^ 57 + l.lvl * 2 ^ 55 + home.1 * 2 ^ 52
        + home.2 * 2 ^ 44 + (if home.1 ≤ 1 then bit (s.linePoisoned (lineOf pa)) * 2 ^ 4 else 0) + can .fetch * 2 ^ 2
        + can .store * 2 + can .load)

/-- R336. A walk through poison ends the context (R471). -/
def execProbe (f : VmF) (s : State) : Res :=
  let va := s.vmAddr f
  .next (if 0 ≤ va ∧ va < 2 ^ 57 ∧ s.walkPoisoned s.hart.ctx va.toNat then s.fatalHere causePoison s.hart.pc
    else (s.setG f.d (s.probeWord va)).advance)

end Sys2Proof.Machine
end

