-- ==== Sys2Proof/Machine/Vector.lean ====
section
/-! DEFINITION. What vector instructions share: issue checks, activity, elements, poison and the high-water rectangle
(03 R59 to R62, 07 R155 to R160, 22 R444). -/
namespace Sys2Proof.Machine

/-! ## Activity -/

/-- All of the 16,384 mask bits. -/
def maskOnes : Nat := 2 ^ 16384 - 1

/-- MR(k): m0 reads all ones (R59). -/
def Vec.mr (v : Vec) (k : Nat) : Nat := if k = 0 then maskOnes else (v.m.toList.getD k 0).toNat

/-- The governing mask of MK and MN (R90). -/
def Vec.governing (v : Vec) (msk : BitVec 3) (mn : BitVec 1) : Nat :=
  let m := v.mr msk.toNat
  if mn = 1 then maskOnes - m else m

/-- The positions below n of the 1 bits of a number, rising. -/
def onesBelow (x n : Nat) : List Nat := (List.range n).filter fun i => bitOf x i

/-- The active elements (R4), rising. -/
def Vec.active (v : Vec) (msk : BitVec 3) (mn : BitVec 1) : List Nat :=
  (onesBelow (v.governing msk mn) v.vl).filter fun e => decide (v.vstart ≤ e)

/-! ## Elements -/

/-- The bits of a vector register. -/
def Vec.bits (v : Vec) (n : Nat) : Nat := (v.v.toList.getD n 0).toNat
/-- The poison bits of a vector register. -/
def Vec.poison (v : Vec) (n : Nat) : Nat := (v.pois.toList.getD n 0).toNat

/-- VR(n, e, w) (R155). -/
def Vec.elem (v : Vec) (n e w : Nat) : Nat := field (v.bits n) (w * e) w

/-- Some bits [at + len − 1 : at] of a register lie in a poisoned group (R159). -/
def poisonHit (pois at_ len : Nat) : Bool :=
  pois != 0 && len != 0 && (List.range ((at_ + len - 1) / 64 + 1 - at_ / 64)).any fun k => bitOf pois (at_ / 64 + k)

/-- An element of some elements of a register lies in a poisoned group. -/
def Vec.hits (v : Vec) (n w : Nat) (es : List Nat) : Bool :=
  let p := v.poison n
  p != 0 && es.any fun e => poisonHit p (w * e) w

/-- Bits of a register with some pieces (position, length, value) written in turn. -/
def writePieces (old : Nat) (ps : List (Nat × Nat × Nat)) : Nat :=
  ps.foldl (fun acc p => setField acc p.1 p.2.1 p.2.2) old

/-- Bits set for every bit position that some pieces cover. -/
def coverOf (ps : List (Nat × Nat × Nat)) : Nat :=
  ps.foldl (fun acc p => acc ||| ((2 ^ p.2.1 - 1) * 2 ^ p.1)) 0

/-- HWM widened by a write of register n whose highest bit is `top` (R444). -/
def widenHwm (hwm : Word) (n top : Nat) : Word :=
  let ext := wbits hwm 0 8
  let cell := top / 512 + 1
  if ext = 0 then wset (wset (wset hwm 16 5 n) 8 5 n) 0 8 cell
  else wset (wset (wset hwm 16 5 (max (wbits hwm 16 5) n)) 8 5 (min (wbits hwm 8 5) n)) 0 8 (max ext cell)

/-- Pieces written into a register: bits, poison of groups written in full cleared (R160), the rectangle widened. -/
def Vec.write (v : Vec) (n : BitVec 5) (ps : List (Nat × Nat × Nat)) : Vec :=
  match ps.filter fun p => p.2.1 != 0 with
  | [] => v
  | ps =>
    let cover := coverOf ps
    let pois := v.poison n.toNat
    let pois' :=
      if pois = 0 then 0
      else (onesBelow pois 1024).foldl (fun acc j =>
        if field cover (64 * j) 64 = 2 ^ 64 - 1 then acc - 2 ^ j else acc) pois
    { v with
      v := v.v.set n.toNat (BitVec.ofNat 65536 (writePieces (v.bits n.toNat) ps)) n.isLt
      pois := v.pois.set n.toNat (BitVec.ofNat 1024 pois') n.isLt
      hwm := widenHwm v.hwm n.toNat cover.log2 }

/-- Elements written into a register: (element, value) at width w. -/
def Vec.writeElems (v : Vec) (n : BitVec 5) (w : Nat) (l : List (Nat × Nat)) : Vec :=
  v.write n (l.map fun x => (w * x.1, w, x.2))

/-- Mask bits written (R59): m0 ignores writes (R84). -/
def Vec.writeMask (v : Vec) (k : BitVec 3) (l : List (Nat × Bool)) : Vec :=
  if k = 0 then v
  else
    { v with m := v.m.set k.toNat (BitVec.ofNat 16384 (l.foldl (fun acc x => setField acc x.1 1 (bit x.2)) (v.mr k.toNat)))
                    k.isLt }

/-! ## Issue -/

/-- The lane under check moves on (R15). Every vector instruction does this at its issue, with or without a lane group, but
for `setvl`, `vcfg`, `vsave` and `vrest`; a column instruction does not (DESIGN CHOICE, log 65). -/
def State.nextLane (s : State) : State :=
  let c := s.coreOf s.hart.core
  s.setCore s.hart.core { c with lane := (c.lane + 1) % 64 }

/-- Steps 6 and 7 of Table 4.7 for a vector word: the unit (R25), the registers named (R61), the widths of operands of
VL elements (R62). A word that these refuse does not move the lane under check on; one that is refused after them, by its MODE (R111)
or its VSTART (R182), has (DESIGN CHOICE, log 65). -/
def vecIssue (o : Op) (w : Word) (regs widths : List Nat) : M Unit := do
  let s ← get
  let v := s.hart.vec
  if Legal.usesF64 o w && !s.hasF64 then raise causeAbsent w
  if regs.any fun r => decide (regCount v.nreg ≤ r) then raise causeIllegal w
  if widths.any fun x => decide (v.vlmax < v.vl * x) then raise causeIllegal w
  change State.nextLane

/-- An encoding that is ILLEGAL in every state is so on every part (R26). -/
def encodingIllegal (w : Word) (bad : Bool) : M Unit := if bad then raise causeIllegal w else pure ()

/-- Active elements of a register are consumed (R159). -/
def consume (n w : Nat) (es : List Nat) : M Unit := do
  let s ← get
  if s.hart.vec.hits n w es then throw .poison

/-- The vector side changes, VSTART becomes 0 and the instruction completes (R60). -/
def vecDone (f : Vec → Vec) : M Unit := do
  change fun s => s.setVec { f s.hart.vec with vstart := 0 }
  complete

/-! ## Rounding of a vector instruction -/

/-- The mode of an RM field, DYN resolved (R88, R111): MODE of 110b or 111b traps ILLEGAL. -/
def rmMode (w : Word) (rm : BitVec 3) : M Mode := do
  let s ← get
  let code := if rm = 6 then wbits s.hart.rmode 0 3 else rm.toNat
  match modeOf code with
  | some m => return m
  | none => raise causeIllegal w

/-- The rounding of element e under a mode: its index is RMODE.SBASE + e (R114). -/
def Hart.rndAt (h : Hart) (m : Mode) (e : Nat) : Rnd :=
  { mode := m, key := h.seed, idx := BitVec.ofNat 64 (wbits h.rmode 24 40 + e) }

/-- CANON of RMODE. -/
def Hart.canon (h : Hart) : Bool := bitOf h.rmode.toNat 4

end Sys2Proof.Machine
end

