-- ==== Sys2Proof/Machine/VMem.lean ====
section
/-! DEFINITION. Vector memory instructions: unit-stride, strided, indexed, segment, byte-masked, element-ordered, atomic
and scatter-add (15 R318, R320, R323 to R333). -/
namespace Sys2Proof.Machine

/-! ## Element addresses (15 Table 15.3) -/

/-- How a form finds the address of element e. -/
inductive Shape where
  | unit
  | strided
  | indexed
  deriving DecidableEq, Repr

/-- addr(e) of a form that moves one field per element. -/
def State.elemAddr (s : State) (f : VmF) (sh : Shape) (e : Nat) : Int :=
  let w := widthOf f.ew
  let base := s.vmAddr f
  match sh with
  | .unit => base + (e * (w / 8) : Nat)
  | .strided => base + (e : Int) * (s.rg f.b).toInt
  | .indexed => base + (s.hart.vec.elem f.b.toNat e w : Nat)

/-- The element operation of a word: alignment is asked for by the forms of `.sc` and the atomics (15 Table 15.1). -/
def elemOp (f : VmF) (va : Int) (n : Nat) (align strict : Bool) (act : Act) : MemOp :=
  { va, n, align, strict, act, ord := f.ord.toNat, scope := f.scope.toNat }

/-- Registers of a form with one field per element. -/
def shapeRegs (f : VmF) (sh : Shape) : List Nat :=
  match sh with
  | .indexed => [f.d.toNat, f.b.toNat]
  | _ => [f.d.toNat]

/-- The index elements are consumed (R159). -/
def consumeIndex (f : VmF) (sh : Shape) (es : List Nat) : M Unit := do
  match sh with
  | .indexed => consume f.b.toNat (widthOf f.ew) es
  | _ => pure ()

/-- The checks of R317 on operations, before any source is consumed; accesses that wait for other devices have passed them
(R303). -/
def probeOps (ops : List MemOp) : M Unit := do
  let s ← get
  if (s.flightOf s.agent ops).isSome then pure ()
  else
    match s.firstFail s.me ops with
    | some (_, c, v) => failCheck c v
    | none => pure ()

/-! ## Loads -/

/-- Loaded elements written into a register; a group that receives a byte of a poisoned line is poisoned (R318). -/
def Vec.loadElems (v : Vec) (n : BitVec 5) (w : Nat) (es : List Nat) (rs : List (List Byte × Bool)) : Vec :=
  let l := es.zip rs
  let v1 := v.writeElems n w (l.map fun x => (x.1, ofBytes x.2.1))
  let bad := l.filterMap fun x => if x.2.2 then some (w * x.1 / 64) else none
  if bad.isEmpty then v1
  else
    let p := BitVec.ofNat 1024 (bad.foldl (fun acc j => acc ||| 2 ^ j) (v1.poison n.toNat))
    { v1 with pois := v1.pois.set n.toNat p n.isLt }

/-- R324 for a load of one field per element. -/
def loadShape (o : Op) (w : Word) (f : VmF) (sh : Shape) (align : Bool) : M Unit := do
  let ew := widthOf f.ew
  vecIssue o w (shapeRegs f sh) [ew]
  let s ← get
  let es := s.hart.vec.active f.msk f.mn
  consumeIndex f sh es
  let rs ← perform s.me (es.map fun e => elemOp f (s.elemAddr f sh e) (ew / 8) align false .load)
  vecDone fun v => v.loadElems f.d ew es rs

/-- R323, R324. -/
def execVld (f : VmF) (s : State) : Res :=
  let w := encVm 0x50 0 f
  s.run w (loadShape .vld w f .unit false)

/-- How many of the operations of an instruction of the acting sequencer can be tried: those under way at other devices, or those
before the first that fails a check here, when that is not the first of all (R303, R325). -/
def State.tried (s : State) (ops : List MemOp) : Nat :=
  match s.flights.find? fun f => f.agent == s.agent && f.start == s.rix && f.vas.isPrefixOf (ops.map (·.va)) with
  | some f => f.vas.length
  | none =>
    match s.firstFail s.me ops with
    | some (i, _, _) => if i = 0 then ops.length else i
    | none => ops.length

/-- The operation that remote access number k of a flight is of. -/
def Flight.opOf (f : Flight) (s : State) (ops : List MemOp) (k : Nat) : Nat :=
  let ends := (List.range ops.length).map fun i => (s.requestsFor ((ops.zip f.parts).take (i + 1))).length
  (ends.findIdx? fun n => decide (k < n)).getD 0

/-- The loads of `vldff`: they are cut before the first that another device refuses, when that is not the first of all (R325,
R328). -/
def performTrimmed (ops : List MemOp) : M (List (List Byte × Bool)) := do
  let s ← get
  let ops := ops.take (s.tried ops)
  tryCatch (perform s.me ops) fun e => do
    let t ← get
    match e, t.flights.find? (fun f => f.agent == s.agent && f.start == s.rix && f.vas == ops.map (·.va)) with
    | .trap _ _ _ true, some f =>
      let i := f.opOf t ops (t.rix - s.rix)
      if i = 0 then throw e
      set { t.setFlight f fun x => { x with vas := x.vas.take i, parts := x.parts.take i } with rix := s.rix }
      perform s.me (ops.take i)
    | e, _ => throw e

/-- R325: the first failing element, unless it is the lowest active one, trims VL. -/
def execVldff (f : VmF) (s : State) : Res :=
  let w := encVm 0x50 0 f
  s.run w do
    let ew := widthOf f.ew
    vecIssue .vldff w [f.d.toNat] [ew]
    let s ← get
    let es := s.hart.vec.active f.msk f.mn
    let rs ← performTrimmed (es.map fun e => elemOp f (s.elemAddr f .unit e) (ew / 8) false false .load)
    vecDone fun v => { v.loadElems f.d ew (es.take rs.length) rs with vl := (es[rs.length]?).getD v.vl }

/-- R323, R324. -/
def execVlds (f : VmF) (s : State) : Res :=
  let w := encVm 0x51 0 f
  s.run w (loadShape .vlds w f .strided false)

/-- R323, R324. -/
def execVldx (f : VmF) (s : State) : Res :=
  let w := encVm 0x52 0 f
  s.run w (loadShape .vldx w f .indexed false)

/-- R330. -/
def execVldscUnit (f : VmF) (s : State) : Res :=
  let w := encVm 0x54 0 f
  s.run w (loadShape .vldscUnit w f .unit true)

/-- R330. -/
def execVldscStrided (f : VmF) (s : State) : Res :=
  let w := encVm 0x54 1 f
  s.run w (loadShape .vldscStrided w f .strided true)

/-- R330. -/
def execVldscIndexed (f : VmF) (s : State) : Res :=
  let w := encVm 0x54 2 f
  s.run w (loadShape .vldscIndexed w f .indexed true)

/-! ## Stores -/

/-- R324 for a store of one field per element; the sources are consumed after the checks (R318). -/
def storeShape (o : Op) (w : Word) (f : VmF) (sh : Shape) (align : Bool) : M Unit := do
  let ew := widthOf f.ew
  vecIssue o w (shapeRegs f sh) [ew]
  let s ← get
  let es := s.hart.vec.active f.msk f.mn
  consumeIndex f sh es
  let ops := es.map fun e =>
    elemOp f (s.elemAddr f sh e) (ew / 8) align false (.store (toBytes (s.hart.vec.elem f.d.toNat e ew) (ew / 8)))
  probeOps ops
  consume f.d.toNat ew es
  let _ ← perform s.me ops
  vecDone id

/-- R323, R324. -/
def execVst (f : VmF) (s : State) : Res :=
  let w := encVm 0x58 0 f
  s.run w (storeShape .vst w f .unit false)

/-- R323, R324, R326. -/
def execVsts (f : VmF) (s : State) : Res :=
  let w := encVm 0x59 0 f
  s.run w (storeShape .vsts w f .strided false)

/-- R323, R324, R326. -/
def execVstx (f : VmF) (s : State) : Res :=
  let w := encVm 0x5A 0 f
  s.run w (storeShape .vstx w f .indexed false)

/-- R330. -/
def execVstscUnit (f : VmF) (s : State) : Res :=
  let w := encVm 0x5D 0 f
  s.run w (storeShape .vstscUnit w f .unit true)

/-- R330. -/
def execVstscStrided (f : VmF) (s : State) : Res :=
  let w := encVm 0x5D 1 f
  s.run w (storeShape .vstscStrided w f .strided true)

/-- R330. -/
def execVstscIndexed (f : VmF) (s : State) : Res :=
  let w := encVm 0x5D 2 f
  s.run w (storeShape .vstscIndexed w f .indexed true)

/-! ## Segments -/

/-- Fields of a segment form: k of R327. -/
def segCount (fn : BitVec 6) : Nat := fn.toNat % 8 + 1

/-- Width of a field in memory: wm of R327. -/
def segWidth (fn : BitVec 6) : Nat := widthOf (BitVec.ofNat 3 (fn.toNat / 8))

/-- Register D + i. -/
def regPlus (d : BitVec 5) (i : Nat) : BitVec 5 := BitVec.ofNat 5 (d.toNat + i)

/-- addr(e, i) of a segment form (15 Table 15.3). -/
def State.segAddr (s : State) (f : VmF) (fn : BitVec 6) (e i : Nat) : Int :=
  s.vmAddr f + ((e * segCount fn + i) * (segWidth fn / 8) : Nat)

/-- Elements and fields in the order of R324: every field of an element before the next element. -/
def segPairs (es : List Nat) (k : Nat) : List (Nat × Nat) := es.flatMap fun e => (List.range k).map fun i => (e, i)

/-- R327. -/
def execVldseg (fn : BitVec 6) (f : VmF) (s : State) : Res :=
  let w := encVm 0x53 fn f
  s.run w do
    let ew := widthOf f.ew
    let k := segCount fn
    vecIssue .vldseg w ((List.range k).map fun i => f.d.toNat + i) [ew]
    let s ← get
    let es := s.hart.vec.active f.msk f.mn
    let ps := segPairs es k
    let rs ← perform s.me (ps.map fun p => elemOp f (s.segAddr f fn p.1 p.2) (segWidth fn / 8) false false .load)
    let l := ps.zip rs
    vecDone fun v => (List.range k).foldl (fun v i =>
      v.loadElems (regPlus f.d i) ew es ((l.filter fun x => x.1.2 == i).map (·.2))) v

/-- R327. -/
def execVstseg (fn : BitVec 6) (f : VmF) (s : State) : Res :=
  let w := encVm 0x5B fn f
  s.run w do
    let ew := widthOf f.ew
    let k := segCount fn
    let regs := (List.range k).map fun i => f.d.toNat + i
    vecIssue .vstseg w regs [ew]
    let s ← get
    let es := s.hart.vec.active f.msk f.mn
    let n := segWidth fn / 8
    let ops := (segPairs es k).map fun p =>
      elemOp f (s.segAddr f fn p.1 p.2) n false false (.store (toBytes (s.hart.vec.elem (f.d.toNat + p.2) p.1 ew) n))
    probeOps ops
    if regs.any fun r => s.hart.vec.hits r ew es then throw .poison
    let _ ← perform s.me ops
    vecDone id

/-! ## Byte-masked stores -/

/-- The active bytes of `vstbm` below n, whatever VL holds (R329). -/
def Vec.activeBytes (v : Vec) (msk : BitVec 3) (mn : BitVec 1) (n : Nat) : List Nat := onesBelow (v.governing msk mn) n

/-- R329. -/
def execVstbm (f : VmF) (s : State) : Res :=
  let w := encVm 0x5C 0 f
  s.run w do
    vecIssue .vstbm w [f.d.toNat] []
    let s ← get
    let v := s.hart.vec
    let n := (s.rg f.b).toNat
    if v.vstart ≠ 0 ∨ v.vlmax / 8 < n then raise causeIllegal w
    let bs := v.activeBytes f.msk f.mn n
    let ops := bs.map fun (i : Nat) =>
      elemOp f (s.vmAddr f + (i : Int)) 1 false false (.store [BitVec.ofNat 8 (v.elem f.d.toNat i 8)])
    probeOps ops
    consume f.d.toNat 8 bs
    let _ ← perform s.me ops
    vecDone id

/-! ## Atomics and scatter-additions -/

/-- R332. -/
def vectorAmo (o : Op) (fn : Nat) (f : VmF) (s : State) : Res :=
  let w := encVm 0x61 (BitVec.ofNat 6 fn) f
  s.run w do
    let ew := widthOf f.ew
    vecIssue o w [f.d.toNat, f.b.toNat, f.c.toNat] [ew]
    if f.d = f.b ∨ f.d = f.c then raise causeIllegal w
    let s ← get
    let v := s.hart.vec
    let es := v.active f.msk f.mn
    consume f.b.toNat ew es
    let ops := es.map fun e =>
      elemOp f (s.elemAddr f .indexed e) (ew / 8) true true
        (.amo fn (v.elem f.c.toNat e ew) (if fn = 1 then v.elem f.d.toNat e ew else 0))
    probeOps ops
    consume f.c.toNat ew es
    if fn = 1 then consume f.d.toNat ew es
    let rs ← perform s.me ops
    vecDone fun v => v.writeElems f.d ew ((es.zip rs).map fun x => (x.1, ofBytes x.2.1))

/-- R332. -/
def execVamoSwap (f : VmF) (s : State) : Res := vectorAmo .vamoSwap 0 f s
/-- R332. -/
def execVamoCas (f : VmF) (s : State) : Res := vectorAmo .vamoCas 1 f s
/-- R332. -/
def execVamoAdd (f : VmF) (s : State) : Res := vectorAmo .vamoAdd 2 f s
/-- R332. -/
def execVamoAnd (f : VmF) (s : State) : Res := vectorAmo .vamoAnd 3 f s
/-- R332. -/
def execVamoOr (f : VmF) (s : State) : Res := vectorAmo .vamoOr 4 f s
/-- R332. -/
def execVamoXor (f : VmF) (s : State) : Res := vectorAmo .vamoXor 5 f s
/-- R332. -/
def execVamoMin (f : VmF) (s : State) : Res := vectorAmo .vamoMin 6 f s
/-- R332. -/
def execVamoMax (f : VmF) (s : State) : Res := vectorAmo .vamoMax 7 f s
/-- R332. -/
def execVamoMinn (f : VmF) (s : State) : Res := vectorAmo .vamoMinn 8 f s
/-- R332. -/
def execVamoMaxn (f : VmF) (s : State) : Res := vectorAmo .vamoMaxn 9 f s

/-- Scatter-additions of a sequencer under way: the numbers of their instructions (R334). -/
def State.addIns (s : State) (core sq : Nat) : List Nat := ((s.addsOf core sq).map (·.ins)).eraseDups

/-- R333: the additions are issued; each is performed later. At most 64 instructions are under way (R334). -/
def execVsadd (f : VmF) (s : State) : Res :=
  let w := encVm 0x62 0 f
  s.run w do
    let ew := widthOf f.ew
    vecIssue .vsadd w [f.d.toNat, f.b.toNat] [ew]
    let s ← get
    let v := s.hart.vec
    let es := v.active f.msk f.mn
    let ins := (s.addIns s.hart.core s.hart.sq).foldl (fun n k => max n (k + 1)) 0
    consume f.b.toNat ew es
    let ops := es.map fun e =>
      elemOp f (s.elemAddr f .indexed e) (ew / 8) true true (.add (v.elem f.d.toNat e ew) ins)
    probeOps ops
    consume f.d.toNat ew es
    if 64 ≤ (s.addIns s.hart.core s.hart.sq).length then drainOwn
    let _ ← perform s.me ops
    vecDone id

end Sys2Proof.Machine
end

