-- ==== Sys2Proof/Machine/Sync.lean ====
section
/-! DEFINITION. Barriers and watermarks (20 R410 to R413). A line of another device is reached by reads and atomics: no
packet carries a barrier or a watermark access. -/
namespace Sys2Proof.Machine

/-! ## Lines -/

/-- The first piece of n bytes of a line that an agent accesses, with the checks of R5; a page under migration stalls a write
(R279). They are made once, also while the access waits for another device (R303). -/
def linePart (w : Who) (va n : Nat) (store : Bool) : M Part :=
  checkedOnce w va do
    let s ← get
    match s.checkAccess w.ctx w.level (if store then .store else .load) false true va n with
    | .error (c, v) => failCheck c v
    | .ok ps =>
      match ps with
      | p :: _ => if store && p.mig then throw .stall else return p
      | [] => raise causeXlate (BitVec.ofNat 64 va)

/-- The line at GR(r): a multiple of 64 (ALIGN), with the checks of R5 on its first n bytes. -/
def syncLine (r : BitVec 5) (n : Nat) (store : Bool) : M Part := do
  let s ← get
  let va := (s.rg r).toNat
  if va % 64 ≠ 0 then raise causeAlign (s.rg r)
  linePart s.me va n store

/-- Words of a line, read as one agent reads them: a poisoned line raises POISON. -/
def readLineWords (w : Who) (va n : Nat) : M (List Nat) := do
  let r ← perform w ((List.range n).map fun k => plainOp (va + 8 * k : Nat) 8 .load)
  return r.map fun x => ofBytes x.1

/-- Reserved bits of words 0 and 2 of a barrier line (20 Table 20.6). -/
def barrierReserved (w0 w2 : Nat) : Bool := field w0 48 13 != 0 || field w2 33 31 != 0

/-- EXPECT. -/
def barrierExpect (w0 : Nat) : Nat := field w0 0 48

/-- The barrier is complete. -/
def barrierComplete (w0 w1 : Nat) : Bool := decide (barrierExpect w0 ≤ w1)

/-- An access to a word of a line with a side at a scope (R283, R410 to R413). -/
def sideOp (va : Nat) (act : Act) (ord scope : Nat) : MemOp := { plainOp va 8 act with ord, scope }

/-- SCOPE of a barrier. -/
def barrierScope (w0 : Nat) : Nat := field w0 61 3

/-- Word 2 of a barrier line after an arrival: OVER set for one beyond EXPECT, FAILS raised by one that failed, up to its largest
value (R410). -/
def barrierNote (w2 : Nat) (excess failed : Bool) : Nat :=
  let x := if excess then w2 ||| 2 ^ 32 else w2
  if failed && decide (field w2 0 32 < 2 ^ 32 - 1) then x + 1 else x

/-- Word 2 of a barrier line takes the note of an arrival by compare-and-swap, from the value that it is taken to hold on; fuel
bounds the attempts. -/
def noteArrival (w : Who) (va scope : Nat) (excess failed : Bool) : Nat → Nat → M Unit
  | 0, _ => pure ()
  | fuel + 1, old => do
    let new := barrierNote old excess failed
    if new = old then pure ()
    else
      let r ← perform w [sideOp (va + 16) (.amo 1 new old) 2 scope]
      let got := ofBytes (r.headD ([], false)).1
      if got = old then pure () else noteArrival w va scope excess failed fuel got

/-- R410: an arrival of count c at a line that has passed its checks, with a release side at the wider of the barrier's SCOPE
and the agent's; the new COUNT. The codes of 04 Table 4.4 rise with the scopes. At another device's line it is an addition to
word 1, whose old value gives the new COUNT, and compare-and-swaps of word 2 until one finds it as it was read; each that does not
is a remote access more, so that the accesses made bound them (DEDUCED, log 29). -/
def arriveAt (w : Who) (va c : Nat) (failed : Bool) (wide : Nat) : M Nat := do
  let ws ← readLineWords w va 3
  let w0 := ws.getD 0 0
  let scope := max (barrierScope w0) wide
  let r ← perform w [sideOp (va + 8) (.amo 2 (c % 2 ^ 64) 0) 2 scope]
  let count := (ofBytes (r.headD ([], false)).1 + c) % 2 ^ 64
  let s ← get
  noteArrival w va scope (decide (barrierExpect w0 < count)) failed ((s.remotesOf w.agent).length + 2) (ws.getD 2 0)
  return count

/-! ## Instructions -/

/-- A sequencer waits in a `bwait` on a line of another device. -/
def State.pollsLine (s : State) (h : Hart) (line : Nat) : Bool :=
  h.live && h.waiting
    && (match h.held with
        | none => false
        | some w =>
          opOf w == 0x66 && fnOf w == 2
            && (match s.walk h.ctx (h.rg (rrOf w).a).toNat with
                | none => false
                | some l => lineOf (l.base + (h.rg (rrOf w).a).toNat % l.size) == line))

/-- An access of the package waits for the barrier of a line: parked on it, or at another device's line (R411). -/
def State.barrierWaited (s : State) (line : Nat) : Bool :=
  (s.parks.any fun p => p.key == .line line && p.cond == .barrier) || s.harts.any fun h => s.pollsLine h line

/-- R411. -/
def execBinit (f : RrF) (s : State) : Res :=
  let w := encRr 0x66 0 f
  s.run w do
    let p ← syncLine f.a 24 true
    let s ← get
    let b := (s.rg f.b).toNat
    if field b 48 13 ≠ 0 ∨ s.barrierWaited (lineOf p.pa) then raise causeIllegal w
    let ws ← readLineWords s.me p.va 2
    let _ ← perform s.me [plainOp p.va 24 (.store (toBytes b 8 ++ List.replicate 16 0))]
    change fun s => s.setG f.d (BitVec.ofNat 64 (ws.getD 1 0))
    complete

/-- The count of `arrive` (R411): 1 for B = 0, else the 1 bits of the mask below VL. -/
def arriveCount (v : Vec) (b : BitVec 5) : Nat := if b = 0 then 1 else popBits (v.mr b.toNat) v.vl

/-- R411. -/
def execArrive (f : RrF) (s : State) : Res :=
  let w := encRr 0x66 1 f
  s.run w do
    let p ← syncLine f.a 24 true
    let s ← get
    let ws ← readLineWords s.me p.va 3
    if barrierReserved (ws.getD 0 0) (ws.getD 2 0) then raise causeIllegal w
    drainOwn
    let n ← arriveAt s.me p.va (arriveCount s.hart.vec f.b) false 0
    change fun s => s.setG f.d (BitVec.ofNat 64 n)
    complete

/-- The answers of the agent's remote accesses are dropped, and it waits at the instruction and tries again (a wait on
another device's line) (DEDUCED, log 25). -/
def pollAgain (w : Who) : M Unit := do
  change fun s => s.settle w.agent
  throw .poll

/-- A word of a line read with an acquire side goes to GR(D), and the instruction completes. -/
def acquireWord (d : BitVec 5) (va scope : Nat) : M Unit := do
  let s ← get
  let r ← perform s.me [sideOp va .load 1 scope]
  change fun s => s.setG d (BitVec.ofNat 64 (ofBytes (r.headD ([], false)).1))
  complete

/-- R411. -/
def execBwait (f : RrF) (s : State) : Res :=
  let w := encRr 0x66 2 f
  s.run w do
    let p ← syncLine f.a 24 false
    let s ← get
    let ws ← readLineWords s.me p.va 3
    if barrierReserved (ws.getD 0 0) (ws.getD 2 0) then raise causeIllegal w
    if barrierComplete (ws.getD 0 0) (ws.getD 1 0) then acquireWord f.d (p.va + 16) (barrierScope (ws.getD 0 0))
    else if p.isRemote then pollAgain s.me
    else throw (.park (.line (lineOf p.pa)) .barrier p.va)

/-- R412. -/
def execWmpub (f : RrF) (s : State) : Res :=
  let w := encRr 0x95 1 f
  s.run w do
    let p ← syncLine f.a 16 true
    let s ← get
    let ws ← readLineWords s.me p.va 2
    if ws.getD 1 0 / 8 ≠ 0 then raise causeIllegal w
    drainOwn
    let r ← perform s.me [sideOp p.va (.amo 9 (s.rg f.b).toNat 0) 2 (ws.getD 1 0)]
    change fun s => s.setG f.d (BitVec.ofNat 64 (ofBytes (r.headD ([], false)).1))
    complete

/-- R412: the binding stays when the instruction parks. -/
def execWmbind (f : RrF) (s : State) : Res :=
  let w := encRr 0x95 0 f
  s.run w do
    let p ← syncLine f.a 16 false
    let s ← get
    let ws ← readLineWords s.me p.va 2
    if ws.getD 1 0 / 8 ≠ 0 then raise causeIllegal w
    change fun s => { s with hart := { s.hart with wmark := some p.va } }
    let target := (s.rg f.b).toNat
    if target ≤ ws.getD 0 0 then acquireWord f.d p.va (ws.getD 1 0)
    else if p.isRemote then pollAgain s.me
    else throw (.park (.line (lineOf p.pa)) (.watermark target) p.va)

/-- The read of the bound watermark that a `csrr` of WMARK makes (R413), its value not used. -/
def execWmarkRead (s : State) : Res :=
  s.run (encSy 0x90 0 { d := 0, a := 0, sreg := 0x41, imm := 0 }) do
    let _ ← readWmark

end Sys2Proof.Machine
end

