-- ==== Sys2Proof/Machine/Staged.lean ====
section
/-! DEFINITION. Staged objects: tables, bindings, judging, the staged instructions (16). -/
namespace Sys2Proof.Machine

/-! ## Tables (R337 to R339) -/

/-- Transition entry t of a table image (R337). -/
def tableEntry (img : BitVec 512) (t : Nat) : Nat := field img.toNat (128 + 16 * t) 16
/-- V. -/
def entryV (e : Nat) : Bool := bitOf e 15
/-- ILL: fault when illegal. -/
def entryIll (e : Nat) : Bool := bitOf e 14
/-- KIND. -/
def entryKind (e : Nat) : Nat := field e 12 2
/-- FROM. -/
def entryFrom (e : Nat) : Nat := field e 4 4
/-- TO. -/
def entryTo (e : Nat) : Nat := field e 0 4

/-- R339: `stbl` refuses the image. -/
def imageRefused (img : BitVec 512) : Bool :=
  let x := img.toNat
  let n := field x 52 4
  let bad e := if entryV e then
      field e 8 2 != 0 || (entryFrom e != 15 && n ≤ entryFrom e) || (entryTo e != 15 && n ≤ entryTo e)
    else e != 0
  field x 56 8 != 1 || n == 0 || field x 0 52 != 0 || field x 64 64 != 0 || field x 384 128 != 0
    || (List.range 16).any fun t => bad (tableEntry img t)

/-! ## Judging (R341 to R347) -/

/-- Kinds of 16 Table 16.4. -/
def kindLoad : Nat := 0
/-- `sst`. -/
def kindStore : Nat := 1
/-- `strn`. -/
def kindTrn : Nat := 2
/-- Engines, tasks, launches. -/
def kindEngine : Nat := 3

/-- An entry's KIND admits an access of a kind (16 Table 16.4). -/
def entryAdmits (e kind : Nat) : Bool := entryKind e == 2 || (kind != kindTrn && entryKind e == kind)

/-- How R344 judges an access. -/
inductive Judged where
  | illegal
  | foreign
  | park
  | ok (entry old : Nat)
  deriving DecidableEq, Repr

/-- The table of the binding of a context that holds a line. -/
def State.tableAt (s : State) (ctx line : Nat) : Option (BitVec 512) :=
  match s.bindAt line with
  | some (c, b) => if c = ctx then some (Table.get 0 b.slot (s.ctxOf ctx).slots) else none
  | none => none

/-- A line that another context has bound, or that is a control line of its launch (R341, R401). -/
def State.foreignLine (s : State) (ctx line : Nat) : Bool :=
  (s.boundCtx line).any fun c => c != ctx

/-- R344 up to the event. -/
def State.judge (s : State) (ctx line trn kind : Nat) : Judged :=
  match s.tableAt ctx line with
  | none => if s.foreignLine ctx line then .foreign else .illegal
  | some img =>
    let e := tableEntry img trn
    if !entryV e || !entryAdmits e kind then .illegal
    else
      let st := (s.metaOf line).state.toNat
      if entryFrom e ≠ 15 ∧ entryFrom e ≠ st then (if entryIll e then .illegal else .park)
      else .ok e st

/-- The state change of a transition (R344). -/
def State.transit (s : State) (line e : Nat) : State :=
  if entryTo e = 15 then s else s.setLineState line (entryTo e)

/-- What a staged access does with data (R357). -/
inductive StagedAct where
  | load (n : Nat)
  | store (bs : List Byte)
  | none
  deriving DecidableEq, Repr

/-- A and D of the page of an address (R346). -/
def State.markVa (s : State) (ctx va : Nat) (store : Bool) : State :=
  match s.walk ctx va with
  | some l => s.markEntry l.entry store
  | none => s

/-- The page of an address is under migration (R279). -/
def State.migrating (s : State) (ctx va : Nat) : Bool :=
  match s.walk ctx va with
  | some l => leafMig l.val
  | none => false

/-- R344 at a physical address whose rights have been checked: the event, or why there is none. The answer is the state
read and the bytes loaded. The sequencer's older additions are performed first: a staged access to their bytes, to a strongly
ordered page, or with a release side follows them (R277, R291, R292, R345). -/
def stagedNow (w : Who) (va pa trn kind : Nat) (act : StagedAct) : M (Nat × List Byte) := do
  drainFirst w
  let s0 ← get
  let line := lineOf pa
  match s0.judge w.ctx line trn kind with
  | .illegal => raise causeStageIllegal (BitVec.ofNat 64 va)
  | .foreign => raise causeProt (BitVec.ofNat 64 va)
  | .park => throw (.park (.line line) (.staged w.ctx trn kind) va)
  | .ok e old =>
    let writes := match act with
      | .store _ => true
      | _ => false
    let s := s0.reachLine w.ctx w.orig writes false line
    set s
    if (s.ctxOf w.ctx).ended && !(s0.ctxOf w.ctx).ended then throw .ended
    let bs ← match act with
      | .load n => if s.linePoisoned line then throw .poison else pure (s.readPhys pa n)
      | .store bs => do set (s.writePhys pa bs); pure []
      | .none => pure []
    change fun s => (s.transit line e).markVa w.ctx va (writes || entryTo e != 15)
    return (old, bs)

/-- The transition named at a line, when it is one of the context's own binding. -/
def State.entryAt (s : State) (ctx line trn : Nat) : Nat :=
  match s.tableAt ctx line with
  | some img => tableEntry img trn
  | none => 0

/-- The checks of a staged access before R344: ALIGN, XLATE, PROT (R317, R346), bindings of others (R341); a page under
migration stalls it (R279) (DEDUCED, log 24). -/
def stagedCheck (w : Who) (va : Int) (n : Nat) (trn kind : Nat) : M Part := do
  let s ← get
  if va % n ≠ 0 then raise causeAlign (wordOf va)
  match s.checkPart [] w.ctx w.level .load va n with
  | .error (c, v) => failCheck c v
  | .ok p =>
    if !p.isRemote && s.foreignLine w.ctx (lineOf p.pa) then raise causeProt (wordOf va)
    let e := s.entryAt w.ctx (lineOf p.pa) trn
    if kind = kindStore ∨ (entryV e ∧ entryTo e ≠ 15) then
      match s.checkPart [] w.ctx w.level .store va n with
      | .error (c, v) => failCheck c v
      | .ok _ => pure ()
    if p.mig then throw .stall
    return p

/-- A staged access to another device's line, judged there (R352): the bytes that it gives. A is set in the page's leaf, and D
when it writes data; whether a transition changes the state there the answer does not tell, and D is free then (R346)
(DEDUCED, log 24). -/
def stagedRemote (w : Who) (va : Nat) (p : Part) (op scope : Nat) (bs : List Byte) : M (List Byte) := do
  drainFirst w
  let s ← get
  let r ← remoteOne w va true true (s.remotePacket p.pa pktSa op 0 scope p.ordk 0 bs)
  modify fun (s : State) => (s.markEntry p.entry (op / 64 == kindStore || Config.freeBool s.tick)).nextTick
  return r.1

/-- A line lies in a page under migration (R279). -/
def State.lineMoving (s : State) (line : Nat) : Bool :=
  s.migs.any fun m => decide (m.old ≤ 64 * line ∧ 64 * line < m.old + m.size)

/-- The line where an agent's access to an address is parked. -/
def State.parkedLine (s : State) (a : Agent) (va : Nat) : Option Nat :=
  s.parks.findSome? fun p =>
    match p.key with
    | .line n => if p.agent == a && p.va == va then some n else none
    | .chute _ _ _ => none

/-- A transition by an engine, a task or a launch at an address (R351): kind engine. One that is parked is judged again
from the line's state on, its checks made (R344). -/
def engineTransition (w : Who) (va trn scope : Nat) : M Unit := do
  let s ← get
  match s.parkedLine w.agent va with
  | some line =>
    set { s with parks := s.parks.filter fun p => p.agent != w.agent }
    if s.lineMoving line then throw .stall
    let _ ← stagedNow w va (64 * line + va % 64) trn kindEngine .none
  | none =>
    let p ← checkedOnce w va (stagedCheck w va 1 trn kindEngine)
    if p.isRemote then
      let _ ← stagedRemote w va p (kindEngine * 64 + trn * 4) scope []
    else
      let _ ← stagedNow w va p.pa trn kindEngine .none

/-! ## `sld`, `sst`, `strn` (R357) -/

/-- A staged instruction of a sequencer: its address, size, transition, kind, data part, and what it does at the end. -/
structure StagedIns where
  size : Nat
  trn : Nat
  kind : Nat
  scope : Nat
  act : StagedAct
  dest : BitVec 5
  deriving DecidableEq, Repr

/-- The event at a checked local address, and the register that it writes. -/
def StagedIns.finish (x : StagedIns) (va pa : Nat) : M Unit := do
  let s ← get
  let r ← stagedNow s.me va pa x.trn x.kind x.act
  let v := if x.kind = kindLoad then ofBytes r.2 else r.1
  change fun s => if x.kind = kindStore then s else s.setG x.dest (BitVec.ofNat 64 v)
  complete

/-- Bytes of a data part. -/
def StagedAct.payload : StagedAct → List Byte
  | .store bs => bs
  | _ => []

/-- A staged instruction from its checks on; a line of another device is judged there (R352). -/
def StagedIns.body (x : StagedIns) (va : Int) : M Unit := do
  let s ← get
  let p ← checkedOnce s.me va (stagedCheck s.me va x.size x.trn x.kind)
  if p.isRemote then
    let bs ← stagedRemote s.me p.va p (x.kind * 64 + x.trn * 4 + sizeCode x.size) x.scope x.act.payload
    change fun s =>
      if x.kind = kindStore then s else s.setG x.dest (BitVec.ofNat 64 (ofBytes (bs.take (if x.kind = kindLoad then x.size else 8))))
    complete
  else x.finish p.va p.pa

/-- `sld` as a staged instruction. -/
def sldIns (sz : BitVec 2) (f : SgF) : StagedIns :=
  { size := sizeBytes sz.toNat, trn := f.trn.toNat, kind := kindLoad, scope := f.scope.toNat
    act := .load (sizeBytes sz.toNat), dest := f.d }

/-- `sst` as a staged instruction. -/
def sstIns (sz : BitVec 2) (f : SgF) (s : State) : StagedIns :=
  { size := sizeBytes sz.toNat, trn := f.trn.toNat, kind := kindStore, scope := f.scope.toNat
    act := .store (toBytes (s.rg f.b).toNat (sizeBytes sz.toNat)), dest := 0 }

/-- `strn` as a staged instruction. -/
def strnIns (f : SgF) : StagedIns :=
  { size := 1, trn := f.trn.toNat, kind := kindTrn, scope := f.scope.toNat, act := .none, dest := f.d }

/-- R357. -/
def execSld (sz : BitVec 2) (f : SgF) (s : State) : Res :=
  s.run (encSg 0x68 (sz.setWidth 6) f) ((sldIns sz f).body (s.sgAddr f))

/-- R357. -/
def execSst (sz : BitVec 2) (f : SgF) (s : State) : Res :=
  s.run (encSg 0x69 (sz.setWidth 6) f) ((sstIns sz f s).body (s.sgAddr f))

/-- R357. -/
def execStrn (f : SgF) (s : State) : Res :=
  s.run (encSg 0x6A 0 f) ((strnIns f).body (s.sgAddr f))

/-! ## Tables and bindings (R354 to R356) -/

/-- R354. -/
def execStbl (f : RiF) (s : State) : Res :=
  let w := encRi 0x6B 0 f
  s.run w do
    let a := s.rg f.a
    let k := (s.rg f.b).toNat
    if 15 < k then raise causeIllegal w
    if a.toNat % 64 ≠ 0 then raise causeAlign a
    let bs ← loadBytes s.me a.toNat 64
    let c := s.ctxOf s.hart.ctx
    if c.binds.any fun b => b.slot == k then raise causeStageBusy (s.rg f.b)
    let img := BitVec.ofNat 512 (ofBytes bs)
    if imageRefused img then raise causeStageTable a
    change fun s =>
      let c := s.ctxOf s.hart.ctx
      (s.setCtx s.hart.ctx { c with slots := Table.put 0 k img c.slots }).setG f.d (BitVec.ofNat 64 (field img.toNat 0 64))
    complete

/-- The pages of a range: (virtual start, leaf, bytes), or XLATE at an address; fuel bounds their number. -/
def State.rangePages (s : State) (ctx : Nat) : Nat → Nat → Nat → Except Nat (List (Nat × Leaf × Nat))
  | 0, _, _ => .ok []
  | fuel + 1, va, n =>
    if n = 0 then .ok []
    else
      match s.walk ctx va with
      | none => .error va
      | some l =>
        let k := min n (l.size - va % l.size)
        match s.rangePages ctx fuel (va + k) (n - k) with
        | .error e => .error e
        | .ok t => .ok ((va, l, k) :: t)

/-- A page that `sbind` refuses with PROT (R355 step 3). -/
def bindDenied (lv : Level) (l : Leaf) : Bool :=
  !leafR l.val || !leafW l.val || !leafStaged l.val || (lv == .program && !leafU l.val)
    || (match homeOf l.base with
        | .dram _ | .sram _ => false
        | _ => true)

/-- Some physical extent meets another. -/
def extentsMeet (xs ys : List (Nat × Nat × Nat)) : Bool :=
  xs.any fun x => ys.any fun y => decide (x.2.1 < y.2.1 + y.2.2 ∧ y.2.1 < x.2.1 + x.2.2)

/-- A line of some extents is bound already, in any context, or is a chute's control line (R355 step 5). -/
def State.alreadyBound (s : State) (xs : List (Nat × Nat × Nat)) : Bool :=
  (s.ctxs.any fun c => c.2.binds.any fun b => extentsMeet xs b.extents)
    || s.launches.any fun l => l.chutes.any fun c => c.lines.any fun n => extentsMeet xs [(0, 64 * n, 64)]

/-- Every line of some extents put into state 0 (R338). -/
def State.zeroStates (s : State) (xs : List (Nat × Nat × Nat)) : State :=
  { s with lineMeta := s.lineMeta.filterMap fun m =>
      if extentsMeet xs [(0, 64 * m.1, 64)] then
        let v := { m.2 with state := 0 }
        if v = Meta.zero then none else some (m.1, v)
      else some m }

/-- A free choice among some numbers (DESIGN CHOICE, log 36). -/
def State.pick (s : State) (l : List Nat) : Nat := l.getD (s.freeWord.toNat % l.length) 0

/-- The bytes of some physical ranges are settled before what an agent does to them: no access to them that has passed its checks
waits for another device, and every addition to them, whoever issued it, is performed (R355, R401). -/
def settleRanges (w : Who) (ranges : List (Nat × Nat)) : M Unit := do
  let s ← get
  if ranges.any fun x => s.flightIn x.1 x.2 then throw .stall
  drainFirst w
  let s ← get
  set (s.drainIn ranges)
  unlessEnded s w.ctx

/-- The pages of some virtual addresses have A and D set: the state of a line there is written (R346) (DEDUCED, log 74). -/
def State.markVas (s : State) (ctx : Nat) (vas : List Nat) : State := vas.foldl (fun t va => t.markVa ctx va true) s

/-- R355. The binding number is a free choice among those not in use. -/
def execSbind (f : RiF) (s : State) : Res :=
  let w := encRi 0x6C 0 f
  s.run w do
    let a := (s.rg f.a).toNat
    let n := (s.rg f.b).toNat
    let k := f.imm.toNat % 16
    let h := s.hart
    if a % 64 ≠ 0 then raise causeAlign (s.rg f.a)
    if n % 64 ≠ 0 ∨ n < 64 ∨ 2 ^ 40 < n then raise causeIllegal w
    match s.rangePages h.ctx (n / 16384 + 2) a n with
    | .error va => failCheck (s.walkCause s.hart.ctx va) (BitVec.ofNat 64 va)
    | .ok ps =>
      match ps.find? fun p => bindDenied h.level p.2.1 with
      | some p => raise causeProt (BitVec.ofNat 64 p.1)
      | none => pure ()
      let c := s.ctxOf h.ctx
      if !(c.slots.any fun x => x.1 == k) then raise causeStageTable (BitVec.ofNat 64 k)
      let xs := ps.map fun p => (p.1, p.2.1.base + p.1 % p.2.1.size, p.2.2)
      if s.alreadyBound xs || decide (64 ≤ c.binds.length) then raise causeStageBusy (s.rg f.a)
      if ps.any fun p => leafMig p.2.1.val then throw .stall
      settleRanges s.me (xs.map (·.2))
      change fun s =>
        let s1 := (s.zeroStates xs).markVas h.ctx (xs.map (·.1))
        let c := s1.ctxOf h.ctx
        let num := s1.pick ((List.range 64).filter fun i => !(c.binds.any fun b => b.num == i))
        let b : Bind := { num, va := a, size := n, slot := k, extents := xs }
        ((s1.setCtx h.ctx { c with binds := c.binds ++ [b] }).nextTick).setG f.d (BitVec.ofNat 64 num)
      complete

/-- An access is parked on a line of a binding (R356). -/
def State.parkedOn (s : State) (b : Bind) : Bool :=
  s.parks.any fun p =>
    match p.key with
    | .line n => b.holds n
    | _ => false

/-- R356. -/
def execSunbind (f : RiF) (s : State) : Res :=
  let w := encRi 0x6D 0 f
  s.run w do
    let a := (s.rg f.a).toNat
    let n := (s.rg f.b).toNat
    let h := s.hart
    match (s.ctxOf h.ctx).binds.find? fun b => b.va == a && b.size == n with
    | none => raise causeIllegal w
    | some b =>
      if s.parkedOn b then raise causeStageBusy (s.rg f.a)
      drainOwn
      change fun s =>
        let s1 := (s.zeroStates b.extents).markVas h.ctx (b.extents.map (·.1))
        let c := s1.ctxOf h.ctx
        (s1.setCtx h.ctx { c with binds := c.binds.filter fun x => x.num != b.num }).setG f.d (BitVec.ofNat 64 b.slot)
      complete

/-! ## `sqry` (R358) -/

/-- The slots of a chute that its parked opens wait for, in order (R415). -/
def State.waitedSlots (s : State) (serial idx : Nat) (put : Bool) (ctr slots : Nat) : List Nat :=
  ((s.parks.filter fun p => p.key == .chute serial idx put).zipIdx.map fun p => (ctr + p.2) % slots)

/-- Accesses parked on a line, chute opens that wait for its slot among them (DEDUCED, log 23). -/
def State.parkCount (s : State) (line : Nat) : Nat :=
  let direct := (s.parks.filter fun p => p.key == .line line).length
  match s.launches.findSome? fun l => l.chutes.zipIdx.findSome? fun c =>
      (c.1.lines.findIdx? fun x => x == line).map fun k => (l.serial, c.2, c.1, k) with
  | none => direct
  | some (serial, i, c, k) =>
    direct + ((s.waitedSlots serial i true c.put c.lines.length).filter (· == k)).length
      + ((s.waitedSlots serial i false c.get c.lines.length).filter (· == k)).length

/-- The result of `sqry` (16 Table 16.7) for a physical line. -/
def State.queryLine (s : State) (ctx line : Nat) : Word :=
  let st := (s.metaOf line).state.toNat
  let n := min (s.parkCount line) 255
  match s.bindAt line with
  | some (c, b) =>
    if c = ctx then BitVec.ofNat 64 (2 ^ 63 + b.num * 2 ^ 50 + n * 2 ^ 12 + b.slot * 2 ^ 8 + st) else 0
  | none =>
    match s.chuteAt line with
    | some (c, _) => if c = ctx then BitVec.ofNat 64 (2 ^ 62 + n * 2 ^ 12 + st) else 0
    | none => 0

/-- R358. Its read of the line's state sets A in the page's leaf (R275). A line in a fabric window is no line of this device's
directory, and no packet carries a `sqry`: it reads 0 (DEDUCED, log 74). -/
def execSqry (f : SgF) (s : State) : Res :=
  s.run (encSg 0x6E 0 f) do
    match s.checkPart [] s.hart.ctx s.hart.level .load (s.sgAddr f) 1 with
    | .error (c, v) => failCheck c v
    | .ok p =>
      drainOwn
      change fun s => ((s.markEntry p.entry false).setG f.d (s.queryLine s.hart.ctx (lineOf p.pa))).advance

end Sys2Proof.Machine
end

