-- ==== Sys2Proof/Machine/Task.lean ====
section
/-! DEFINITION. Tile tasks: records, `tenq`, `tqry`, `tcancel`, dependences, and the cluster scheduler (09 R202 to R226, 20
R422). -/
namespace Sys2Proof.Machine

/-! ## Records (R202 to R204) -/

/-- Word i of a record's header. -/
def tkWord (r : List Byte) (i : Nat) : Word := wordAt r (8 * i)
/-- NSTEP. -/
def tkSteps (r : List Byte) : Nat := wbits (tkWord r 0) 48 8
/-- BODY0. -/
def tkBody0 (r : List Byte) : Nat := wbits (tkWord r 0) 40 8
/-- BODY1. -/
def tkBody1 (r : List Byte) : Nat := wbits (tkWord r 0) 32 8
/-- NWAIT. -/
def tkWaits (r : List Byte) : Nat := wbits (tkWord r 0) 28 4
/-- NSIG. -/
def tkSigs (r : List Byte) : Nat := wbits (tkWord r 0) 24 4
/-- KB. -/
def tkKb (r : List Byte) : Nat := wbits (tkWord r 1) 0 21
/-- SPILL. -/
def tkSpill (r : List Byte) : Nat := wbits (tkWord r 3) 0 57
/-- Word k of dependence entry e (09 Table 9.2). -/
def tkEntry (r : List Byte) (e k : Nat) : Word := wordAt r (64 + 16 * e + 8 * k)
/-- Word k of step i. -/
def tkStep (r : List Byte) (i k : Nat) : Word := wordAt r (192 + 32 * i + 8 * k)
/-- ADDR of an entry. -/
def tkAddr (r : List Byte) (e : Nat) : Nat := wbits (tkEntry r e 0) 0 57

/-- The code that refuses a header (09 Tables 9.1, 9.9), 0 for none. -/
def headerCode (r : List Byte) : Nat :=
  let w0 := tkWord r 0
  if wbits w0 56 8 ≠ 1 ∨ tkSteps r = 0 ∨ tkBody1 r < tkBody0 r ∨ tkSteps r ≤ tkBody1 r ∨ 4 < tkWaits r ∨ 4 < tkSigs r
      ∨ 1048576 < tkKb r ∨ wbits w0 0 22 ≠ 0 ∨ wbits (tkWord r 1) 21 11 ≠ 0 ∨ wbits (tkWord r 3) 57 7 ≠ 0
      ∨ tkWord r 7 ≠ 0 then 2
  else if tkSpill r % 64 ≠ 0 then 6
  else 0

/-- Entry e is used (R203). -/
def tkUsed (r : List Byte) (e : Nat) : Bool := if e < 4 then e < tkWaits r else e - 4 < tkSigs r

/-- BADDEP applies to entry e (09 Table 9.2). -/
def entryBad (r : List Byte) (e : Nat) : Bool :=
  let w0 := tkEntry r e 0
  let w1 := tkEntry r e 1
  if tkUsed r e then
    wbits w0 57 7 != 0 || wbits w0 0 6 != 0 || wbits w1 0 52 != 0
      || (e < 4 && (wbits w1 56 4 != 0 || wbits w1 52 1 != 0))
  else w0 != 0 || w1 != 0

/-- The code of an LDA or LDB step (09 Table 9.5). -/
def loadCode (w : Nat → Word) : Nat :=
  let gather := wbits (w 0) 49 1
  let sparse := wbits (w 0) 48 1
  if 7 < wbits (w 0) 52 4 ∨ wbits (w 0) 0 48 ≠ 0 ∨ wbits (w 1) 57 7 ≠ 0 ∨ wbits (w 2) 57 7 ≠ 0
      ∨ (gather = 1 ∧ sparse = 1) ∨ (gather = 1 ∧ wbits (w 2) 0 2 ≠ 0) ∨ (gather = 0 ∧ w 2 ≠ 0)
      ∨ (sparse = 1 ∧ wbits (w 3) 0 32 ≠ 0) then 4 else 0

/-- A format pair whose sums go to the partial-sum buffer (09 Table 9.6). -/
def blockPair (fa fb : Nat) : Bool := (fa == 0 && fb == 0) || ((fa == 1 || fa == 2) && (fb == 1 || fb == 2))

/-- The code of an MMA step (R211). -/
def mmaCode (w : Nat → Word) : Nat :=
  let fa := wbits (w 0) 52 4
  let fb := wbits (w 0) 48 4
  if wbits (w 0) 0 41 ≠ 0 ∨ w 1 ≠ 0 ∨ w 2 ≠ 0 ∨ w 3 ≠ 0 ∨ (blockPair fa fb ∧ wbits (w 0) 41 3 ≠ 0) then 4
  else if blockPair fa fb || (fa == fb && 3 ≤ fa && fa ≤ 7) then 0
  else 5

/-- The code of an ACVT step (09 Tables 9.7, 9.8). -/
def acvtCode (w : Nat → Word) : Nat :=
  let fout := wbits (w 0) 52 4
  let rm := wbits (w 0) 49 3
  let sat := wbits (w 0) 48 1
  let src := wbits (w 0) 47 1
  let plain := fout == 9 || (src == 0 && fout == 0)
  let ints := src == 1 && (fout == 3 || fout == 6 || fout == 8)
  let floats := src == 0 && (fout == 1 || fout == 2 || fout == 4 || fout == 5 || fout == 7)
  if 6 ≤ rm ∨ wbits (w 0) 32 12 ≠ 0 ∨ wbits (w 1) 57 7 ≠ 0 ∨ w 2 ≠ 0 ∨ (plain ∧ (rm ≠ 0 ∨ sat ≠ 0)) ∨ (ints ∧ rm ≠ 0) then 4
  else if plain || ints || floats then 0
  else 5

/-- The code that refuses a step of four words (R205 to R216), 0 for none. -/
def stepCode (w : Nat → Word) : Nat :=
  match wbits (w 0) 56 8 with
  | 1 | 2 => loadCode w
  | 3 => mmaCode w
  | 4 => if wbits (w 0) 44 12 ≠ 0 ∨ wbits (w 0) 0 41 ≠ 0 ∨ w 1 ≠ 0 ∨ w 2 ≠ 0 ∨ w 3 ≠ 0 then 4 else 0
  | 5 => acvtCode w
  | 6 => if wbits (w 0) 0 47 ≠ 0 ∨ w 1 ≠ 0 ∨ w 2 ≠ 0 ∨ w 3 ≠ 0 then 4 else 0
  | 7 =>
    if wbits (w 0) 53 3 ≠ 0 ∨ wbits (w 0) 0 50 ≠ 0 ∨ wbits (w 1) 57 7 ≠ 0 ∨ w 2 ≠ 0 ∨ wbits (w 3) 0 32 ≠ 0 then 4 else 0
  | 8 =>
    if wbits (w 0) 0 49 ≠ 0 ∨ wbits (w 1) 57 7 ≠ 0 ∨ wbits (w 1) 0 6 ≠ 0 ∨ w 2 ≠ 0 ∨ w 3 ≠ 0 then 4 else 0
  | _ => 4

/-- Code and place of the first entry or step that fails a check (R224), or none. -/
def recordCode (r : List Byte) : Option (Nat × Nat) :=
  match (List.range 8).find? (entryBad r) with
  | some e => some (3, 0xF0 + e)
  | none =>
    match (List.range (tkSteps r)).find? fun i => stepCode (tkStep r i) != 0 with
    | some i => some (stepCode (tkStep r i), i)
    | none => none

/-! ## Tasks -/

/-- A task, by its handle. -/
def State.taskOf (s : State) (h : Word) : Option Task := s.tasks.find? fun t => t.h == h

/-- A task replaced. -/
def State.setTask (s : State) (t : Task) : State := { s with tasks := s.tasks.map fun x => if x.h == t.h then t else x }

/-- The accesses of a task (R519). -/
def Task.who (t : Task) : Who := { agent := .task t.h, ctx := t.ctx, level := t.level, orig := 1 }

/-- STATE of 09 Table 9.10. -/
def TaskState.code : TaskState → Nat
  | .queued => 0
  | .ready => 1
  | .running => 2
  | .interrupted => 3
  | .done => 4
  | .failed => 5
  | .cancelled => 6

/-- The status word of a task (09 Table 9.10). -/
def Task.status (t : Task) : Word :=
  BitVec.ofNat 64 (t.state.code * 2 ^ 60 + t.cause * 2 ^ 52 + t.place * 2 ^ 44 + t.kdone)

/-- The engine of a task as it starts (R205), and as it is left: empty latch, tiles and partial-sum buffer. -/
def Task.clear (t : Task) : Task :=
  { t with a := Vector.replicate 4 LatchSlot.start, b := Vector.replicate 4 LatchSlot.start, psum := none
           acc := Vector.replicate 8 0 }

/-- The scheduler's cause for a cause of 22 Table 22.1 (09 Table 9.10): a data access to a staged line is STAGE_DATA.
Numbers from 64 on are the scheduler's own causes. -/
def taskCause (data : Bool) (c : Nat) : Nat :=
  if 64 ≤ c then c - 64
  else if c = causeXlate then 1
  else if c = causeProt then 2
  else if c = causeAlign then 3
  else if c = causeStageIllegal then (if data then 5 else 4)
  else if c = causePoison then 6
  else 7

/-- FORMAT, PSUM and SPILL, as `raise` carries them. -/
def causeFormat : Nat := 64 + 8
/-- PSUM. -/
def causePsum : Nat := 64 + 9
/-- SPILL. -/
def causeSpill : Nat := 64 + 10

/-- A task's transition by entry or step (R351), its answers done with. -/
def Task.transition (t : Task) (va trn scope : Nat) : M Unit := do
  engineTransition t.who va trn scope
  change fun s => s.settle t.who.agent

/-- A park of a task. -/
def Task.park (t : Task) (key : ParkKey) (cond : ParkCond) (va : Nat) : Park :=
  { key, cond, agent := t.who.agent, va, page := 0, lim := 0, pkt := [] }

/-- An access of the task is parked. -/
def State.taskParked (s : State) (h : Word) : Bool := s.parks.any fun p => p.agent == .task h

/-- The task's parked access leaves its FIFO. -/
def State.unparkTask (s : State) (h : Word) : State := s.dropAgent (.task h)

/-! ## The end of a task (R222, R225) -/

/-- Ended tasks kept for `tqry`: of each context the newest 1,024. -/
def trimLog (ctx : Nat) : Nat → List (Nat × Word × Word) → List (Nat × Word × Word)
  | _, [] => []
  | k, x :: t => if x.1 = ctx then (if k = 0 then trimLog ctx 0 t else x :: trimLog ctx (k - 1) t) else x :: trimLog ctx k t

/-- A task whose last signal is done leaves the scheduler (R222). -/
def State.endTask (s : State) (t : Task) : State :=
  let c := s.clusterOf t.clus
  ({ s with tasks := s.tasks.filter fun x => x.h != t.h }).setCluster t.clus
    { c with log := trimLog t.ctx 1024 ((t.ctx, t.h, t.status) :: c.log) }

/-- A stop as a cause of 09 Table 9.10 or 17 Table 17.2, and an address: of a transition, or of a data access. -/
def Stop.cause (data : Bool) (va : Nat) : Stop → Nat × Word
  | .trap c v _ _ => (taskCause data c, v)
  | .poison => (6, BitVec.ofNat 64 va)
  | _ => (7, BitVec.ofNat 64 va)

/-- FTRNs of the signal entries from entry k on (R222): one is performed in a step, so that accesses parked on its line are
judged again before the next (R347). One that cannot be performed is passed over, whatever the check that it fails
(DEDUCED, log 70); one that parks holds the task; the end of the context ends it (R226). -/
def State.failSignals (s : State) (t : Task) : Nat → Nat → State
  | 0, _ => s.endTask t
  | fuel + 1, k =>
    if tkSigs t.image ≤ k then s.endTask t
    else
      let w1 := tkEntry t.image (4 + k) 1
      if wbits w1 52 1 = 0 then s.failSignals t fuel (k + 1)
      else
        match s.attempt (t.transition (tkAddr t.image (4 + k)) (wbits w1 56 4) (wbits w1 53 3)) with
        | (.ok _, s1) =>
          if (List.range (tkSigs t.image)).all fun j => decide (j ≤ k) || wbits (tkEntry t.image (4 + j) 1) 52 1 == 0 then
            s1.endTask t
          else { s1.setTask { t with nextSig := k + 1 } with rix := 0 }
        | (.error (.park key cond va), s1) =>
          let s2 := s1.setTask { t with nextSig := k }
          s2.addPark t.ctx (t.park key cond va)
        | (.error .stall, s1) => { s1.setTask { t with nextSig := k } with rix := 0 }
        | (.error .ended, s1) => { s1 with rix := 0 }
        | (.error _, s1) => (s1.settle t.who.agent).failSignals t fuel (k + 1)

/-- A STATUS or FADDR write of the task: an ordinary store, which is awaited (R204, R221, R497). -/
def Task.store (t : Task) (x : Nat × Word) : M Unit := do
  storeBytes t.who (t.addr + x.1 : Nat) (toBytes x.2.toNat 8)
  change fun s => s.settle t.who.agent

/-- The status that stands in memory, or is on its way there (R221). -/
def Task.reported (t : Task) : Word := if t.owes.isEmpty then t.status else t.shown

/-- How the writes that a task owes went. -/
inductive Paid where
  | all
  /-- One waits, or the context has ended. -/
  | waits
  | failed (e : Stop)
  deriving DecidableEq, Repr

/-- The writes that a task owes, in turn; `drop` passes over one that fails (R222). -/
def State.payList (s : State) (t : Task) (drop : Bool) : List (Nat × Word) → State × Paid
  | [] => (s.setTask { t with owes := [] }, .all)
  | x :: l =>
    match s.attempt (t.store x) with
    | (.ok _, s1) => s1.payList t drop l
    | (.error .stall, s1) => ({ s1.setTask { t with owes := x :: l } with rix := 0 }, .waits)
    | (.error .ended, s1) => ({ s1 with rix := 0 }, .waits)
    | (.error e, s1) =>
      let s2 := s1.settle t.who.agent
      if drop then s2.payList t drop l else (s2.setTask { t with owes := [] }, .failed e)

/-- A task that fails or is cancelled gives up what it waits for; a write that it owes stays before the new ones. -/
def State.leaveWork (s : State) (t : Task) : State := if t.owes.isEmpty then (s.unparkTask t.h).settle t.who.agent else s

/-- The failure path of a task that is FAILED: the writes that it owes, then its FTRNs (R222). -/
def State.failOn (s : State) (t : Task) : State :=
  match s.payList t true t.owes with
  | (s1, .all) => s1.failSignals { t with owes := [] } 8 t.nextSig
  | (s1, _) => s1

/-- R222: a task fails with a scheduler's cause: STATUS and FADDR, then the FTRNs of its signal entries not yet performed. -/
def State.failTask (s : State) (t : Task) (cause place : Nat) (faddr : Word) : State :=
  let t1 := { t.clear with state := .failed, cause, place, failing := true, cancelReq := false, suspendReq := false
                           stopping := false, shown := t.reported }
  let t2 := { t1 with owes := t.owes ++ [(16, t1.status), (48, faddr)] }
  ((s.leaveWork t).setTask t2).failOn t2

/-- `failTask` for a failure with no address of its own: FADDR is then a free value. -/
def State.failTaskFree (s : State) (t : Task) (cause place : Nat) : State := s.nextTick.failTask t cause place s.freeWord

/-- The writes that a task owes, which has not failed: a failed one fails it with WHERE 0xFE (R222). The Bool says that it
owes nothing any more. -/
def State.pay (s : State) (t : Task) : State × Bool :=
  match s.payList t false t.owes with
  | (s1, .all) => (s1, true)
  | (s1, .waits) => (s1, false)
  | (s1, .failed e) =>
    let x := e.cause true (t.addr + 16)
    (s1.failTask { t with owes := [] } x.1 0xFE x.2, false)

/-- A task changes its state: STATUS is written. The Bool says that it is, and the task goes on. -/
def State.enter (s : State) (t : Task) (state : TaskState) : State × Bool :=
  let t1 := { t with state, shown := t.reported }
  let t2 := { t1 with owes := t.owes ++ [(16, t1.status)] }
  (s.setTask t2).pay t2

/-- The signal entry k of a task that is DONE (R221, R222), one in a step: accesses parked on its line are judged again
before the next (R347). -/
def State.doneSignals (s : State) (t : Task) (k : Nat) : State :=
  if tkSigs t.image ≤ k then s.endTask t
  else
    let w1 := tkEntry t.image (4 + k) 1
    let va := tkAddr t.image (4 + k)
    match s.attempt (t.transition va (wbits w1 60 4) (wbits w1 53 3)) with
    | (.ok _, s1) =>
      if tkSigs t.image ≤ k + 1 then s1.endTask t else { s1.setTask { t with nextSig := k + 1 } with rix := 0 }
    | (.error (.park key cond a), s1) =>
      let s2 := s1.setTask { t with nextSig := k }
      s2.addPark t.ctx (t.park key cond a)
    | (.error .stall, s1) => { s1.setTask { t with nextSig := k } with rix := 0 }
    | (.error .ended, s1) => { s1 with rix := 0 }
    | (.error e, s1) => s1.failTask { t with nextSig := k } (e.cause false va).1 (0xF4 + k) (BitVec.ofNat 64 va)

/-- The way of a cancelled task on: STATUS, then its FVALID signals (R226). -/
def State.cancelOn (s : State) (t : Task) : State :=
  match s.pay t with
  | (s1, true) => s1.failSignals { t with owes := [] } 8 t.nextSig
  | (s1, false) => s1

/-- R226: the task is cancelled: its accumulators are discarded, STATUS is written, its FVALID signals fire. -/
def State.cancelTask (s : State) (t : Task) : State :=
  let t1 := { t.clear with state := .cancelled, failing := true, cancelReq := false, suspendReq := false, stopping := false
                           shown := t.reported }
  let t2 := { t1 with owes := t.owes ++ [(16, t1.status)] }
  ((s.leaveWork t).setTask t2).cancelOn t2

/-! ## Interruption (R218, R219) -/

/-- Tile-spill bytes. -/
def spillPos : Nat := 196608

/-- The spill area of a task (R219), as stores in order. -/
def Task.spillOps (t : Task) : List MemOp :=
  let base := tkSpill t.image
  let tiles := t.acc.toList.zipIdx.map fun x => plainOp (base + 24576 * x.2 : Nat) 24576 (.store (toBytes x.1.toNat 24576))
  let pos := toBytes (t.snext * 2 ^ 56 + t.knext) 8 ++ List.replicate 56 0
  tiles ++ [plainOp (base + spillPos : Nat) 64 (.store pos)]

/-- An interruption: the spill area is written and the engine given up. One that waits is gone on with at the task's next event;
the task runs no step before. A check that fails there fails the task; WHERE is then a free value (DEDUCED, log 41). -/
def State.interruptTask (s : State) (t : Task) : State :=
  match s.attempt (perform t.who t.spillOps) with
  | (.ok _, s1) =>
    let s2 := (s1.unparkTask t.h).settle t.who.agent
    (s2.enter { t.clear with suspendReq := false, stopping := false } .interrupted).1
  | (.error (.trap c v _ _), s1) => s1.nextTick.failTask t (taskCause true c) (s.freeWord.toNat % 256) v
  | (.error .stall, s1) =>
    let s2 := s1.setTask { t with stopping := true }
    { s2 with parks := s2.parks.filter fun p => p.agent != t.who.agent, rix := 0 }
  | (.error .ended, s1) => { s1 with rix := 0 }
  | (.error _, s1) => s1.nextTick.failTaskFree t 7 (s.freeWord.toNat % 256)

/-- Where a task's steps start: the step and the iteration. -/
def tkStart (r : List Byte) : Nat × Nat := if tkBody0 r = 0 ∧ tkKb r = 0 then (tkBody1 r + 1, 0) else (0, 0)

/-- The task has a step to run. -/
def Task.hasStep (t : Task) : Bool := t.snext < tkSteps t.image

/-- An interruption point between steps (R218): at task start; with the partial-sum buffer empty, between two iterations
and between the last one and the epilogue. -/
def Task.atPoint (t : Task) : Bool :=
  let r := t.image
  t.hasStep && ((t.snext, t.knext) == tkStart r
    || (t.psum.isNone && 0 < t.knext && (t.snext == tkBody0 r || t.snext == tkBody1 r + 1)))

/-- The position after a step: the next step of the run, the next iteration, or the next run. -/
def Task.advance (t : Task) : Task :=
  let r := t.image
  let i := t.snext
  if i = tkBody1 r then
    let k := t.knext + 1
    { t with knext := k, kdone := k, snext := if k < tkKb r then tkBody0 r else i + 1 }
  else if i + 1 = tkBody0 r ∧ tkKb r = 0 then { t with snext := tkBody1 r + 1 }
  else { t with snext := i + 1 }

/-- The task is asked to stop: it is to be cancelled, or to be interrupted, which takes a spill area (R218, R219). -/
def Task.asked (t : Task) : Bool := t.cancelReq || (t.suspendReq && tkSpill t.image != 0)

/-- The task's step has begun: accesses of it to other devices are under way. -/
def State.taskFlying (s : State) (h : Word) : Bool :=
  (s.remotes.any fun r => r.agent == .task h) || s.flights.any fun f => f.agent == .task h

/-- A request is pending and the task stands where it is acted on: at an interruption point, with no step begun there; parked at a
TRN step; or in an interruption that waits (R218). -/
def State.requestDue (s : State) (t : Task) : Bool :=
  t.state == .running && t.owes.isEmpty && ((t.atPoint && !s.taskFlying t.h) || s.taskParked t.h || t.stopping) && t.asked

/-- The request of a task is acted on. -/
def State.actOn (s : State) (t : Task) : State := if t.cancelReq then s.cancelTask t else s.interruptTask t

/-- A pending request is acted on where it can be (R218). A TRN step whose access has gone to another device, where it may be parked,
is asked back for it: the answer says whether the task is at that point (R500) (DEDUCED, log 41). -/
def State.settleTask (s : State) (h : Word) : State :=
  match s.taskOf h with
  | none => s
  | some t =>
    if s.requestDue t then s.actOn t
    else if t.state == .running && t.owes.isEmpty && t.asked then s.withdraw true fun r => r.agent == .task h
    else s

/-- The task's access has come back withdrawn: it was parked at another device, and has had no event (R500). -/
def State.cameBack (s : State) (h : Word) : Bool :=
  s.remotes.any fun r => r.agent == .task h && r.wdr == some true && (r.answer.map (·.1)) == some causeParkLimit

/-! ## The three instructions (R224 to R226) -/

/-- `tenq` on the parts of a record as they are read: the refusal code, or the record. -/
def readRecord (w : Who) (va : Nat) : M (Except Nat (List Byte)) := do
  let hd ← loadBytes w va 64
  let c := headerCode hd
  if c ≠ 0 then return .error (c + 0xFF * 256)
  let entries ← loadBytes w (va + 64 : Nat) 128
  let steps ← loadBytes w (va + 192 : Nat) (32 * tkSteps hd)
  let r := hd ++ entries ++ steps
  match recordCode r with
  | some (c, p) => return .error (c + p * 256)
  | none => return .ok r

/-- The scheduler's copy of a record: STATUS and FADDR are not copied (R204). -/
def copyRecord (r : List Byte) : List Byte :=
  r.take 16 ++ List.replicate 8 0 ++ (r.drop 24).take 24 ++ List.replicate 8 0 ++ r.drop 56

/-- The task of an accepted record (R205, R224). -/
def newTask (h : Word) (clus ctx : Nat) (lv : Level) (va : Nat) (r : List Byte) : Task :=
  let p := tkStart r
  { h, clus, ctx, level := lv, addr := va, image := copyRecord r, state := .queued, cause := 0, place := 0, kdone := 0
    nextWait := 0, nextSig := 0, failing := false, snext := p.1, knext := p.2, prio := wbits (tkWord r 0) 22 2
    cancelReq := false, suspendReq := false, stopping := false, owes := [], shown := 0, a := Vector.replicate 4 LatchSlot.start
    b := Vector.replicate 4 LatchSlot.start, psum := none, acc := Vector.replicate 8 0 }

/-- The cluster holds 512 tasks, or the context 128 in it (R224). -/
def State.queueFull (s : State) (clus ctx : Nat) : Bool :=
  let l := s.tasks.filter fun t => t.clus == clus
  512 ≤ l.length || 128 ≤ (l.filter fun t => t.ctx == ctx).length

/-- A record accepted: its handle, and the task QUEUED with STATUS written. SERIAL is the count before this acceptance
(DEDUCED, log 69). -/
def State.acceptTask (s : State) (va : Nat) (r : List Byte) : Word × State :=
  let clus := clusterNo s.hart.core
  let c := s.clusterOf clus
  let h := BitVec.ofNat 64 (2 ^ 63 + clus * 2 ^ 48 + c.accepted % 2 ^ 48)
  let t := newTask h clus s.hart.ctx s.hart.level va r
  let s1 := s.setCluster clus { c with accepted := (c.accepted + 1) % 2 ^ 48 }
  (h, (({ s1 with tasks := s1.tasks ++ [t] }).enter t .queued).1)

/-- R224. -/
def execTenq (f : RrF) (s : State) : Res :=
  s.run (encRr 0x80 0 f) do
    let a := s.rg f.a
    if a.toNat % 64 ≠ 0 then raise causeAlign a
    match ← readRecord s.me a.toNat with
    | .error code => change fun s => s.setG f.d (BitVec.ofNat 64 code)
    | .ok r =>
      drainOwn
      change fun s =>
        if s.queueFull (clusterNo s.hart.core) s.hart.ctx then s.setG f.d 1
        else
          let x := s.acceptTask a.toNat r
          x.2.setG f.d x.1
    complete

/-- STATE 7 (R225). -/
def unknownTask : Word := 0x7000000000000000

/-- A live task of a context, by the value of a handle (R225). -/
def State.ownTask (s : State) (ctx : Nat) (h : Word) : Option Task :=
  if wbits h 53 11 = 2 ^ 10 then s.tasks.find? fun t => t.h == h && t.ctx == ctx else none

/-- The status that `tqry` reports (R225); a change of it shows once STATUS is written (R221, R222). -/
def State.taskStatus (s : State) (ctx : Nat) (h : Word) : Word :=
  match s.ownTask ctx h with
  | some t => t.reported
  | none =>
    if wbits h 53 11 = 2 ^ 10 then
      match (s.clusterOf (wbits h 48 5)).log.find? fun x => x.1 == ctx && x.2.1 == h with
      | some x => x.2.2
      | none => unknownTask
    else unknownTask

/-- R225. -/
def execTqry (f : RrF) (s : State) : Res :=
  .next (s.setG f.d (s.taskStatus s.hart.ctx (s.rg f.a))).advance

/-- The request of `tcancel` (R226), and the status that holds then. -/
def State.cancelRequest (s : State) (ctx : Nat) (h : Word) : Word × State :=
  match s.ownTask ctx h with
  | none => (s.taskStatus ctx h, s)
  | some t =>
    match t.state with
    | .queued | .ready | .interrupted =>
      let s1 := s.cancelTask t
      ((match s1.ownTask ctx h with
        | some u => u.status
        | none => s1.taskStatus ctx h), s1)
    | .running => (t.status, (s.setTask { t with cancelReq := true }).settleTask h)
    | .done | .failed | .cancelled => (t.reported, s)

/-- R226. -/
def execTcancel (f : RrF) (s : State) : Res :=
  let x := s.cancelRequest s.hart.ctx (s.rg f.a)
  .next (x.2.setG f.d x.1).advance

/-! ## The scheduler (R221, R422) -/

/-- The next wait entry of a task that is QUEUED, owes no write and is not parked (R221, R222); after the last one it is
READY. -/
def State.waitEntry (s : State) (t : Task) : State :=
  let e := t.nextWait
  if tkWaits t.image ≤ e then (s.enter t .ready).1
  else
    let w1 := tkEntry t.image e 1
    let va := tkAddr t.image e
    match s.attempt (t.transition va (wbits w1 60 4) (wbits w1 53 3)) with
    | (.ok _, s1) =>
      let t1 := { t with nextWait := e + 1 }
      if e + 1 = tkWaits t.image then (s1.enter t1 .ready).1 else s1.setTask t1
    | (.error (.park key cond a), s1) => s1.addPark t.ctx (t.park key cond a)
    | (.error .stall, s1) => { s1 with rix := 0 }
    | (.error .ended, s1) => { s1 with rix := 0 }
    | (.error x, s1) => s1.failTask t (x.cause false va).1 (0xF0 + e) (BitVec.ofNat 64 va)

/-- R221, R222: the next wait entry of task h. -/
def execTaskWaitEntry (h : Word) (s : State) : Res :=
  match s.taskOf h with
  | none => .next s
  | some t =>
    .next (if t.state ≠ .queued ∨ s.taskParked h then s else if t.owes.isEmpty then s.waitEntry t else (s.pay t).1)

/-- Tasks of a cluster that wait for an engine. In a suspended context those without a spill area run to their end (R463). -/
def State.waitingTasks (s : State) (clus : Nat) : List Task :=
  s.tasks.filter fun t =>
    t.clus == clus && (t.state == .ready || t.state == .interrupted) && t.owes.isEmpty
      && (!(s.ctxOf t.ctx).suspended || tkSpill t.image == 0)

/-- The least number above `last` in a list, or its least one. -/
def nextInTurn (last : Nat) (l : List Nat) : Nat :=
  let m (xs : List Nat) := xs.foldl min (xs.headD 0)
  let up := l.filter fun x => last < x
  if up.isEmpty then m l else m up

/-- The task that R422 gives an engine next: highest PRIO, contexts in turn, lowest serial. -/
def State.nextTask (s : State) (clus : Nat) : Option Task :=
  let l := s.waitingTasks clus
  let top := l.foldl (fun p t => max p t.prio) 0
  let l1 := l.filter fun t => t.prio == top
  let ctx := nextInTurn (s.clusterOf clus).turn (l1.map (·.ctx))
  let l2 := l1.filter fun t => t.ctx == ctx
  l2.find? fun t => l2.all fun u => wbits t.h 0 48 ≤ wbits u.h 0 48

/-- RUNNING tasks of a cluster. -/
def State.runningTasks (s : State) (clus : Nat) : List Task := s.tasks.filter fun t => t.clus == clus && t.state == .running

/-- With no engine free, a task that outranks a RUNNING one with SPILL ≠ 0 has its interruption requested (R422); the
lowest such one is taken. -/
def State.requestEngine (s : State) (t : Task) : State :=
  let l := (s.runningTasks t.clus).filter fun u => tkSpill u.image != 0 && u.prio < t.prio
  if l.any fun u => u.suspendReq then s
  else
    match l.find? fun u => l.all fun v => u.prio ≤ v.prio with
    | none => s
    | some u => (s.setTask { u with suspendReq := true }).settleTask u.h

/-- Engines of a cluster in use: by RUNNING tasks, and by those whose DONE is not written yet (R222). -/
def State.enginesUsed (s : State) (clus : Nat) : Nat :=
  (s.tasks.filter fun t => t.clus == clus && (t.state == .running || (t.state == .done && !t.owes.isEmpty))).length

/-- The task that takes an engine now: RUNNING, its context served (R422). -/
def State.giveEngine (s : State) (t : Task) : State × Bool :=
  let c := s.clusterOf t.clus
  (s.setCluster t.clus { c with turn := t.ctx }).enter t .running

/-- R422: the cluster's scheduler issues the next task, when it is READY, to a free engine, or requests one. -/
def execTaskIssue (cluster : Nat) (s : State) : Res :=
  match s.nextTask cluster with
  | none => .next s
  | some t =>
    if t.state ≠ .ready then .next s
    else if 8 ≤ s.enginesUsed cluster then .next (s.requestEngine t)
    else .next ((s.giveEngine t.clear).1.settleTask t.h)

/-- R422: a READY task has waited 2^20 core cycles and is raised one class. -/
def execTaskAging (h : Word) (s : State) : Res :=
  match s.taskOf h with
  | none => .next s
  | some t =>
    .next (if t.state = .ready ∨ t.state = .interrupted then s.setTask { t with prio := min (t.prio + 1) 3 } else s)

/-- A task goes on, whose status write, interruption, end or signals wait; its last step over, it is DONE (R221, R222). -/
def State.goOn (s : State) (t : Task) : State :=
  match t.state with
  | .failed => s.failOn t
  | .cancelled => s.cancelOn t
  | .queued | .ready | .interrupted => (s.pay t).1
  | .running =>
    if !t.owes.isEmpty then (s.pay t).1.settleTask t.h
    else if s.requestDue t then s.settleTask t.h
    else if t.hasStep then s
    else
      match s.enter { t.clear with cancelReq := false, suspendReq := false } .done with
      | (s1, true) => s1.doneSignals { t.clear with state := .done, cancelReq := false, suspendReq := false } 0
      | (s1, false) => s1
  | .done =>
    match s.pay t with
    | (s1, true) => s1.doneSignals { t with owes := [] } t.nextSig
    | (s1, false) => s1

/-- R221, R222: after the last step STATUS is written DONE, then the signals are performed; a task that waits goes on. -/
def execTaskDone (h : Word) (s : State) : Res :=
  match s.taskOf h with
  | none => .next s
  | some t => .next (if s.taskParked h then s else s.goOn t)

end Sys2Proof.Machine
end

