-- ==== Sys2Proof/Machine/VInt.lean ====
section
/-! DEFINITION. Vector integer and pixel instructions (07 R161 to R171). -/
namespace Sys2Proof.Machine

/-- x(v) of R162: natural or signed by TY. -/
def readInt (ty : BitVec 3) (w v : Nat) : Int := if ty = 1 then sint w v else (v : Int)

/-- sat(y) of R162 as w bits. -/
def satInt (ty : BitVec 3) (w : Nat) (y : Int) : Nat :=
  let b := intBounds w (ty == 1)
  cut w (clampInt b.1 b.2 y)

/-- f(a, b, c) of 07 Table 7.2. -/
def intFn (fn : Nat) (ty : BitVec 3) (w a b c : Nat) : Nat :=
  let x := readInt ty w a
  let y := readInt ty w b
  let k := b % w
  match fn with
  | 0x00 => (a + b) % 2 ^ w
  | 0x01 => cut w ((a : Int) - b)
  | 0x02 => a * b % 2 ^ w
  | 0x03 => cut w (x * y / 2 ^ w)
  | 0x04 => (a * b + c) % 2 ^ w
  | 0x05 => satInt ty w (x + y)
  | 0x06 => satInt ty w (x - y)
  | 0x07 => cut w ((x + y + 1) / 2)
  | 0x08 => cut w (x - y).natAbs
  | 0x09 => if x ≤ y then a else b
  | 0x0A => if x ≥ y then a else b
  | 0x0B => a &&& b
  | 0x0C => a ||| b
  | 0x0D => a ^^^ b
  | 0x0E => a * 2 ^ k % 2 ^ w
  | 0x0F => a / 2 ^ k
  | 0x10 => cut w (sint w a / 2 ^ k)
  | 0x11 => (a * 2 ^ w + b) * 2 ^ (c % w) / 2 ^ w % 2 ^ w
  | _ => (a * 2 ^ w + b) / 2 ^ (c % w) % 2 ^ w

/-- The instruction reads VR(C). -/
def readsC (fn : Nat) : Bool := fn == 0x04 || fn == 0x11 || fn == 0x12

/-- The body of R162 with a second operand b(e); `vb` names its register when it has one. -/
def intBody (o : Op) (w : Word) (f : VvF) (fn : Nat) (vb : Option (BitVec 5)) (b : Vec → Nat → Nat) : M Unit := do
  let ew := widthOf f.ew
  vecIssue o w ([f.d.toNat, f.a.toNat] ++ (vb.map (·.toNat)).toList ++ (if readsC fn then [f.c.toNat] else [])) [ew]
  let s ← get
  let v := s.hart.vec
  let es := v.active f.msk f.mn
  consume f.a.toNat ew es
  match vb with
  | some r => consume r.toNat ew es
  | none => pure ()
  if readsC fn then consume f.c.toNat ew es
  vecDone fun v => v.writeElems f.d ew (es.map fun e =>
    (e, intFn fn f.ty ew (v.elem f.a.toNat e ew) (b v e) (if readsC fn then v.elem f.c.toNat e ew else 0)))

/-- OP 0x20: b from VR(B). -/
def intVv (o : Op) (fn : Nat) (f : VvF) (s : State) : Res :=
  let w := encVv 0x20 (BitVec.ofNat 6 fn) f
  s.run w (intBody o w f fn (some f.b) fun v e => v.elem f.b.toNat e (widthOf f.ew))

/-- OP 0x28: b from GR(B). -/
def intVs (o : Op) (fn : Nat) (f : VvF) (s : State) : Res :=
  let w := encVv 0x28 (BitVec.ofNat 6 fn) f
  s.run w (intBody o w f fn none fun _ _ => (s.rg f.b).toNat % 2 ^ widthOf f.ew)

/-- OP 0x30: b from IMM16. -/
def intVi (o : Op) (fn : Nat) (f : VvF) (s : State) : Res :=
  let w := encVv 0x30 (BitVec.ofNat 6 fn) f
  s.run w (intBody o w f fn none fun _ _ => cut (widthOf f.ew) f.imm.toInt)

/-! ## Table 7.2 -/

/-- R162, function 0x00. -/
def execVaddVv (f : VvF) (s : State) : Res := intVv .vaddVv 0x00 f s
/-- R162, function 0x00. -/
def execVaddVs (f : VvF) (s : State) : Res := intVs .vaddVs 0x00 f s
/-- R162, function 0x00. -/
def execVaddVi (f : VvF) (s : State) : Res := intVi .vaddVi 0x00 f s
/-- R162, function 0x01. -/
def execVsubVv (f : VvF) (s : State) : Res := intVv .vsubVv 0x01 f s
/-- R162, function 0x01. -/
def execVsubVs (f : VvF) (s : State) : Res := intVs .vsubVs 0x01 f s
/-- R162, function 0x01. -/
def execVsubVi (f : VvF) (s : State) : Res := intVi .vsubVi 0x01 f s
/-- R162, function 0x02. -/
def execVmulVv (f : VvF) (s : State) : Res := intVv .vmulVv 0x02 f s
/-- R162, function 0x02. -/
def execVmulVs (f : VvF) (s : State) : Res := intVs .vmulVs 0x02 f s
/-- R162, function 0x02. -/
def execVmulVi (f : VvF) (s : State) : Res := intVi .vmulVi 0x02 f s
/-- R162, function 0x03. -/
def execVmulhVv (f : VvF) (s : State) : Res := intVv .vmulhVv 0x03 f s
/-- R162, function 0x03. -/
def execVmulhVs (f : VvF) (s : State) : Res := intVs .vmulhVs 0x03 f s
/-- R162, function 0x03. -/
def execVmulhVi (f : VvF) (s : State) : Res := intVi .vmulhVi 0x03 f s
/-- R162, function 0x04. -/
def execVmacVv (f : VvF) (s : State) : Res := intVv .vmacVv 0x04 f s
/-- R162, function 0x04. -/
def execVmacVs (f : VvF) (s : State) : Res := intVs .vmacVs 0x04 f s
/-- R162, function 0x04. -/
def execVmacVi (f : VvF) (s : State) : Res := intVi .vmacVi 0x04 f s
/-- R162, function 0x05. -/
def execVaddsVv (f : VvF) (s : State) : Res := intVv .vaddsVv 0x05 f s
/-- R162, function 0x05. -/
def execVaddsVs (f : VvF) (s : State) : Res := intVs .vaddsVs 0x05 f s
/-- R162, function 0x05. -/
def execVaddsVi (f : VvF) (s : State) : Res := intVi .vaddsVi 0x05 f s
/-- R162, function 0x06. -/
def execVsubsVv (f : VvF) (s : State) : Res := intVv .vsubsVv 0x06 f s
/-- R162, function 0x06. -/
def execVsubsVs (f : VvF) (s : State) : Res := intVs .vsubsVs 0x06 f s
/-- R162, function 0x06. -/
def execVsubsVi (f : VvF) (s : State) : Res := intVi .vsubsVi 0x06 f s
/-- R162, function 0x07. -/
def execVavgVv (f : VvF) (s : State) : Res := intVv .vavgVv 0x07 f s
/-- R162, function 0x07. -/
def execVavgVs (f : VvF) (s : State) : Res := intVs .vavgVs 0x07 f s
/-- R162, function 0x07. -/
def execVavgVi (f : VvF) (s : State) : Res := intVi .vavgVi 0x07 f s
/-- R162, function 0x08. -/
def execVabsdVv (f : VvF) (s : State) : Res := intVv .vabsdVv 0x08 f s
/-- R162, function 0x08. -/
def execVabsdVs (f : VvF) (s : State) : Res := intVs .vabsdVs 0x08 f s
/-- R162, function 0x08. -/
def execVabsdVi (f : VvF) (s : State) : Res := intVi .vabsdVi 0x08 f s
/-- R162, function 0x09. -/
def execVminVv (f : VvF) (s : State) : Res := intVv .vminVv 0x09 f s
/-- R162, function 0x09. -/
def execVminVs (f : VvF) (s : State) : Res := intVs .vminVs 0x09 f s
/-- R162, function 0x09. -/
def execVminVi (f : VvF) (s : State) : Res := intVi .vminVi 0x09 f s
/-- R162, function 0x0A. -/
def execVmaxVv (f : VvF) (s : State) : Res := intVv .vmaxVv 0x0A f s
/-- R162, function 0x0A. -/
def execVmaxVs (f : VvF) (s : State) : Res := intVs .vmaxVs 0x0A f s
/-- R162, function 0x0A. -/
def execVmaxVi (f : VvF) (s : State) : Res := intVi .vmaxVi 0x0A f s
/-- R162, function 0x0B. -/
def execVandVv (f : VvF) (s : State) : Res := intVv .vandVv 0x0B f s
/-- R162, function 0x0B. -/
def execVandVs (f : VvF) (s : State) : Res := intVs .vandVs 0x0B f s
/-- R162, function 0x0B. -/
def execVandVi (f : VvF) (s : State) : Res := intVi .vandVi 0x0B f s
/-- R162, function 0x0C. -/
def execVorVv (f : VvF) (s : State) : Res := intVv .vorVv 0x0C f s
/-- R162, function 0x0C. -/
def execVorVs (f : VvF) (s : State) : Res := intVs .vorVs 0x0C f s
/-- R162, function 0x0C. -/
def execVorVi (f : VvF) (s : State) : Res := intVi .vorVi 0x0C f s
/-- R162, function 0x0D. -/
def execVxorVv (f : VvF) (s : State) : Res := intVv .vxorVv 0x0D f s
/-- R162, function 0x0D. -/
def execVxorVs (f : VvF) (s : State) : Res := intVs .vxorVs 0x0D f s
/-- R162, function 0x0D. -/
def execVxorVi (f : VvF) (s : State) : Res := intVi .vxorVi 0x0D f s
/-- R162, function 0x0E. -/
def execVshlVv (f : VvF) (s : State) : Res := intVv .vshlVv 0x0E f s
/-- R162, function 0x0E. -/
def execVshlVs (f : VvF) (s : State) : Res := intVs .vshlVs 0x0E f s
/-- R162, function 0x0E. -/
def execVshlVi (f : VvF) (s : State) : Res := intVi .vshlVi 0x0E f s
/-- R162, function 0x0F. -/
def execVshrVv (f : VvF) (s : State) : Res := intVv .vshrVv 0x0F f s
/-- R162, function 0x0F. -/
def execVshrVs (f : VvF) (s : State) : Res := intVs .vshrVs 0x0F f s
/-- R162, function 0x0F. -/
def execVshrVi (f : VvF) (s : State) : Res := intVi .vshrVi 0x0F f s
/-- R162, function 0x10. -/
def execVsraVv (f : VvF) (s : State) : Res := intVv .vsraVv 0x10 f s
/-- R162, function 0x10. -/
def execVsraVs (f : VvF) (s : State) : Res := intVs .vsraVs 0x10 f s
/-- R162, function 0x10. -/
def execVsraVi (f : VvF) (s : State) : Res := intVi .vsraVi 0x10 f s
/-- R162, function 0x11. -/
def execVfshlVv (f : VvF) (s : State) : Res := intVv .vfshlVv 0x11 f s
/-- R162, function 0x11. -/
def execVfshlVs (f : VvF) (s : State) : Res := intVs .vfshlVs 0x11 f s
/-- R162, function 0x11. -/
def execVfshlVi (f : VvF) (s : State) : Res := intVi .vfshlVi 0x11 f s
/-- R162, function 0x12. -/
def execVfshrVv (f : VvF) (s : State) : Res := intVv .vfshrVv 0x12 f s
/-- R162, function 0x12. -/
def execVfshrVs (f : VvF) (s : State) : Res := intVs .vfshrVs 0x12 f s
/-- R162, function 0x12. -/
def execVfshrVi (f : VvF) (s : State) : Res := intVi .vfshrVi 0x12 f s

/-! ## Counts, compares, selection, widths -/

/-- R163: a count over each active element. -/
def countBody (o : Op) (w : Word) (f : VvF) (g : Nat → Nat → Nat) : M Unit := do
  let ew := widthOf f.ew
  vecIssue o w [f.d.toNat, f.a.toNat] [ew]
  let s ← get
  let es := s.hart.vec.active f.msk f.mn
  consume f.a.toNat ew es
  vecDone fun v => v.writeElems f.d ew (es.map fun e => (e, g (v.elem f.a.toNat e ew) ew))

/-- R163. -/
def execVclz (f : VvF) (s : State) : Res :=
  let w := encVv 0x21 0 f
  s.run w (countBody .vclz w f leadZeros)

/-- R163. -/
def execVpopc (f : VvF) (s : State) : Res :=
  let w := encVv 0x21 1 f
  s.run w (countBody .vpopc w f popBits)

/-- R164. -/
def execVcmp (f : VvF) (s : State) : Res :=
  let w := encVv 0x21 2 f
  s.run w do
    let ew := widthOf f.ew
    vecIssue .vcmp w [f.a.toNat, f.b.toNat] [ew]
    let s ← get
    let es := s.hart.vec.active f.msk f.mn
    consume f.a.toNat ew es
    consume f.b.toNat ew es
    vecDone fun v => v.writeMask (f.d.setWidth 3) (es.map fun e =>
      let a := v.elem f.a.toNat e ew
      let b := v.elem f.b.toNat e ew
      (e, intCond (f.imm.toNat % 16) (sint ew a) (sint ew b) a b))

/-- R165: only the selected source is consumed (R159). -/
def execVsel (f : VvF) (s : State) : Res :=
  let w := encVv 0x21 3 f
  s.run w do
    let ew := widthOf f.ew
    vecIssue .vsel w [f.d.toNat, f.a.toNat, f.b.toNat] [ew]
    let s ← get
    let v := s.hart.vec
    let es := v.active f.msk f.mn
    let sel := v.mr (f.imm.toNat % 8)
    consume f.a.toNat ew (es.filter fun e => bitOf sel e)
    consume f.b.toNat ew (es.filter fun e => !bitOf sel e)
    vecDone fun v => v.writeElems f.d ew (es.map fun e =>
      (e, if bitOf sel e then v.elem f.a.toNat e ew else v.elem f.b.toNat e ew))

/-- Each active element of a two-type instruction: source width, destination width, the function of the source bits. -/
def convertBody (o : Op) (w : Word) (f : VvF) (ws wd : Nat) (g : Nat → Nat → Nat) : M Unit := do
  vecIssue o w [f.d.toNat, f.a.toNat] [ws, wd]
  let s ← get
  let es := s.hart.vec.active f.msk f.mn
  consume f.a.toNat ws es
  vecDone fun v => v.writeElems f.d wd (es.map fun e => (e, g e (v.elem f.a.toNat e ws)))

/-- R166, R167. -/
def execVwid (f : VvF) (s : State) : Res :=
  let w := encVv 0x21 4 f
  let ws := widthOf (Legal.srcEw f)
  let wd := widthOf f.ew
  s.run w (convertBody .vwid w f ws wd fun _ x => cut wd (readInt (Legal.srcTy f) ws x))

/-- R166, R167: with SAT = 1 the value is clamped to the destination type. -/
def execVnar (f : VvF) (s : State) : Res :=
  let w := encVv 0x21 5 f
  let ws := widthOf (Legal.srcEw f)
  let wd := widthOf f.ew
  s.run w (convertBody .vnar w f ws wd fun _ x =>
    let y := readInt (Legal.srcTy f) ws x
    if f.sat = 1 then satInt f.ty wd y else cut wd y)

/-! ## Packed pixels -/

/-- Bits of a stream of samples under ORDER = 1, one byte at a time: stream bit j of the spec, highest first. -/
def msbBits (bits at_ len : Nat) : Nat :=
  (List.range len).foldl (fun acc i =>
    let j := at_ + i
    2 * acc + bits / 2 ^ (8 * (j / 8) + 7 - j % 8) % 2) 0

/-- field(n, e) of R169. -/
def pixelField (order : Bool) (b bits e : Nat) : Nat := if order then msbBits bits (b * e) b else field bits (b * e) b

/-- The pieces that write field(n, e) := x (R169, R171). -/
def pixelPieces (order : Bool) (b e x : Nat) : List (Nat × Nat × Nat) :=
  if order then
    (List.range b).map fun i =>
      let j := b * e + i
      (8 * (j / 8) + 7 - j % 8, 1, x / 2 ^ (b - 1 - i) % 2)
  else [(b * e, b, x)]

/-- R168 to R170. Either order keeps a field's bits within the same bytes, and so within the same groups. -/
def execVpxu (f : VvF) (s : State) : Res :=
  let w := encVv 0x22 0 f
  let b := f.imm.toNat % 16
  let order := bitOf f.imm.toNat 4
  s.run w do
    vecIssue .vpxu w [f.d.toNat, f.a.toNat] [16]
    let s ← get
    let v := s.hart.vec
    let es := v.active f.msk f.mn
    if es.any fun e => poisonHit (v.poison f.a.toNat) (b * e) b then throw .poison
    vecDone fun v => v.writeElems f.d 16 (es.map fun e =>
      let x := pixelField order b (v.bits f.a.toNat) e
      (e, if f.ty = 1 then cut 16 (sint b x) else x))

/-- R171. -/
def execVpxp (f : VvF) (s : State) : Res :=
  let w := encVv 0x22 1 f
  let b := f.imm.toNat % 16
  let order := bitOf f.imm.toNat 4
  s.run w do
    vecIssue .vpxp w [f.d.toNat, f.a.toNat] [16]
    let s ← get
    let es := s.hart.vec.active f.msk f.mn
    consume f.a.toNat 16 es
    vecDone fun v => v.write f.d (es.flatMap fun e =>
      let y := readInt f.ty 16 (v.elem f.a.toNat e 16)
      let bounds := intBounds b (f.ty == 1)
      let y := if f.sat = 1 then clampInt bounds.1 bounds.2 y else y
      pixelPieces order b e (cut b y))

end Sys2Proof.Machine
end

