-- ==== Sys2Proof/Machine/Engine.lean ====
section
/-! DEFINITION. Engine commands: records, `batch`, completion and failure, COPY, FILL, CVT (17 R359 to R378, R520). -/
namespace Sys2Proof.Machine

/-! ## Command records (17 Table 17.1) -/

/-- Word i of a record. -/
def cwWord (r : List Word) (i : Nat) : Word := r.getD i 0
/-- KIND. -/
def cwKind (r : List Word) : Nat := wbits (cwWord r 0) 60 4
/-- CMPL. -/
def cwCmpl (r : List Word) : Nat := wbits (cwWord r 0) 58 2
/-- SCOPE. -/
def cwScope (r : List Word) : Nat := wbits (cwWord r 0) 55 3
/-- TRN. -/
def cwTrn (r : List Word) : Nat := wbits (cwWord r 0) 51 4
/-- FTRN. -/
def cwFtrn (r : List Word) : Nat := wbits (cwWord r 0) 47 4
/-- FVALID. -/
def cwFvalid (r : List Word) : Bool := wbits (cwWord r 0) 46 1 == 1
/-- SIZE. -/
def cwSize (r : List Word) : Nat := wbits (cwWord r 0) 0 40
/-- SRC. -/
def cwSrc (r : List Word) : Nat := wbits (cwWord r 1) 0 57
/-- DST. -/
def cwDst (r : List Word) : Nat := wbits (cwWord r 2) 0 57
/-- CADDR. -/
def cwCaddr (r : List Word) : Nat := wbits (cwWord r 3) 0 57
/-- STAT. -/
def cwStat (r : List Word) : Nat := wbits (cwWord r 7) 0 57

/-- R363 to R367 on the common words. -/
def commonOk (r : List Word) : Bool :=
  let w0 := cwWord r 0
  let cm := cwCmpl r
  1 ≤ cwKind r && cwKind r ≤ 7 && cm != 3 && wbits w0 40 6 == 0
    && ([1, 2, 3, 7].all fun k => wbits (cwWord r k) 57 7 == 0)
    && (cm == 1 || (cwTrn r == 0 && cwFtrn r == 0 && !cwFvalid r)) && (cwFvalid r || cwFtrn r == 0)
    && (cm != 0 || cwScope r == 0) && (cwStat r != 0 || cm == 2 || (cm == 1 && cwFvalid r))
    && (if cm = 0 then cwCaddr r == 0 else cwCaddr r % 64 == 0) && cwStat r % 16 == 0

/-- The types and modes of CVT word 4 (17 Table 17.5). -/
structure Cvt where
  ibase : Nat
  rew : BitVec 3
  rty : BitVec 3
  ef : Bool
  sat : Bool
  rm : Nat
  dew : BitVec 3
  dty : BitVec 3
  sew : BitVec 3
  sty : BitVec 3
  deriving DecidableEq, Repr

/-- CVT word 4. -/
def Cvt.of (w : Word) : Cvt :=
  let b lo : BitVec 3 := BitVec.ofNat 3 (wbits w lo 3)
  { ibase := wbits w 24 40, rew := b 21, rty := b 18, ef := wbits w 17 1 == 1, sat := wbits w 16 1 == 1
    rm := wbits w 13 3, dew := b 9, dty := b 6, sew := b 3, sty := b 0 }

/-- Formats of the narrow value and of the residue (R377). -/
def narrowPair (ew ty : BitVec 3) : Bool := Legal.floatPair ew ty && ew.toNat ≤ 1

/-- A CVT between two floats, or between an integer and a float (R377). -/
def Cvt.plainPair (c : Cvt) : Bool :=
  (Legal.floatPair c.dew c.dty && Legal.floatPair c.sew c.sty && !(c.dew == c.sew && c.dty == c.sty))
    || (!c.sat && ((Legal.intPair c.dew c.dty && Legal.ieeePair c.sew c.sty)
        || (Legal.ieeePair c.dew c.dty && Legal.intPair c.sew c.sty)))

/-- R377: the pair and its fields are implemented. -/
def cvtOk (r : List Word) : Bool :=
  let c := Cvt.of (cwWord r 4)
  wbits (cwWord r 4) 12 1 == 0 && c.rm < 6
    && (if c.ef then
          (c.sew.toNat == 2 || c.sew.toNat == 3) && c.sty.toNat == 2 && narrowPair c.dew c.dty && narrowPair c.rew c.rty
        else
          c.rew == 0 && c.rty == 0 && cwWord r 5 == 0
            && (c.plainPair
              || (!c.sat && cwSize r % 32 == 0
                && ((Legal.e2m1Pair c.dew c.dty && Legal.quantPair c.sew c.sty && c.rm == 0)
                  || (Legal.e2m1Pair c.sew c.sty && Legal.quantPair c.dew c.dty)))))

/-- BITS, ORDER and SIGNED of a word in XFORM mode 0. -/
def unpackOk (w : Word) : Bool := wbits w 0 4 == 10 || wbits w 0 4 == 12 || wbits w 0 4 == 14

/-- The queue descriptor of a STORRD as bytes (17 Table 17.9): the fields that R388 bounds, and its reserved bits. -/
def descriptorOk (d : List Byte) : Bool :=
  let w := wordAt d
  wbits (w 0) 57 7 == 0 && wbits (w 0) 0 6 == 0 && wbits (w 8) 57 7 == 0 && wbits (w 8) 0 4 == 0 && wbits (w 16) 48 16 == 0
    && wbits (w 24) 57 7 == 0 && wbits (w 32) 57 7 == 0 && wbits (w 48) 24 40 == 0 && 1 ≤ wbits (w 48) 8 16
    && 9 ≤ wbits (w 48) 0 8 && wbits (w 48) 0 8 ≤ 16 && wbits (w 56) 33 31 == 0

/-- A record of a STORRD names a descriptor that the judging reads (R388). -/
def readsDescriptor (r : List Word) : Bool := cwKind r == 6 && cwSrc r == 0 && wbits (cwWord r 4) 57 7 == 0

/-- STORRD's rules (R388); the descriptor is read where it can be, and a poisoned one is met by the command (DESIGN CHOICE, log
32). -/
def State.storrdOk (s : State) (r : List Word) : Bool :=
  readsDescriptor r
    && (s.ctxPoisoned s.hart.ctx s.hart.level (cwWord r 4).toNat 64 || match s.ctxRead s.hart.ctx s.hart.level (cwWord r 4).toNat 64 with
        | none => true
        | some d => descriptorOk d && cwSize r % 2 ^ wbits (wordAt d 48) 0 8 == 0)

/-- The rules of a record's kind. -/
def State.kindOk (s : State) (r : List Word) : Bool :=
  let w := cwWord r
  match cwKind r with
  | 1 => w 4 == 0 && w 5 == 0 && w 6 == 0
  | 2 => cvtOk r
  | 3 =>
    cwSize r % 4096 == 0 && wbits (w 4) 40 24 == 0 && w 6 == 0
      && (if wbits (w 5) 63 1 = 1 then unpackOk (w 5) && wbits (w 5) 6 57 == 0 else w 5 == 0)
  | 4 => cwSize r % 4096 == 0 && wbits (w 4) 40 24 == 0 && w 5 == 0 && w 6 == 0
  | 5 =>
    if wbits (w 4) 60 4 = 0 then unpackOk (w 4) && wbits (w 4) 6 54 == 0 && w 5 == 0 && w 6 == 0
    else
      wbits (w 4) 60 4 == 1 && wbits (w 4) 3 57 == 0 && wbits (w 5) 0 6 == 0 && cwDst r == 0 && w 6 == 0
        && !(Table.get [] (wbits (w 4) 0 3) (s.ctxOf s.hart.ctx).xslots).isEmpty
  | 6 => s.storrdOk r
  | 7 => cwSrc r == 0 && w 5 == 0 && w 6 == 0
  | _ => false

/-- The command needs a unit that the part lacks (R27). -/
def State.unitAbsent (s : State) (r : List Word) : Bool :=
  let c := Cvt.of (cwWord r 4)
  (cwKind r == 2 && !s.hasF64
      && ((c.sew.toNat == 3 && c.sty.toNat == 2) || (c.dew.toNat == 3 && c.dty.toNat == 2)))
    || (!s.hasXform && (cwKind r == 5 || (cwKind r == 3 && wbits (cwWord r 5) 63 1 == 1)))

/-! ## Commands in flight -/

/-- A command, by its number. -/
def State.cmdOf (s : State) (id : Nat) : Option Cmd := s.cmds.find? fun c => c.id == id

/-- A command replaced. -/
def State.setCmd (s : State) (c : Cmd) : State := { s with cmds := s.cmds.map fun x => if x.id == c.id then c else x }

/-- The accesses of a command (R519). -/
def Cmd.who (c : Cmd) : Who := { agent := .cmd c.id, ctx := c.ctx, level := c.level, orig := 1 }

/-- An access of the command is parked. -/
def State.cmdParked (s : State) (id : Nat) : Bool := s.parks.any fun p => p.agent == .cmd id

/-- Slots of a core that commands hold (R359). -/
def State.slotsUsed (s : State) (core : Nat) : Nat := (s.cmds.filter fun c => c.core == core && c.slotted).length

/-- The command is gone and its slot free; a STORRD whose drive has entries to return stays as LATE. -/
def State.endCmd (s : State) (c : Cmd) : State :=
  if c.pieces.isEmpty then { s with cmds := s.cmds.filter fun x => x.id != c.id }
  else s.setCmd { c with phase := .late, slotted := false }

/-! ## Completion and failure (R366 to R370, R520) -/

/-- The two status words of a command (17 Table 17.2). -/
def Cmd.statusBytes (c : Cmd) (count : Nat) : List Byte :=
  let io := if c.cause = 14 then c.sct * 2 ^ 48 + c.sc * 2 ^ 40 else 0
  toBytes ((if c.failed then 5 else 4) * 2 ^ 60 + c.cause * 2 ^ 52 + io + count % 2 ^ 40) 8
    ++ toBytes c.faddr.toNat 8

/-- `.sys` of 04 Table 4.4. -/
def scopeSys : Nat := 7

/-- The status written, when the record names an area: one awaited store with a release side at `.sys` (R366, R497)
(DEDUCED, log 30). -/
def Cmd.writeStatus (c : Cmd) (count : Nat) : M Unit := do
  if cwStat c.w = 0 then pure ()
  else do
    let _ ← perform c.who [{ plainOp (cwStat c.w) 16 (.store (c.statusBytes count)) with ord := 2, scope := scopeSys }]
    change fun s => s.settle c.who.agent

/-- An arrival by a command at its SCOPE (R369, R410): the line's checks, then the arrival (DEDUCED, log 29). -/
def Cmd.arrive (c : Cmd) (n : Nat) : M Unit := do
  let _ ← linePart c.who (cwCaddr c.w) 24 true
  let _ ← arriveAt c.who (cwCaddr c.w) n c.failed (cwScope c.w)

/-- No failure path could be performed: the context ends with MCHECK and TVAL 0 (R520). -/
def State.unseen (s : State) (c : Cmd) : State :=
  if c.seen then s.endCmd c else s.endContext c.ctx (imprecise causeMcheck) 0 none

/-- A park of a command's signal: the command is held, with its slot. -/
def State.parkCmd (s : State) (c : Cmd) (key : ParkKey) (cond : ParkCond) (va : Nat) : State :=
  let s1 := s.setCmd { c with phase := .held }
  s1.addPark c.ctx { key, cond, agent := c.who.agent, va, page := 0, lim := 0, pkt := [] }

/-- COUNT of a failed command: a free number from 0 to SIZE (R366). -/
def State.failCount (s : State) (c : Cmd) : Nat := s.freeWord.toNat % (cwSize c.w + 1)

/-- A command that waits where it stands. -/
def State.holdCmd (s : State) (c : Cmd) : State := { s.setCmd c with rix := 0 }

/-- The status of a command whose arrival was not performed, and its end: it does not arrive again (R520). -/
def State.finalStatus (s : State) (c : Cmd) : State :=
  match s.nextTick.attempt (c.writeStatus (s.failCount c)) with
  | (.ok _, s1) => s1.unseen { c with seen := c.seen || cwStat c.w != 0 }
  | (.error .stall, s1) => s1.holdCmd c
  | (.error .ended, s1) => { s1 with rix := 0 }
  | (.error _, s1) => (s1.settle c.who.agent).unseen c

/-- A stop of a command's arrival: the command fails with its cause, and writes its status anew (R520). -/
def State.arrivalFails (s : State) (c : Cmd) (e : Stop) : State :=
  let x := e.cause true (cwCaddr c.w)
  let c1 := { c with failed := true, cause := x.1, faddr := x.2, phase := .final }
  ((s.settle c.who.agent).setCmd c1).finalStatus c1

/-- The failure signal of a command (R370, R520). -/
def State.failSignal (s : State) (c : Cmd) : State :=
  let va := cwCaddr c.w
  match cwCmpl c.w with
  | 1 =>
    if cwFvalid c.w then
      match s.attempt (engineTransition c.who va (cwFtrn c.w) (cwScope c.w)) with
      | (.ok _, s1) => (s1.settle c.who.agent).endCmd c
      | (.error (.park key cond a), s1) => s1.parkCmd c key cond a
      | (.error .stall, s1) => s1.holdCmd c
      | (.error .ended, s1) => { s1 with rix := 0 }
      | (.error _, s1) => (s1.settle c.who.agent).unseen c
    else s.unseen c
  | 2 =>
    match s.attempt (c.arrive (if cwKind c.w = 4 ∨ cwKind c.w = 5 then 0 else cwSize c.w)) with
    | (.ok _, s1) => (s1.settle c.who.agent).endCmd c
    | (.error .stall, s1) => s1.holdCmd c
    | (.error .ended, s1) => { s1 with rix := 0 }
    | (.error e, s1) => s1.arrivalFails c e
  | _ => s.unseen c

/-- The failure path of a command that has failed, from its status write on (R370). A write that fails is dropped (R520). -/
def State.failPath (s : State) (c : Cmd) : State :=
  match s.nextTick.attempt (c.writeStatus (s.failCount c)) with
  | (.ok _, s1) =>
    let c1 := { c with phase := .held, seen := cwStat c.w != 0 }
    (s1.setCmd c1).failSignal c1
  | (.error .stall, s1) => s1.holdCmd c
  | (.error .ended, s1) => { s1 with rix := 0 }
  | (.error _, s1) =>
    let c1 := { c with phase := .held }
    ((s1.settle c.who.agent).setCmd c1).failSignal c1

/-- R370: a command fails. -/
def State.failCmd (s : State) (c : Cmd) (cause : Nat) (faddr : Word) : State :=
  let c1 := { c with failed := true, cause, faddr, phase := .complete }
  (s.setCmd c1).failPath c1

/-- The completion signal of a command whose DONE status is written (R368, R369). -/
def State.doneSignal (s : State) (c : Cmd) : State :=
  let va := cwCaddr c.w
  match cwCmpl c.w with
  | 1 =>
    match s.attempt (engineTransition c.who va (cwTrn c.w) (cwScope c.w)) with
    | (.ok _, s1) => (s1.settle c.who.agent).endCmd c
    | (.error (.park key cond a), s1) => s1.parkCmd c key cond a
    | (.error .stall, s1) => s1.holdCmd c
    | (.error .ended, s1) => { s1 with rix := 0 }
    | (.error e, s1) =>
      let x := e.cause false va
      (s1.settle c.who.agent).failCmd c x.1 x.2
  | 2 =>
    match s.attempt (c.arrive c.count) with
    | (.ok _, s1) => (s1.settle c.who.agent).endCmd c
    | (.error .stall, s1) => s1.holdCmd c
    | (.error .ended, s1) => { s1 with rix := 0 }
    | (.error e, s1) => s1.arrivalFails c e
  | _ => s.endCmd c

/-- The status and the signal of a command whose accesses are done (R368, R370), or its signal alone. -/
def State.finishCmd (s : State) (c : Cmd) : State :=
  match c.phase with
  | .complete =>
    if c.failed then s.failPath c
    else
      match s.attempt (c.writeStatus c.count) with
      | (.ok _, s1) =>
        let c1 := { c with phase := .held }
        (s1.setCmd c1).doneSignal c1
      | (.error .stall, s1) => s1.holdCmd c
      | (.error .ended, s1) => { s1 with rix := 0 }
      | (.error e, s1) =>
        let x := e.cause true (cwStat c.w)
        (s1.settle c.who.agent).failCmd c x.1 x.2
  | .held => if c.failed then s.failSignal c else s.doneSignal c
  | .final => s.finalStatus c
  | .work | .late => s

/-- R368 to R370: the command's status and completion or failure signal. -/
def execCommandComplete (id : Nat) (s : State) : Res :=
  match s.cmdOf id with
  | none => .next s
  | some c => .next (if s.cmdParked id then s else s.finishCmd c)

/-! ## `batch` (R362) -/

/-- The command of an accepted record; a zero-size one is complete. -/
def State.newCmd (s : State) (r : List Word) : Cmd :=
  { id := s.cmdId, core := s.hart.core, ctx := s.hart.ctx, level := s.hart.level, w := r
    table := if cwKind r = 5 ∧ wbits (cwWord r 4) 60 4 = 1 then
        Table.get [] (wbits (cwWord r 4) 0 3) (s.ctxOf s.hart.ctx).xslots else []
    slotted := cwSize r != 0, phase := if cwSize r = 0 ∧ cwKind r ≠ 5 then .complete else .work, failed := false, cause := 0
    sct := 0, sc := 0, count := 0, faddr := 0, seen := false, begun := false, left := [], fate := none
    wrote := [0, 0, 0, 0], tallied := false, pieces := [], pick := none, asked := 0, issued := false, cover := []
    filled := [], loose := none, under := none }

/-- The completion transition of a zero-size record is illegal under park now (R359). -/
def State.parksAtOnce (s : State) (c : Cmd) : Bool :=
  cwSize c.w == 0 && cwCmpl c.w == 1
    && (match (s.attempt (engineTransition c.who (cwCaddr c.w) (cwTrn c.w) (cwScope c.w))).1 with
        | .error (.park _ _ _) => true
        | _ => false)

/-- A record is judged (R362): whether it is accepted, and the state after, in which the page of a descriptor that was read has
A set (R275). -/
def State.judgeRecord (s0 : State) (work : State → Cmd → State) (r : List Word) : Bool × State :=
  let s := if commonOk r && readsDescriptor r then s0.ctxSeen s0.hart.ctx s0.hart.level (cwWord r 4).toNat 64 else s0
  if !commonOk r || !s.kindOk r || s.unitAbsent r then (false, s)
  else
    let c := s.newCmd r
    let parks := s.parksAtOnce c
    if (cwSize r ≠ 0 ∨ parks) ∧ 64 ≤ s.slotsUsed s.hart.core then (false, s)
    else
      let s1 := { s with cmds := s.cmds ++ [{ c with slotted := c.slotted || parks }], cmdId := s.cmdId + 1 }
      (true, if cwSize r = 0 then work s1 { c with slotted := parks } else s1)

/-- A write cut at 64-byte lines (R372): the first piece keeps the alignment asked for; fuel bounds their number. -/
def cutLines : Nat → LineStore → List LineStore
  | 0, _ => []
  | fuel + 1, x =>
    if x.bytes.isEmpty then []
    else
      let k := min x.bytes.length (64 - x.va % 64)
      { x with bytes := x.bytes.take k } :: cutLines fuel { x with va := x.va + k, align := 1, bytes := x.bytes.drop k }

/-- A write as stores of at most a line (R372). -/
def LineStore.lines (x : LineStore) : List LineStore := cutLines (x.bytes.length / 64 + 2) x

/-- A plain write. -/
def lineStore (va align : Nat) (bytes : List Byte) : LineStore := { va, align, bytes, way := 0, pois := none }

/-! ## The accesses of a kind -/

/-- What a command's body makes of its source: the writes in order, how many bytes or elements count, and the failure that
ends it after them. -/
structure Work where
  writes : List LineStore
  count : Nat
  fail : Option (Nat × Word)
  /-- The ranges that it reads and those that it writes, for R371. -/
  reads : List (Nat × Nat)
  targets : List (Nat × Nat)
  deriving DecidableEq, Repr

/-- A read of n bytes by a command: its bytes and whether they are poisoned, or the failure of a check. -/
def Cmd.tryRead (c : Cmd) (va n align : Nat) : M (Except (Nat × Word) (List Byte × Bool)) := do
  if va % align ≠ 0 then return .error (causeAlign, BitVec.ofNat 64 va)
  tryCatch
    (do
      let r ← perform c.who [{ plainOp va n .load with strict := false }]
      return .ok (r.headD ([], false)))
    fun e =>
      match e with
      | .trap code v _ _ => return .error (code, v)
      | .poison => return .error (causePoison, BitVec.ofNat 64 va)
      | .mcheck => return .error (causeMcheck, BitVec.ofNat 64 va)
      | e => throw e

/-- A read that poison fails (R370). -/
def Cmd.readClean (c : Cmd) (va n align : Nat) : M (Except (Nat × Word) (List Byte)) := do
  match ← c.tryRead va n align with
  | .error e => return .error e
  | .ok (bs, p) => return if p then .error (causePoison, BitVec.ofNat 64 va) else .ok bs

/-- Reads n bytes line by line up to the first failure: the bytes before it, and the failure. -/
def Cmd.readStream (c : Cmd) : Nat → Nat → Nat → M (List Byte × Option (Nat × Word))
  | 0, _, _ => pure ([], none)
  | fuel + 1, va, n => do
    if n = 0 then return ([], none)
    let k := min n (64 - va % 64)
    match ← c.readClean va k 1 with
    | .error e => return ([], some e)
    | .ok bs =>
      let rest ← c.readStream fuel (va + k) (n - k)
      return (bs ++ rest.1, rest.2)

/-- Physical extents of a virtual range as far as it is mapped: (first byte, bytes). -/
def State.physOf (s : State) (ctx : Nat) : Nat → Nat → Nat → List (Nat × Nat)
  | 0, _, _ => []
  | fuel + 1, va, n =>
    if n = 0 then []
    else
      let k := min n (16384 - va % 16384)
      match s.walk ctx va with
      | some l => (l.base + va % l.size, k) :: s.physOf ctx fuel (va + k) (n - k)
      | none => s.physOf ctx fuel (va + k) (n - k)

/-- Two ranges of physical memory share a byte (DEDUCED, log 34). -/
def State.rangesMeet (s : State) (ctx : Nat) (x y : Nat × Nat) : Bool :=
  let p := s.physOf ctx (x.2 / 16384 + 2) x.1 x.2
  let q := s.physOf ctx (y.2 / 16384 + 2) y.1 y.2
  p.any fun a => q.any fun b => decide (a.1 < b.1 + b.2 ∧ b.1 < a.1 + a.2)

/-- A source meets a destination, or two destinations meet (R371). -/
def State.overlaps (s : State) (ctx : Nat) (w : Work) : Bool :=
  (w.targets.any fun t => w.reads.any fun r => s.rangesMeet ctx t r)
    || (w.targets.zipIdx.any fun t => w.targets.zipIdx.any fun u => t.2 < u.2 && s.rangesMeet ctx t.1 u.1)

/-- n free bytes. -/
def State.freeBytes (s : State) (n : Nat) : List Byte :=
  (List.range n).map fun i => BitVec.ofNat 8 (field (Config.freeWord (s.tick + i / 8)).toNat (8 * (i % 8)) 8)

/-- The bytes of writes replaced by free ones, where R371 leaves the written values open. -/
def State.freeWrites (s : State) : List LineStore → State × List LineStore
  | [] => (s, [])
  | y :: t =>
    let x := ({ s with tick := s.tick + y.bytes.length / 8 + 1 } : State).freeWrites t
    (x.1, { y with bytes := s.freeBytes y.bytes.length } :: x.2)

/-- The first byte of a command's write whose address is not aligned as its kind asks (R378). -/
def LineStore.misaligned (x : LineStore) : Bool := x.va % x.align != 0

/-- A command's source is read: its writes are to come, as stores of lines; a misaligned one fails it in its turn. Where ranges
meet, every value that it writes is free, WCNT of a run among them (R371). -/
def Cmd.carry (c : Cmd) (w : Work) : M Cmd := do
  let s0 ← get
  let x ←
    if s0.overlaps c.ctx w then do
      let x := s0.freeWrites w.writes
      set { x.1 with tick := x.1.tick + 5 }
      pure (some (x.1.freeBytes 32), x.2)
    else pure (none, w.writes)
  let left := x.2.flatMap LineStore.lines
  let fate := ((left.find? LineStore.misaligned).map fun x => (causeAlign, BitVec.ofNat 64 x.va)).orElse fun _ => w.fail
  return { c with begun := true, left := left.takeWhile fun x => !x.misaligned, count := w.count, fate, loose := x.1 }

/-- A store of a command, translated now (R372). A poisoned line goes with it (R375). -/
def Cmd.storeLine (c : Cmd) (x : LineStore) : M Unit := do
  if x.pois.isSome then storePoisoned c.who x.va x.bytes
  else do
    let _ ← perform c.who [plainOp x.va x.bytes.length (.store x.bytes)]
  change fun s => s.settle c.who.agent

/-! ## Lines that the writes of a command together cover (R318) -/

/-- The bytes of a line that n bytes at va write, as a mask. -/
def lineMask (line va n : Nat) : Nat :=
  let lo := max va line
  let hi := min (va + n) (line + 64)
  2 ^ (hi - line) - 2 ^ (lo - line)

/-- The lines written in part, with what a write adds. -/
def Cmd.covering (c : Cmd) (va n : Nat) : List (Nat × Nat) :=
  (linesOf va n).foldl (fun l k =>
    let line := 64 * k
    let old := (l.lookup line).getD 0
    (l.filter fun x => x.1 != line) ++ [(line, old ||| lineMask line va n)]) c.cover

/-- The line at an address loses its poison. -/
def State.cleanVa (s : State) (w : Who) (va : Nat) : State :=
  match s.checkPart [] w.ctx w.level .store va 64 with
  | .ok p => if p.isRemote || !(s.metaOf (lineOf p.pa)).pois then s else s.setPois (lineOf p.pa) false
  | .error _ => s

/-- Every byte of the line is written. -/
def lineFull (x : Nat × Nat) : Bool := x.2 == 2 ^ 64 - 1

/-- Lines that the writes of a command together cover lose their poison; those of COPY take it from their source (R375). -/
def State.cleanCovered (s : State) (c : Cmd) (l : List (Nat × Nat)) : State :=
  if cwKind c.w = 1 then s else (l.filter lineFull).foldl (fun t x => t.cleanVa c.who x.1) s

/-- The command with a write of n bytes at va counted among those that have landed. -/
def Cmd.wroteAt (c : Cmd) (va n : Nat) : Cmd := { c with cover := (c.covering va n).filter fun y => !lineFull y }

/-- Mode 1 of XFORM. -/
def Cmd.isRun (c : Cmd) : Bool := cwKind c.w == 5 && wbits (cwWord c.w 4) 60 4 == 1

/-- The writes of a command are over: a transducer run has WCNT to write yet (R385); else its status comes. COUNT of a run is
the sum of what it wrote. -/
def Cmd.written (c : Cmd) : Cmd :=
  if c.isRun && !c.tallied then
    { c with
      tallied := true
      left := [lineStore ((cwWord c.w 5).toNat + 64) 1 (c.loose.getD (c.wrote.flatMap fun k => toBytes k 8))] }
  else
    match c.fate with
    | some (code, v) => { c with phase := .complete, failed := true, cause := taskCause true code, faddr := v }
    | none => { c with phase := .complete, count := if c.isRun then c.wrote.foldl (· + ·) 0 else c.count }

/-- A store of a run counts for its way; WCNT itself for none. -/
def Cmd.counted (c : Cmd) (x : LineStore) : List Nat :=
  if c.tallied then c.wrote else c.wrote.set x.way (c.wrote.getD x.way 0 + x.bytes.length)

/-- Stores of a command in turn: one in an event, and on while the engine goes on, which is free; a failed one ends them, and comes
before what its source was to fail with after its writes, but not before what a run failed with ahead of WCNT (R370). -/
def State.writeLines (s : State) (c : Cmd) : List LineStore → State
  | [] => s.setCmd c.written
  | x :: t =>
    match s.attempt (c.storeLine x) with
    | (.ok _, s1) =>
      let c1 := { c.wroteAt x.va x.bytes.length with left := t, wrote := c.counted x }
      let s2 := ((s1.cleanCovered c (c.covering x.va x.bytes.length)).setCmd c1).nextTick
      if Config.freeBool s1.tick || t.isEmpty then s2.writeLines c1 t else { s2 with rix := 0 }
    | (.error .stall, s1) => { s1 with rix := 0 }
    | (.error .ended, s1) => { s1 with rix := 0 }
    | (.error e, s1) =>
      let f := match e with
        | .trap code v _ _ => (code, v)
        | .poison => (causePoison, BitVec.ofNat 64 x.va)
        | _ => (causeMcheck, BitVec.ofNat 64 x.va)
      let fate := if c.tallied then c.fate.orElse fun _ => some f else some f
      (s1.settle c.who.agent).setCmd ({ c with left := [], fate } : Cmd).written

/-- An event of a command's kind: the command in flight and at work reads its source, or goes on with its writes (R372). -/
def State.workCmd (s : State) (id kind : Nat) (body : Cmd → M Cmd) : State :=
  match s.cmdOf id with
  | none => s
  | some c =>
    if c.phase ≠ .work ∨ cwKind c.w ≠ kind then s
    else if c.begun then s.writeLines c c.left
    else
      match s.attempt (body c) with
      | (.ok c1, s1) =>
        let s2 := (s1.settle c.who.agent).setCmd c1
        if c1.begun then s2.writeLines c1 c1.left else s2
      | (.error .stall, s1) => { s1 with rix := 0 }
      | (.error .ended, s1) => { s1 with rix := 0 }
      | (.error e, s1) =>
        let x := e.cause true 0
        (s1.settle c.who.agent).setCmd { c with phase := .complete, failed := true, cause := x.1, faddr := x.2 }

/-! ## COPY and FILL (R374, R375) -/

/-- The whole source of a COPY, by lines: (offset, bytes, poisoned). A poisoned line that is not copied as a whole line into
a whole line fails it (DEDUCED, log 31). -/
def Cmd.copySource (c : Cmd) (same : Bool) : Nat → Nat → Nat → M (Except (Nat × Word) (List (Nat × List Byte × Bool)))
  | 0, _, _ => pure (.ok [])
  | fuel + 1, o, n => do
    if n = 0 then return .ok []
    let va := cwSrc c.w + o
    let k := min n (64 - va % 64)
    match ← c.tryRead va k 1 with
    | .error e => return .error e
    | .ok (bs, p) =>
      if p && !(same && k == 64) then return .error (causePoison, BitVec.ofNat 64 va)
      match ← c.copySource same fuel (o + k) (n - k) with
      | .error e => return .error e
      | .ok t => return .ok ((o, bs, p) :: t)

/-- COPY: the source is read before any byte is written (R371); lines copied whole carry their poison. Its writes are cut at the
lines of the destination, so that each aligned unit of 8 bytes is one store's (R285). -/
def Cmd.copyBody (c : Cmd) : M Cmd := do
  let n := cwSize c.w
  let same := cwSrc c.w % 64 == cwDst c.w % 64
  match ← c.copySource same (n / 64 + 2) 0 n with
  | .error (code, v) => return { c with phase := .complete, failed := true, cause := taskCause true code, faddr := v }
  | .ok ps =>
    c.carry
      { writes :=
          if same then
            ps.map fun p =>
              { lineStore (cwDst c.w + p.1) 1 p.2.1 with pois := if p.2.2 then some (cwSrc c.w + p.1) else none }
          else [lineStore (cwDst c.w) 1 (ps.flatMap fun p => p.2.1)]
        count := n, fail := none, reads := [], targets := [] }

/-- R374. -/
def execCopy (id : Nat) (s : State) : Res := .next (s.workCmd id 1 Cmd.copyBody)

/-- FILL: byte i takes byte (i mod 8) of W4. -/
def Cmd.fillBody (c : Cmd) : M Cmd := do
  let pat := toBytes (cwWord c.w 4).toNat 8
  let bs := (List.range (cwSize c.w)).map fun i => pat.getD (i % 8) 0
  c.carry { writes := [lineStore (cwDst c.w) 1 bs], count := cwSize c.w, fail := none, reads := [], targets := [] }

/-- R374. -/
def execFill (id : Nat) (s : State) : Res := .next (s.workCmd id 7 Cmd.fillBody)

/-! ## CVT (R376 to R378) -/

/-- The rounding of element e. -/
def Cmd.rndAt (c : Cmd) (e : Nat) : Rnd :=
  let v := Cvt.of (cwWord c.w 4)
  ⟨(modeOf v.rm).getD .rne, cwWord c.w 6, BitVec.ofNat 64 (v.ibase + e)⟩

/-- Bits of a type. -/
def Cvt.bytes (ew : BitVec 3) : Nat := widthOf ew / 8

/-- SAT of a conversion acts on the 8-bit formats alone (R107). -/
def Fmt.saturates (f : Fmt) (sat : Bool) : Bool := sat && f.width == 8

/-- Error feedback (R116): the narrow value and the residue. -/
def feedback (dst res src : Fmt) (r : Rnd) (sat : Bool) (x : Nat) : Nat × Nat :=
  let v := src.val x
  let n := dst.round r (dst.saturates sat) v
  let nv := dst.val n
  let residue :=
    match v, nv with
    | .nan, _ => res.nan
    | _, .inf _ => 0
    | .fin .., .nan => 0
    | v, nv => res.round Rnd.rne (res.saturates sat) (v.add false nv.neg)
  (n, residue)

/-- Element e of the plain pairs: the destination's bits. -/
def Cvt.convert (v : Cvt) (r : Rnd) (x : Nat) : Nat :=
  let src := fmtOf v.sew v.sty
  let dst := fmtOf v.dew v.dty
  if Legal.isInt v.dty then
    let b := intBounds (widthOf v.dew) (v.dty == 1)
    cut (widthOf v.dew) ((src.val x).toInt r b.1 b.2)
  else if Legal.isInt v.sty then dst.round r false (Val.ofInt (readInt v.sty (widthOf v.sew) x) 0)
  else convertFloat dst src r v.sat x

/-- The 18 bytes of a quantised block (R118). -/
def blockBytes (xs : List Val) : List Byte :=
  let q := quantise xs
  toBytes (q.1 + (q.2.zipIdx.foldl (fun acc x => acc + x.1 * 2 ^ (16 + 4 * x.2)) 0)) 18

/-- Bytes of element e from its source bits: the value, and its residue (R378). -/
def Cmd.cvtElem (c : Cmd) (e x : Nat) : List Byte × List Byte :=
  let v := Cvt.of (cwWord c.w 4)
  let dw := Cvt.bytes v.dew
  if v.ef then
    let n := feedback (fmtOf v.dew v.dty) (fmtOf v.rew v.rty) (fmtOf v.sew v.sty) (c.rndAt e) v.sat x
    (toBytes n.1 dw, toBytes n.2 (Cvt.bytes v.rew))
  else (toBytes (v.convert (c.rndAt e) x) dw, [])

/-- Elements and residues in order as writes at two places, each cut where its own place crosses a line: the stores of a line are
one access each (R285, R372). `d` and `r` hold what is gathered so far. -/
def gatherStores (dw rw : Nat) : Nat → Nat → LineStore → LineStore → List (List Byte × List Byte) → List LineStore
  | _, _, d, r, [] => [d, r]
  | at_, rat, d, r, x :: t =>
    let fd := at_ / 64 != d.va / 64
    let fr := rat / 64 != r.va / 64
    let d1 := if fd then lineStore at_ dw x.1 else { d with bytes := d.bytes ++ x.1 }
    let r1 := if fr then lineStore rat rw x.2 else { r with bytes := r.bytes ++ x.2 }
    (if fd then [d] else []) ++ (if fr then [r] else []) ++ gatherStores dw rw (at_ + dw) (rat + rw) d1 r1 t

/-- The writes of CVT's elements: element 0 alone comes before a residue place that is not aligned (R378). -/
def cvtStores (dw rw dst rdst : Nat) (l : List (List Byte × List Byte)) : List LineStore :=
  let l := if rw != 0 && rdst % rw != 0 then l.take 1 else l
  gatherStores dw rw dst rdst (lineStore dst dw []) (lineStore rdst (max rw 1) []) l

/-- Reads elements from number e on, up to the first failure. -/
def Cmd.readElems (c : Cmd) (base bytes align : Nat) : Nat → Nat → M (List Nat × Option (Nat × Word))
  | 0, _ => pure ([], none)
  | n + 1, e => do
    match ← c.readClean (base + e * bytes) bytes align with
    | .error x => return ([], some x)
    | .ok bs =>
      let t ← c.readElems base bytes align n (e + 1)
      return (ofBytes bs :: t.1, t.2)

/-- Some numbers cut into pieces of 32. -/
def groups32 : Nat → List Nat → List (List Nat)
  | 0, _ => []
  | n + 1, l => if l.length < 32 then [] else l.take 32 :: groups32 n (l.drop 32)

/-- The body of CVT. -/
def Cmd.cvtBody (c : Cmd) : M Cmd := do
  let v := Cvt.of (cwWord c.w 4)
  let n := cwSize c.w
  let sw := Cvt.bytes v.sew
  let dw := Cvt.bytes v.dew
  let src := cwSrc c.w
  let dst := cwDst c.w
  if Legal.e2m1Pair v.dew v.dty then
    let r ← c.readElems src sw sw n 0
    let bs := (groups32 (n / 32) r.1).flatMap fun g => blockBytes (g.map (fmtOf v.sew v.sty).val)
    c.carry { writes := [lineStore dst 1 bs], count := n / 32 * 18, fail := r.2, reads := [(src, n * sw)], targets := [(dst, n / 32 * 18)] }
  else if Legal.e2m1Pair v.sew v.sty then
    let r ← c.readElems src 18 1 (n / 32) 0
    let fm := fmtOf v.dew v.dty
    let bs := r.1.zipIdx.flatMap fun b => (List.range 32).flatMap fun i =>
      toBytes (fm.round (c.rndAt (32 * b.2 + i)) false (blockVal (field b.1 (16 + 4 * i) 4) (field b.1 0 16))) dw
    c.carry { writes := [lineStore dst dw bs], count := n * dw, fail := r.2, reads := [(src, n / 32 * 18)], targets := [(dst, n * dw)] }
  else
    let r ← c.readElems src sw sw n 0
    let rw := if v.ef then Cvt.bytes v.rew else 0
    let rdst := if v.ef then (cwWord c.w 5).toNat else 0
    let ws := cvtStores dw rw dst rdst (r.1.zipIdx.map fun x => c.cvtElem x.2 x.1)
    c.carry
      { writes := ws, count := n * dw + n * rw, fail := r.2, reads := [(src, n * sw)]
        targets := (dst, n * dw) :: (if v.ef then [((cwWord c.w 5).toNat, n * rw)] else []) }

/-- R376. -/
def execCvt (id : Nat) (s : State) : Res := .next (s.workCmd id 2 Cmd.cvtBody)

end Sys2Proof.Machine
end

