-- ==== Sys2Proof/Machine/Sluice.lean ====
section
/-! DEFINITION. Sluice: the block codec, transducer tables and runs, STORRD; `publ`, `xtbl` (17 R373, R379 to
R389). -/
namespace Sys2Proof.Machine

/-! ## The block stream (R379, R380) -/

/-- MODE of a block header. -/
def hdMode (h : Nat) : Nat := field h 62 2
/-- REF. -/
def hdRef (h : Nat) : Nat := field h 56 6
/-- PLEN. -/
def hdPlen (h : Nat) : Nat := field h 0 13

/-- A block as 512 words. -/
abbrev Tile := List Nat

/-- The word after `prev` under lane differences δ (R380). -/
def laneStep (prev d : Nat) : Nat :=
  (List.range 4).foldl (fun acc q => acc + cut 16 ((field prev (16 * q) 16 : Int) + sint 4 (field d (4 * q) 4)) * 2 ^ (16 * q)) 0

/-- Words that tags and data decode to; the data left over comes with them. -/
def unpackWords : List Nat → Nat → List Byte → List Nat × List Byte
  | [], _, d => ([], d)
  | t :: ts, prev, d =>
    let x := match t with
      | 0 => (0, d)
      | 1 => (prev, d)
      | 2 => (laneStep prev (ofBytes (d.take 2)), d.drop 2)
      | _ => (ofBytes (d.take 8), d.drop 8)
    let r := unpackWords ts x.1 x.2
    (x.1 :: r.1, r.2)

/-- The tags of a PACKED payload. -/
def payloadTags (p : List Byte) : List Nat :=
  (p.take 128).flatMap fun b => (List.range 4).map fun i => field b.toNat (2 * i) 2

/-- PLEN that tags ask for (R380). -/
def tagsPlen (ts : List Nat) : Nat := 128 + 2 * (ts.filter (· == 2)).length + 8 * (ts.filter (· == 3)).length

/-- Bytes of a tile. -/
def tileBytes (t : Tile) : List Byte := t.flatMap fun w => toBytes w 8

/-- The words of some bytes. -/
def bytesTile (bs : List Byte) : Tile := (chunks 8 512 bs).map ofBytes

/-- A header that R382 does not call corrupt for itself. -/
def headerSound (h : Nat) : Bool :=
  field h 13 43 == 0 && (hdMode h == 3 || hdRef h == 0)
    && (match hdMode h with
        | 0 => hdPlen h == 4096
        | 1 => 128 ≤ hdPlen h && hdPlen h < 4096
        | _ => hdPlen h == 0)

/-- Payload bytes with padding. -/
def padded (n : Nat) : Nat := (n + 7) / 8 * 8

/-- The block of a record: its payload and the blocks decoded before it, newest first (R382). -/
def decodeRecord (h : Nat) (payload : List Byte) (cache : List Tile) : Option Tile :=
  match hdMode h with
  | 0 => some (bytesTile payload)
  | 1 =>
    let ts := payloadTags payload
    if tagsPlen ts ≠ hdPlen h ∨ (payload.drop (hdPlen h)).any fun b => b != 0 then none
    else some (unpackWords ts 0 (payload.drop 128)).1
  | 2 => some (List.replicate 512 0)
  | _ => cache[hdRef h]?

/-- CORRUPT, SPACE, REJECT and IOERR, as failures carry them. -/
def causeCorrupt : Nat := 64 + 11
/-- SPACE. -/
def causeSpace : Nat := 64 + 12
/-- REJECT. -/
def causeReject : Nat := 64 + 13
/-- IOERR. -/
def causeIoerr : Nat := 64 + 14

/-- DECODE reads records from offset o on and yields n blocks, or those before the first failure, with the number of source
bytes read (R382, R383). -/
def Cmd.decodeBlocks (c : Cmd) (lim : Nat) : Nat → Nat → List Tile → M (List Tile × Nat × Option (Nat × Word))
  | 0, o, done => pure (done.reverse, o, none)
  | n + 1, o, done => do
    let at_ (k : Nat) := cwSrc c.w + k
    let corrupt (used : Nat) : List Tile × Nat × Option (Nat × Word) :=
      (done.reverse, used, some (causeCorrupt, BitVec.ofNat 64 (at_ o)))
    if lim < o + 8 then return corrupt o
    match ← c.readClean (at_ o) 8 1 with
    | .error e => return (done.reverse, o, some e)
    | .ok hb =>
      let h := ofBytes hb
      let len := padded (hdPlen h)
      if !headerSound h || lim < o + 8 + len then return corrupt (o + 8)
      match ← c.readStream 100 (at_ (o + 8)) len with
      | (bs, some e) => return (done.reverse, o + 8 + bs.length, some e)
      | (bs, none) =>
        match decodeRecord h bs done with
        | none => return corrupt (o + 8 + len)
        | some t => c.decodeBlocks lim n (o + 8 + len) (t :: done)

/-- Samples of b bits that some bytes hold (R169, R170): the 16-bit value of each. -/
def unpackSamples (w : Word) (bs : List Byte) (n : Nat) : List Nat :=
  let b := wbits w 0 4
  let x := ofBytes bs
  (List.range n).map fun e =>
    let v := pixelField (wbits w 4 1 == 1) b x e
    if wbits w 5 1 = 1 then cut 16 (sint b v) else v

/-- Samples written at DST, 2 bytes each. -/
def sampleWrites (dst : Nat) (l : List Nat) : List LineStore := [lineStore dst 1 (l.flatMap fun x => toBytes x 2)]

/-- The body of DECODE. -/
def Cmd.decodeBody (c : Cmd) : M Cmd := do
  let n := cwSize c.w
  let w5 := cwWord c.w 5
  let lim := wbits (cwWord c.w 4) 0 40
  let r ← c.decodeBlocks lim (n / 4096) 0 []
  let bytes := r.1.flatMap tileBytes
  let src := (cwSrc c.w, r.2.1)
  if wbits w5 63 1 = 1 then
    let b := wbits w5 0 4
    let total := n * 8 / b
    c.carry
      { writes := sampleWrites (cwDst c.w) (unpackSamples w5 bytes (bytes.length * 8 / b)), count := 2 * total, fail := r.2.2
        reads := [src], targets := [(cwDst c.w, 2 * total)] }
  else
    c.carry
      { writes := [lineStore (cwDst c.w) 1 bytes], count := n, fail := r.2.2, reads := [src], targets := [(cwDst c.w, n)] }

/-- R379, R382. -/
def execDecode (id : Nat) (s : State) : Res := .next (s.workCmd id 3 Cmd.decodeBody)

/-! ## ENCODE (R381) -/

/-- δ of two words when each lane's difference fits 4 signed bits. -/
def laneDelta (prev w : Nat) : Option Nat :=
  (List.range 4).foldl (fun acc q =>
    match acc with
    | none => none
    | some d =>
      let x := sint 16 (cut 16 ((field w (16 * q) 16 : Int) - field prev (16 * q) 16))
      if -8 ≤ x ∧ x ≤ 7 then some (d + cut 4 x * 2 ^ (4 * q)) else none) (some 0)

/-- Tags and data of words, each word with the first tag that fits. -/
def packWords : Nat → List Nat → List Nat × List Byte
  | _, [] => ([], [])
  | prev, w :: ws =>
    let t : Nat × List Byte :=
      if w = 0 then (0, [])
      else if w = prev then (1, [])
      else
        match laneDelta prev w with
        | some d => (2, toBytes d 2)
        | none => (3, toBytes w 8)
    let r := packWords w ws
    (t.1 :: r.1, t.2 ++ r.2)

/-- Tag bytes of tags. -/
def tagBytes : Nat → List Nat → List Byte
  | 0, _ => []
  | n + 1, ts =>
    BitVec.ofNat 8 ((ts.take 4).zipIdx.foldl (fun acc x => acc + x.1 * 4 ^ x.2) 0) :: tagBytes n (ts.drop 4)

/-- A record with its padding. -/
def recordBytes (mode ref plen : Nat) (payload : List Byte) : List Byte :=
  toBytes (mode * 2 ^ 62 + ref * 2 ^ 56 + plen) 8 ++ payload ++ List.replicate (padded payload.length - payload.length) 0

/-- The record of a block (R381); blocks before it, newest first. -/
def encodeBlock (t : Tile) (cache : List Tile) : List Byte :=
  if t.all (· == 0) then recordBytes 2 0 0 []
  else
    match (cache.take 64).findIdx? (· == t) with
    | some d => recordBytes 3 d 0 []
    | none =>
      let p := packWords 0 t
      let payload := tagBytes 128 p.1 ++ p.2
      if payload.length < 4096 then recordBytes 1 0 payload.length payload else recordBytes 0 0 4096 (tileBytes t)

/-- ENCODE of n blocks from block b on, with o stream bytes written: the records, up to the first failure. -/
def Cmd.encodeBlocks (c : Cmd) (lim : Nat) : Nat → Nat → Nat → List Tile → M (List (List Byte) × Option (Nat × Word))
  | 0, _, _, _ => pure ([], none)
  | n + 1, b, o, cache => do
    match ← c.readStream 100 (cwSrc c.w + 4096 * b) 4096 with
    | (_, some e) => return ([], some e)
    | (bs, none) =>
      let t := bytesTile bs
      let r := encodeBlock t cache
      if lim < o + r.length then return ([], some (causeSpace, BitVec.ofNat 64 (cwDst c.w + o)))
      let rest ← c.encodeBlocks lim n (b + 1) (o + r.length) ((t :: cache).take 64)
      return (r :: rest.1, rest.2)

/-- The body of ENCODE. -/
def Cmd.encodeBody (c : Cmd) : M Cmd := do
  let n := cwSize c.w
  let r ← c.encodeBlocks (wbits (cwWord c.w 4) 0 40) (n / 4096) 0 0 []
  let bytes := r.1.flatten
  c.carry
    { writes := [lineStore (cwDst c.w) 1 bytes], count := bytes.length, fail := r.2, reads := [(cwSrc c.w, n)]
      targets := [(cwDst c.w, bytes.length)] }

/-- R381. -/
def execEncode (id : Nat) (s : State) : Res := .next (s.workCmd id 4 Cmd.encodeBody)

/-! ## XFORM (R384, R385) -/

/-- The body of XFORM, mode 0. -/
def Cmd.unpackBody (c : Cmd) : M Cmd := do
  let w := cwWord c.w 4
  let n := cwSize c.w
  let b := wbits w 0 4
  let dst := cwDst c.w
  if dst % 2 ≠ 0 then
    return { c with phase := .complete, failed := true, cause := 3, faddr := BitVec.ofNat 64 dst }
  let len := (n * b + 7) / 8
  let r ← c.readStream (len / 64 + 2) (cwSrc c.w) len
  let k := if r.2.isNone then n else min n (r.1.length * 8 / b)
  c.carry
    { writes := sampleWrites dst (unpackSamples w r.1 k), count := 2 * n, fail := r.2, reads := [(cwSrc c.w, len)]
      targets := [(dst, 2 * n)] }

/-- R384, mode 0. -/
def execXformUnpack (id : Nat) (s : State) : Res :=
  .next (s.workCmd id 5 fun c => if wbits (cwWord c.w 4) 60 4 = 0 then c.unpackBody else pure c)

/-- The entry of a state and a class in a table image (17 Table 17.8). -/
def xfEntry (t : List Byte) (s c : Nat) : Nat := ofBytes ((t.drop (320 + 64 * s + 4 * c)).take 4)

/-- How a run ends (R385): DONE; FAIL at byte i; SPACE; a read that fails. -/
structure RunEnd where
  emits : List (Nat × List Byte)
  fail : Option (Nat × Word)
  deriving DecidableEq, Repr

/-- Bytes emitted to a way. -/
def wayCount (emits : List (Nat × List Byte)) (q : Nat) : Nat :=
  (emits.filter fun e => e.1 == q).foldl (fun acc e => acc + e.2.length) 0

/-- A run over source bytes (R385): `emits` newest first, the ways as (BASE, CAP). -/
def xfRun (t : List Byte) (ways : List (Nat × Nat)) (src : Nat) : List Byte → Nat → Nat → List Nat → List (Nat × List Byte) →
    Sum Nat (Nat × Word) × List (Nat × List Byte)
  | [], _, s, _, emits => (.inl s, emits.reverse)
  | x :: xs, i, s, counts, emits =>
    let e := xfEntry t s (t.getD (64 + x.toNat) 0).toNat
    let act := field e 21 3
    let way := field e 24 2
    let next := field e 26 6
    if act = 0 then xfRun t ways src xs (i + 1) next counts emits
    else if act = 4 then (.inr (0, 0), emits.reverse)
    else if act = 1 ∨ act = 2 ∨ act = 3 then
      let bs := if act = 1 then [x] else if act = 2 then [BitVec.ofNat 8 (field e 0 8)] else toBytes i 8
      let n := counts.getD way 0
      let cap := (ways.getD way (0, 0)).2
      if cap < n + bs.length then
        (.inr (causeSpace, BitVec.ofNat 64 ((ways.getD way (0, 0)).1 + n)), emits.reverse)
      else xfRun t ways src xs (i + 1) next (counts.set way (n + bs.length)) ((way, bs) :: emits)
    else (.inr (causeReject, BitVec.ofNat 64 (src + i)), emits.reverse)

/-- Writes of emissions in order, from the bytes already at each way. -/
def wayWrites (ways : List (Nat × Nat)) : List (Nat × List Byte) → List Nat → List LineStore
  | [], _ => []
  | (q, bs) :: t, counts =>
    let n := counts.getD q 0
    { lineStore ((ways.getD q (0, 0)).1 + n) 1 bs with way := q } :: wayWrites ways t (counts.set q (n + bs.length))

/-- Bytes read until a run would stop. -/
def xfUsed (r : Sum Nat (Nat × Word)) (readFail : Option (Nat × Word)) (accept : Word) (src n : Nat) : Option (Nat × Word) :=
  match r with
  | .inr (0, _) => none
  | .inr e => some e
  | .inl s =>
    match readFail with
    | some e => some e
    | none => if bitOf accept.toNat s then none else some (causeReject, BitVec.ofNat 64 (src + n))

/-- Bytes emitted to the four ways, after some emissions. -/
def wayCounts (counts : List Nat) (emits : List (Nat × List Byte)) : List Nat :=
  emits.foldl (fun l e => l.set e.1 (l.getD e.1 0 + e.2.length)) counts

/-- A run of n source bytes from byte i on, in a state: line by line, as far as it goes: its emissions, where it ended, the bytes
read, and a read that failed. -/
def Cmd.runLines (c : Cmd) (ways : List (Nat × Nat)) (n : Nat) : Nat → Nat → Nat → List Nat →
    M (List (Nat × List Byte) × Sum Nat (Nat × Word) × Nat × Option (Nat × Word))
  | 0, i, s, _ => pure ([], .inl s, i, none)
  | fuel + 1, i, s, counts => do
    if n ≤ i then return ([], .inl s, i, none)
    let va := cwSrc c.w + i
    let k := min (n - i) (64 - va % 64)
    match ← c.readClean va k 1 with
    | .error e => return ([], .inl s, i, some e)
    | .ok bs =>
      let r := xfRun c.table ways (cwSrc c.w) bs i s counts []
      match r.1 with
      | .inr e => return (r.2, .inr e, i + k, none)
      | .inl s1 =>
        let rest ← c.runLines ways n fuel (i + k) s1 (wayCounts counts r.2)
        return (r.2 ++ rest.1, rest.2)

/-- The body of XFORM, mode 1: the run; WCNT of the four ways follows its writes, also when the way block cannot be read.
With SIZE = 0 it reads nothing. -/
def Cmd.runBody (c : Cmd) : M Cmd := do
  let way := (cwWord c.w 5).toNat
  let src := cwSrc c.w
  let n := cwSize c.w
  if n = 0 then c.carry { writes := [], count := 0, fail := none, reads := [], targets := [] }
  else
    match ← c.readClean way 64 1 with
    | .error e => c.carry { writes := [], count := 0, fail := some e, reads := [], targets := [] }
    | .ok wb =>
      let ways := (List.range 4).map fun q => (wbits (wordAt wb (16 * q)) 0 57, wbits (wordAt wb (16 * q + 8)) 0 40)
      let r ← c.runLines ways n (n / 64 + 2) 0 0 [0, 0, 0, 0]
      c.carry
        { writes := wayWrites ways r.1 [0, 0, 0, 0], count := 0
          fail := xfUsed r.2.1 r.2.2.2 (wordAt c.table 8) src n, reads := [(src, r.2.2.1), (way, 64)]
          targets := (way + 64, 32) :: (ways.zipIdx.map fun q => (q.1.1, wayCount r.1 q.2)) }

/-- R384, R385, mode 1. -/
def execXformRun (id : Nat) (s : State) : Res :=
  .next (s.workCmd id 5 fun c => if wbits (cwWord c.w 4) 60 4 = 1 then c.runBody else pure c)

/-! ## STORRD (R388, R389) -/

/-- The physical address of a STORRD's queue descriptor: where its queue is at home (R389). -/
def State.queueHome (s : State) (c : Cmd) : Option Nat :=
  (s.walk c.ctx (cwWord c.w 4).toNat).map fun l => l.base + (cwWord c.w 4).toNat % l.size

/-- Two STORRDs name one descriptor. -/
def State.shareQueue (s : State) (c x : Cmd) : Bool :=
  (x.ctx == c.ctx && cwWord x.w 4 == cwWord c.w 4)
    || (match s.queueHome c with
        | some a => s.queueHome x == some a
        | none => false)

/-- The commands that share a queue descriptor: their STORRDs in flight or late. -/
def State.sameQueue (s : State) (c : Cmd) : List Cmd := s.cmds.filter fun x => cwKind x.w == 6 && s.shareQueue c x

/-- NVMe commands outstanding in the queue: their identifiers. -/
def State.outstanding (s : State) (c : Cmd) : List Nat := (s.sameQueue c).flatMap fun x => x.pieces.map (·.1)

/-- Another command is at work on the queue: all that name one descriptor are serialised (R389). -/
def State.queueBusy (s : State) (c : Cmd) : Bool :=
  (s.sameQueue c).any fun x => x.id != c.id && (x.under == some .submit || x.under == some .consume)

/-- A part of the command's work may go on: no other one waits. -/
def Cmd.mayGo (c : Cmd) (k : QueueWork) : Bool := c.under.isNone || c.under == some k

/-- A part of a command's work waits. -/
def State.waitIn (s : State) (id : Nat) (k : QueueWork) : State :=
  { s with cmds := s.cmds.map fun x => if x.id == id then { x with under := some k } else x, rix := 0 }

/-- Bytes of one NVMe command at most: MAXP pages, 65,536 logical blocks, in whole blocks (R389). Where MAXP pages hold no block
there is none, and nothing can be submitted (DEDUCED, log 75). -/
def pieceBytes (d : List Byte) : Nat :=
  let lba := 2 ^ wbits (wordAt d 48) 0 8
  min (wbits (wordAt d 48) 8 16 * 4096) (65536 * lba) / lba * lba

/-- The least identifier from a free one on that is not outstanding. -/
def freeCid (used : List Nat) : Nat → Nat → Nat
  | 0, n => n % 65536
  | fuel + 1, n => if used.contains (n % 65536) then freeCid used fuel (n + 1) else n % 65536

/-- The submission entry of an NVMe Read (R389). PRP1 and PRP2 lie in the aperture at APB; where is a free value. -/
def State.nvmeEntry (s : State) (c : Cmd) (d : List Byte) (cid start len : Nat) : List Byte :=
  let lb := wbits (wordAt d 48) 0 8
  let w6 := cwWord c.w 6
  let apb := wordAt d 40
  let slba := cwWord c.w 5 + BitVec.ofNat 64 (start / 2 ^ lb)
  toBytes (2 + cid * 2 ^ 16) 4 ++ toBytes (wbits w6 0 32) 4 ++ List.replicate 16 0
    ++ toBytes (apb + Config.freeWord s.tick).toNat 8 ++ toBytes (apb + Config.freeWord (s.tick + 1)).toNat 8
    ++ toBytes slba.toNat 8 ++ toBytes (len / 2 ^ lb - 1) 4 ++ List.replicate 12 0

/-- Word 7 of the descriptor with SQT, CQH and PH (17 Table 17.9). -/
def queueWord (sqt cqh ph : Nat) : List Byte := toBytes (ph * 2 ^ 32 + cqh * 2 ^ 16 + sqt) 8

/-- A command's read in whole; a failed check or poison stops it. -/
def Cmd.fetch (c : Cmd) (va n : Nat) : M (List Byte) := do
  let r ← perform c.who [plainOp va n .load]
  return (r.headD ([], false)).1

/-- The next NVMe command of a STORRD: entry, tail, doorbell. Nothing changes when nothing is left or the queue is full. -/
def Cmd.submitOne (c : Cmd) : M Cmd := do
  let q := (cwWord c.w 4).toNat
  let d ← c.fetch q 64
  let s ← get
  let n := min (pieceBytes d) (cwSize c.w - c.asked)
  let entries := wbits (wordAt d 16) 16 16 + 1
  let used := s.outstanding c
  if n = 0 ∨ entries ≤ used.length + 1 then return c
  let sqt := wbits (wordAt d 56) 0 16
  let tail := (sqt + 1) % entries
  let cid := c.pick.getD (freeCid used 65536 s.freeWord.toNat)
  let s1 := s.nextTick.setCmd { c with pick := some cid }
  set s1.nextTick.nextTick
  let _ ← perform c.who
    [plainOp (wbits (wordAt d 0) 0 57 + 64 * sqt : Nat) 64 (.store (s1.nvmeEntry c d cid c.asked n)),
     plainOp (q + 56 : Nat) 8 (.store (queueWord tail (wbits (wordAt d 56) 16 16) (wbits (wordAt d 56) 32 1))),
     plainOp (wbits (wordAt d 24) 0 57) 4 (.store (toBytes tail 4))]
  return { c with
    pieces := c.pieces ++ [(cid, c.asked, n)], pick := none, asked := c.asked + n
    issued := decide (cwSize c.w ≤ c.asked + n) }

/-- A STORRD fails; its NVMe commands still outstanding are let finish, and what has not landed is dropped (R389). -/
def Cmd.ioFail (c : Cmd) (cause sct sc : Nat) (faddr : Word) : Cmd :=
  { c with phase := .complete, failed := true, cause, sct, sc, faddr, left := [], pick := none, under := none }

/-- A STORRD fails where it stands: what it waits for is given up. -/
def State.failIo (s : State) (c : Cmd) (cause sct sc : Nat) (faddr : Word) : State :=
  (s.settle c.who.agent).setCmd (c.ioFail cause sct sc faddr)

/-! ## The drive's writes (R389) -/

/-- Every byte has been written and every NVMe command has completed. -/
def Cmd.landed (c : Cmd) : Bool :=
  c.issued && c.pieces.isEmpty && c.left.isEmpty
    && c.filled.any fun r => decide (r.1 ≤ cwDst c.w ∧ cwDst c.w + cwSize c.w ≤ r.1 + r.2)

/-- A STORRD that has landed goes on to its status, with COUNT = SIZE. -/
def Cmd.close (c : Cmd) : Cmd :=
  if c.phase = .work ∧ c.landed then { c with phase := .complete, count := cwSize c.w } else c

/-- A range, as (first byte, bytes), among ranges in order that neither meet nor touch. -/
def addRange : List (Nat × Nat) → Nat × Nat → List (Nat × Nat)
  | [], x => [x]
  | y :: t, x =>
    if x.1 + x.2 < y.1 then x :: y :: t
    else if y.1 + y.2 < x.1 then y :: addRange t x
    else addRange t (min x.1 y.1, max (x.1 + x.2) (y.1 + y.2) - min x.1 y.1)

/-- A drive's write that has landed, with those still to come. -/
def Cmd.landOne (c : Cmd) (x : LineStore) (left : List LineStore) : Cmd :=
  { c.wroteAt x.va x.bytes.length with filled := addRange c.filled (x.va, x.bytes.length), left, under := none }

/-- The writes of a drive land in the order in which they came, as far as they go. -/
def State.landWrites (s : State) (c : Cmd) : List LineStore → State
  | [] => s.setCmd c.close
  | x :: t =>
    match s.attempt (storeBytes c.who (x.va : Nat) x.bytes) with
    | (.ok _, s1) =>
      ((s1.settle c.who.agent).cleanCovered c (c.covering x.va x.bytes.length)).landWrites (c.landOne x t) t
    | (.error .stall, s1) => (s1.setCmd { c with left := x :: t }).waitIn c.id .land
    | (.error .ended, s1) => { s1 with rix := 0 }
    | (.error e, s1) =>
      let f := e.cause true x.va
      s1.failIo c f.1 0 0 f.2

/-- R388, R389: a STORRD lands what its drive has written, or submits its next NVMe command when its queue has room. -/
def execStorrd (id : Nat) (s : State) : Res :=
  match s.cmdOf id with
  | none => .next s
  | some c =>
    if c.phase ≠ .work ∨ cwKind c.w ≠ 6 then .next s
    else if !c.left.isEmpty && c.mayGo .land then .next (s.landWrites c c.left)
    else if c.issued || s.queueBusy c || !c.mayGo .submit then .next s
    else
      match s.attempt c.submitOne with
      | (.ok c1, s1) => .next ((s1.settle c.who.agent).setCmd { c1 with under := none })
      | (.error .stall, s1) => .next (s1.waitIn id .submit)
      | (.error .ended, s1) => .next { s1 with rix := 0 }
      | (.error e, s1) =>
        let x := e.cause true (cwWord c.w 4).toNat
        .next (s1.failIo c x.1 0 0 x.2)

/-- The completion entry at the head of a command's queue, when its phase tag is the expected one: the descriptor, the
identifier, SC and SCT. -/
def Cmd.cqEntry (c : Cmd) : M (Option (List Byte × Nat × Nat × Nat)) := do
  let d ← c.fetch (cwWord c.w 4).toNat 64
  let cqh := wbits (wordAt d 56) 16 16
  let e ← c.fetch (wbits (wordAt d 8) 0 57 + 16 * cqh) 16
  let w := wordAt e 8
  if wbits w 48 1 ≠ wbits (wordAt d 56) 32 1 then return none
  return some (d, wbits w 32 16, wbits w 49 8, wbits w 57 3)

/-- A completion entry consumed: CQH and PH move on, CQDB is written. -/
def Cmd.consumeCq (c : Cmd) : M (Option (Nat × Nat × Nat)) := do
  match ← c.cqEntry with
  | none => return none
  | some (d, cid, sc, sct) =>
    let w7 := wordAt d 56
    let n := wbits (wordAt d 16) 0 16 + 1
    let h := (wbits w7 16 16 + 1) % n
    let ph := if h = 0 then 1 - wbits w7 32 1 else wbits w7 32 1
    let _ ← perform c.who
      [plainOp ((cwWord c.w 4).toNat + 56 : Nat) 8 (.store (queueWord (wbits w7 0 16) h ph)),
       plainOp (wbits (wordAt d 32) 0 57) 4 (.store (toBytes h 4))]
    return some (cid, sc, sct)

/-- The owner of an NVMe identifier takes its completion. -/
def Cmd.completed (c : Cmd) (cid sc sct : Nat) : Cmd :=
  let c1 := { c with pieces := c.pieces.filter fun p => p.1 != cid }
  if c.phase ≠ .work then c1
  else if sc = 0 ∧ sct = 0 then c1.close
  else c1.ioFail 14 sct sc (BitVec.ofNat 64 (cwDst c.w))

/-- R389: the completion entry at the head of the queue of command id is consumed; one that names no NVMe command of a
STORRD in flight is discarded. -/
def execNvmeCompletion (id : Nat) (s : State) : Res :=
  match s.cmdOf id with
  | none => .next s
  | some c =>
    if cwKind c.w ≠ 6 ∨ (c.phase ≠ .work ∧ c.phase ≠ .late) ∨ !c.mayGo .consume ∨ s.queueBusy c then .next s
    else
      match s.attempt c.consumeCq with
      | (.ok none, s1) => .next ((s1.settle c.who.agent).setCmd { c with under := none })
      | (.ok (some (cid, sc, sct)), s1) =>
        let s2 := (s1.settle c.who.agent).setCmd { c with under := none }
        match (s2.sameQueue c).find? fun x => x.pieces.any fun p => p.1 == cid with
        | none => .next s2
        | some x =>
          let x1 := x.completed cid sc sct
          .next (if x.phase = .late then s2.endCmd x1
            else if x1.failed && !x.failed then (s2.settle x.who.agent).setCmd x1
            else s2.setCmd x1)
      | (.error .stall, s1) => .next (s1.waitIn id .consume)
      | (.error .ended, s1) => .next { s1 with rix := 0 }
      | (.error e, s1) =>
        let x := e.cause true (cwWord c.w 4).toNat
        .next (if c.phase = .work then s1.failIo c x.1 0 0 x.2
          else (s1.settle c.who.agent).setCmd { c with under := none })

/-- R388, R389: TMO expires. -/
def execStorrdTimeout (id : Nat) (s : State) : Res :=
  match s.cmdOf id with
  | none => .next s
  | some c =>
    if cwKind c.w ≠ 6 ∨ c.phase ≠ .work ∨ wbits (cwWord c.w 6) 32 32 = 0 then .next s
    else .next (s.failIo c 14 7 0xFF (BitVec.ofNat 64 (cwDst c.w)))

/-! ## `publ`, `xtbl` -/

/-- The first of some table entries that a walk would refuse, or that is no member of a publish pair, by its index (R281,
R373). -/
def State.badPair (s : State) (tenant lvl : Nat) (entries : List Nat) : Option Nat :=
  entries.findIdx? fun a =>
    let e := s.readWord a
    !(bitOf e.toNat 0 && bitOf e.toNat 1 && leafPubp e && s.leafOk tenant lvl a e)

/-- PA fields exchanged within a pair (R373). -/
def State.swapPair (s : State) (a : Nat) : State :=
  let e := s.readWord a
  let o := s.readWord (a + 8)
  (s.writeWord a (wset e 14 38 (wbits o 14 38))).writeWord (a + 8) (wset o 14 38 (wbits e 14 38))

/-- The page of a parked access whose leaf is one of the n pairs of entries from `first` on. -/
def State.parkedPair (s : State) (first n : Nat) (p : Park) : Option Leaf :=
  match p.key, s.parkCtx p with
  | .line _, some c => (s.walk c p.va).filter fun l => decide (first ≤ l.entry ∧ l.entry < first + 16 * n)
  | _, _ => none

/-- A parked access through an entry of a pair, where it stands after the exchange: at the line of the frame that the entry names
then. One whose frame then lies in another device leaves its FIFO, and its agent makes it anew; a remote agent's stays. -/
def State.reparked (s : State) (p : Park) (l : Leaf) : Option Park :=
  let twin := if l.entry / 8 % 2 = 0 then l.entry + 8 else l.entry - 8
  let pa := wbits (s.readWord twin) 14 38 * 2 ^ 14 + p.va % l.size
  match homeOf pa with
  | .fabric _ => if p.isRemote then some p else none
  | _ => some { p with key := .line (lineOf pa) }

/-- The accesses parked through the entries of some pairs, which no event has placed before an exchange of them, stand after it, at
the tail of the FIFOs of the other frames (R309) (DEDUCED, log 22). -/
def State.reparkPairs (s : State) (first n : Nat) : State :=
  { s with parks := (s.parks.filter fun p => (s.parkedPair first n p).isNone)
      ++ s.parks.filterMap fun p => (s.parkedPair first n p).bind (s.reparked p) }

/-- R373. -/
def execPubl (f : RrF) (s : State) : Res :=
  let w := encRr 0x89 0 f
  s.run w do
    let a := (s.rg f.a).toNat
    let n := (s.rg f.b).toNat
    if n = 0 ∨ 64 < n then raise causeIllegal w
    match s.walk s.hart.ctx a with
    | none => failCheck (s.walkCause s.hart.ctx a) (s.rg f.a)
    | some l =>
      if !leafPubp l.val || l.entry / 8 % 2 != 0 then raise causeProt (s.rg f.a)
      if 1024 < l.entry % 1024 + 16 * n then raise causeIllegal w
      let entries := (List.range (2 * n)).map fun k => l.entry + 8 * k
      if entries.any fun x => s.linePoisoned (lineOf x) then throw .poison
      match s.badPair (s.ctxOf s.hart.ctx).tenant l.lvl entries with
      | some k => raise causeXlate (BitVec.ofNat 64 (a - a % l.size + k * l.size))
      | none => pure ()
      if entries.any fun x => let e := s.readWord x; !(leafU e && leafR e && leafW e) then raise causeProt (s.rg f.a)
      let frames := entries.map fun x => (wbits (s.readWord x) 14 38 * 2 ^ 14, l.size)
      if frames.any fun x => s.flightIn x.1 x.2 then throw .stall
      drainOwn
      change fun s => s.drainIn frames
      unlessEnded s s.hart.ctx
      change fun s1 =>
        (((List.range n).map fun k => l.entry + 16 * k).foldl State.swapPair (s1.reparkPairs l.entry n)).setG f.d
          (BitVec.ofNat 64 n)
      complete

/-- The offset of the first byte of word 0 of a table image that breaks R386 (DEDUCED, log 33). -/
def xfWord0Bad (w : Word) : Option Nat :=
  match (List.range 6).find? fun k => wbits w (8 * k) 8 != 0 with
  | some k => some k
  | none =>
    if wbits w 48 8 = 0 ∨ 64 < wbits w 48 8 then some 6
    else if wbits w 56 8 ≠ 1 then some 7
    else none

/-- Byte k of a table image, word 0 apart, breaks R386. -/
def xfByteBad (t : List Byte) (k : Nat) : Bool :=
  let n := wbits (wordAt t 0) 48 8
  let b := (t.getD k 0).toNat
  if k < 8 then false
  else if k < 16 then decide (8 * (k - 8) + 8 > n) && b / 2 ^ (n - 8 * (k - 8)) != 0
  else if k < 64 then b != 0
  else if k < 320 then 16 ≤ b
  else
    match k % 4 with
    | 0 => false
    | 1 => b != 0
    | 2 => b % 32 != 0 || 6 ≤ b / 32
    | _ => n ≤ b / 4

/-- R386, R387. -/
def execXtbl (f : RiF) (s : State) : Res :=
  let w := encRi 0x8A 0 f
  s.run w do
    if !s.hasXform then raise causeAbsent w
    let a := s.rg f.a
    if a.toNat % 64 ≠ 0 then raise causeAlign a
    let refuse (k : Nat) : M Unit := change fun s => s.setG f.d (BitVec.ofNat 64 (2 ^ 63 + k))
    let h ← loadBytes s.me a.toNat 8
    match xfWord0Bad (wordAt h 0) with
    | some k => refuse k
    | none =>
      let len := 320 + 64 * wbits (wordAt h 0) 48 8
      let rest ← loadBytes s.me (a.toNat + 8 : Nat) (len - 8)
      let t := h ++ rest
      match (List.range len).find? (xfByteBad t) with
      | some k => refuse k
      | none =>
        change fun s =>
          let c := s.ctxOf s.hart.ctx
          (s.setCtx s.hart.ctx { c with xslots := Table.put [] (f.imm.toNat % 8) t c.xslots }).setG f.d 0
    complete

end Sys2Proof.Machine
end

