-- ==== Sys2Proof/Machine/Fabric.lean ====
section
/-! DEFINITION. Linkirun: flits and link retry, serving requests, sequence windows and result caches, answers, withdrawals,
routes (26 R492 to R502). -/
namespace Sys2Proof.Machine

/-! ## Sequence numbers -/

/-- a comes before b among 16-bit sequence numbers. -/
def seqBelow (a b : Nat) : Bool :=
  let d := (b + 65536 - a % 65536) % 65536
  decide (0 < d ∧ d < 32768)

/-- The destination window of a source and class. -/
def State.dstWin (s : State) (src cls : Nat) : DstWin :=
  (s.fabric.dst.find? fun w => w.src == src && w.cls == cls).getD
    { src, cls, next := 0, recv := [], held := [], cache := [], withdrawn := [] }

/-- The state with a destination window replaced. -/
def State.setDstWin (s : State) (w : DstWin) : State :=
  { s with fabric := { s.fabric with
      dst := w :: s.fabric.dst.filter fun x => !(x.src == w.src && x.cls == w.cls) } }

/-! ## Packets that have arrived -/

/-- The class suits the type (26 Table 26.3), and the packet is for this device. -/
def State.packetTaken (s : State) (bs : List Byte) : Bool :=
  let p := Packet.parse bs
  let cls := if p.type = pktAt ∨ p.type = pktSa then p.tc == 0 else if p.type = pktRsp then p.tc == 2
    else if p.type = pktAck ∨ p.type = pktWdr then p.tc == 3 else p.tc ≤ 1
  packetSound bs && cls && p.dst == s.fabric.devNum

/-- The ECRC of a packet holds (R493). -/
def ecrcOk (bs : List Byte) : Bool :=
  wbits (wordAt bs 24) 0 32 == (crc32 (bs.take 24 ++ (Packet.parse bs).payload)).toNat

/-- The whole packet at the head of a port's received bytes. -/
def Port.headPacket (p : Port) : Option (List Byte) :=
  let n := packetSize p.rx
  if 32 ≤ p.rx.length ∧ n ≤ p.rx.length then some (p.rx.take n) else none

/-- The packet that starts some bytes leaves the port's buffer: its class has a credit to return (R492). -/
def Port.freed (p : Port) (bs : List Byte) : Port :=
  let tc := (Packet.parse bs).tc
  { p with ret := p.ret.set tc (p.ret.getD tc 0 + 1) }

/-- R493: packets that are discarded on arrival leave; those with a good ECRC are counted. Fuel bounds their number. -/
def State.dropBad (s : State) (port : Nat) : Nat → State
  | 0 => s
  | fuel + 1 =>
    let p := s.portOf port
    match p.headPacket with
    | none => s
    | some bs =>
      if s.packetTaken bs then s
      else
        let errs := if ecrcOk bs then p.errs + 1 else p.errs
        (s.setPort port { p.freed bs with rx := p.rx.drop bs.length, errs }).dropBad port fuel

/-- The head packet taken from a port. -/
def State.popPacket (s : State) (port n : Nat) : State :=
  let p := s.portOf port
  let rx := p.rx.drop n
  (s.setPort port { p.freed p.rx with rx }).dropBad port (rx.length / 32 + 1)

/-! ## Flits (R492) -/

/-- A flit that only answers: the newest one again, which the far end has or will have, so that its data is not taken
twice. -/
def State.answerFlit (s : State) (port : Nat) (nak : Bool) : State :=
  let p := s.portOf port
  let (n, cred, data) := (p.replay.getLast?).getD ((p.lseq + 4095) % 4096, 0, List.replicate flitData 0)
  s.emit (.flit port (flitBytes n p.lack nak cred data))

/-- The replay buffer after an acknowledgement: what lies up to LACK is free. -/
def freeReplay (l : List (Nat × Nat × List Byte)) (lack : Nat) : List (Nat × Nat × List Byte) :=
  if l.any fun x => x.1 == lack then (l.dropWhile fun x => x.1 != lack).drop 1 else l

/-- Credits returned, added class by class. -/
def addCredits (a b : BitVec 32) : BitVec 32 :=
  BitVec.ofNat 32 ((List.range 4).foldl (fun acc k =>
    acc + (field a.toNat (8 * k) 8 + field b.toNat (8 * k) 8) % 256 * 2 ^ (8 * k)) 0)

/-- The flits of a port's replay buffer sent again. -/
def State.resend (s : State) (port lack : Nat) : List (Nat × Nat × List Byte) → State
  | [] => s
  | x :: t => (s.emit (.flit port (flitBytes x.1 lack false x.2.1 x.2.2))).resend port lack t

/-- The far end's acknowledgement and NAK: a NAK sends the buffer again; the sixteenth retransmission of its first flit that fails
takes the port down. A NAK that finds the buffer empty retransmits nothing. -/
def State.takeAck (s : State) (port : Nat) (w : Word) : State :=
  let p := s.portOf port
  let replay := freeReplay p.replay (wbits w 40 12)
  let again := bitOf w.toNat 39 && !replay.isEmpty
  let fails := (if replay.isEmpty || decide (replay.length < p.replay.length) then 0 else p.fails) + bit again
  let p1 := { p with replay, fails }
  if again then
    if 16 < fails then s.setPort port { p1 with up := false }
    else (s.setPort port p1).resend port p.lack replay
  else s.setPort port p1

/-- R492: a port receives a flit (DEDUCED, log 51). -/
def execFlitReceive (port : Nat) (flit : List Byte) (s : State) : Res :=
  let p := s.portOf port
  if !s.portExists port || !p.up then .next s
  else if flit.length ≠ 256 ∨ ofBytes (flit.drop 248) ≠ (crc64 (flit.take 248)).toNat then .next (s.answerFlit port true)
  else
    let w := wordAt flit 0
    let s1 := s.takeAck port w
    let q := s1.portOf port
    if q.up && wbits w 52 12 == (q.lack + 1) % 4096 then
      let rx := q.rx ++ (flit.drop 8).take flitData
      let cred := addCredits q.cred (BitVec.ofNat 32 (wbits w 0 32))
      let s2 := (s1.setPort port { q with lack := wbits w 52 12, rx, cred }).dropBad port (rx.length / 32 + 1)
      .next ((s2.fillFlits port 128).answerFlit port false)
    else .next (s1.fillFlits port 128)

/-- R492: retransmissions have failed, or the far end is silent: the port is down. -/
def execLinkDown (port : Nat) (s : State) : Res :=
  .next (if s.portExists port then s.setPort port { s.portOf port with up := false } else s)

/-- R492: service firmware retrains a port that is down; its link starts anew. -/
def execLinkRetrain (port : Nat) (s : State) : Res :=
  let p := s.portOf port
  .next (if s.portExists port && !p.up then s.setPort port { Port.reset with up := true, errs := p.errs } else s)

/-! ## Serving a request (R496) -/

/-- A request as an agent: an access of the export's context at its starting level (R519). -/
def State.remoteWho (s : State) (p : Packet) (ctx : Nat) : Who :=
  { agent := .remote p.src p.tc p.seq, ctx, level := (s.ctxOf ctx).level, orig := 2 }

/-- The operation of an RD, WR, AT or SADD. -/
def Packet.memOp (p : Packet) (va : Nat) : MemOp :=
  let n := if p.type = pktAt then sizeBytes (p.op / 64) else sizeBytes (p.op % 4)
  let align := p.type == pktAt || p.type == pktSadd
  let act : Act :=
    if p.type = pktRd then .load
    else if p.type = pktWr then .store p.payload
    else if p.type = pktAt then .amo (p.op % 64) (p.opnd.toNat % 2 ^ (8 * n)) (ofBytes (p.payload.take n))
    else .amo 2 (p.opnd.toNat % 2 ^ (8 * n)) 0
  { va, n := if p.type = pktWr then p.payload.length else n, align, strict := true, act, ord := p.ord, scope := p.scope }

/-- An SA (R352), judged against the context's own bindings. -/
def serveStaged (w : Who) (p : Packet) (va : Nat) : M (List Byte) := do
  let kind := p.op / 64
  let trn := p.op / 4 % 16
  let n := sizeBytes (p.op % 4)
  let act : StagedAct :=
    if kind = kindLoad then .load n else if kind = kindStore then .store (p.payload.take n) else .none
  let q ← stagedCheck w va n trn kind
  if q.isRemote then
    stagedRemote w va q p.op p.scope act.payload
  else
    let r ← stagedNow w va q.pa trn kind act
    return if kind = kindLoad then r.2 else toBytes r.1 8

/-- A request performed: the bytes of its response, or none when it has none (DEDUCED, log 53). -/
def serve (w : Who) (p : Packet) (va : Nat) : M (Option (List Byte)) := do
  let s ← get
  if !(s.ctxOf w.ctx).valid then raise causeXlate (BitVec.ofNat 64 va)
  if p.type = pktSa then
    let bs ← serveStaged w p va
    return some bs
  else if p.type = pktWr ∧ p.stat = causePoison then
    storePoisoned w va p.payload
    return none
  else
    let r ← perform w [p.memOp va]
    return if p.type = pktRd ∨ p.type = pktAt then some (r.headD ([], false)).1 else none

/-- The response to a request (R499): its STAT and payload; OPND names the request's class. -/
def State.rspPacket (s : State) (p : Packet) (stat : Nat) (payload : List Byte) : Packet :=
  { p with type := pktRsp, tc := 2, src := s.fabric.devNum, dst := p.src, op := 0, scope := 0, ord := 0, route := 0
           opnd := BitVec.ofNat 64 p.tc, rack := 0, stat, payload }

/-- The type has a response that the result cache keeps. -/
def Packet.cached (p : Packet) : Bool := p.type == pktRd || p.type == pktAt || p.type == pktSa

/-- Answers a request, and keeps the answer (R499). -/
def State.respond (s : State) (p : Packet) (stat : Nat) (payload : List Byte) : State :=
  let r := s.rspPacket p stat payload
  let w := s.dstWin p.src p.tc
  let s1 := if p.cached then s.setDstWin { w with cache := w.cache ++ [(p.seq, r.bytes)] } else s
  s1.sendBy 0 r

/-- Acknowledges a window up to NEXT (R498); SEQ names the class. -/
def State.sendAck (s : State) (src cls : Nat) : State :=
  s.sendBy 0
    { type := pktAck, tc := 3, src := s.fabric.devNum, dst := src, seq := cls, op := 0, scope := 0, ord := 0, win := 0
      route := 0, off := 0, opnd := BitVec.ofNat 64 (s.dstWin src cls).next, rack := 0, stat := 0, payload := [] }

/-- STAT of a request that stopped short. -/
def Stop.status : Stop → Nat
  | .trap c _ _ _ => c
  | .poison => causePoison
  | _ => causeMcheck

/-- Serves a request: the state after, and whether it is done with (performed, parked or refused). With 4,096 remote accesses
parked, one that would park is not accepted: its source holds it, for it is not acknowledged (R352). -/
def State.serveRequest (s : State) (p : Packet) : State × Bool :=
  match s.exportCtx p.src p.win with
  | none => (s.respond p causeProt [], true)
  | some ctx =>
    let w := s.remoteWho p ctx
    match s.attempt (serve w p (Config.exportBase p.src p.win + p.off)) with
    | (.ok none, t) => (t.settle w.agent, true)
    | (.ok (some bs), t) => ((t.settle w.agent).respond p 0 bs, true)
    | (.error (.park key cond va), t) =>
      if 4096 ≤ (t.parks.filter fun x => x.isRemote).length then ({ t with rix := 0 }, false)
      else
        (t.addPark w.ctx { key, cond, agent := w.agent, va, page := 0, lim := 0, pkt := p.bytes }, true)
    | (.error .stall, t) => ({ t with rix := 0 }, false)
    | (.error st, t) => ((t.settle w.agent).respond p st.status [], true)

/-! ## Delivery (R498, R499) -/

/-- The state with NEXT of a window moved on. -/
def State.stepNext (s : State) (src cls : Nat) : State :=
  let w := s.dstWin src cls
  s.setDstWin { w with
    next := (w.next + 1) % 65536, recv := w.recv.filter (· ≠ w.next), held := w.held.filter fun x => x.1 != w.next
    withdrawn := w.withdrawn.filter (· ≠ w.next) }

/-- R500: a withdrawn access is delivered with no event; its answer has STAT = 11. -/
def State.deliverWithdrawn (s : State) (p : Packet) : State :=
  if (s.dstWin p.src p.tc).cache.any fun x => x.1 == p.seq then s else s.respond p causeParkLimit []

/-- What a window has received in order is delivered; fuel bounds it. A request that must wait stops it, and so does a staged
access, which the Bool says: accesses parked on its line are judged again before the next one (R347). -/
def State.deliverWin (s : State) (src cls : Nat) : Nat → State × Bool
  | 0 => (s, false)
  | fuel + 1 =>
    let w := s.dstWin src cls
    if !w.recv.contains w.next then (s, false)
    else
      match w.held.lookup w.next with
      | none => (s.stepNext src cls).deliverWin src cls fuel
      | some bs =>
        let p := Packet.parse bs
        if w.withdrawn.contains w.next then ((s.deliverWithdrawn p).stepNext src cls).deliverWin src cls fuel
        else
          match s.serveRequest p with
          | (t, true) => if p.type = pktSa then (t.stepNext src cls, true) else (t.stepNext src cls).deliverWin src cls fuel
          | (t, false) => (t, false)

/-- Cache entries below RACK are freed (R499). -/
def State.freeCache (s : State) (p : Packet) : State :=
  let w := s.dstWin p.src p.tc
  s.setDstWin { w with cache := w.cache.filter fun x => !seqBelow x.1 p.rack }

/-- A duplicate (R499): the cached response again, if there is one, and NEXT. -/
def State.duplicate (s : State) (p : Packet) : State :=
  let s1 := match (s.dstWin p.src p.tc).cache.lookup p.seq with
    | some bs => s.sendBy 0 (Packet.parse bs)
    | none => s
  s1.sendAck p.src p.tc

/-- A new request enters its window: RECV is set, and class 0 holds it in the reorder buffer. -/
def State.receive (s : State) (p : Packet) (bs : List Byte) : State :=
  let w := s.dstWin p.src p.tc
  s.setDstWin { w with recv := w.recv ++ [p.seq], held := if p.tc = 0 then w.held ++ [(p.seq, bs)] else w.held }

/-- R498: the request at the head of a port. -/
def State.takeRequest (s : State) (port : Nat) (bs : List Byte) : State :=
  let p := Packet.parse bs
  let s0 := s.freeCache p
  let w := s0.dstWin p.src p.tc
  let d := (p.seq + 65536 - w.next) % 65536
  if 4096 ≤ d ∨ w.recv.contains p.seq then (s0.popPacket port bs.length).duplicate p
  else if p.tc = 1 then
    match s0.serveRequest p with
    | (t, true) => ((((t.popPacket port bs.length).receive p bs).deliverWin p.src 1 4096).1).sendAck p.src 1
    | (t, false) => t
  else (((s0.popPacket port bs.length).receive p bs).deliverWin p.src 0 4096).1.sendAck p.src 0

/-- Requests of a source that had to wait are tried again; an ACK tells it when NEXT has moved (R498). -/
def State.deliverFrom (s : State) (w : DstWin) : State × Bool :=
  let (t, judged) := s.deliverWin w.src 0 4096
  (if (t.dstWin w.src 0).next = w.next then t else t.sendAck w.src 0, judged)

/-- Requests in order that had to wait are tried again, as far as the first staged access, which the Bool says. -/
def State.deliverAll (s : State) : State × Bool :=
  s.fabric.dst.foldl (fun t w => if t.2 || w.cls != 0 then t else t.1.deliverFrom w) (s, false)

/-- A request of a type at the head of a port is taken, when no staged access that waited is delivered in its place. -/
def State.onRequest (s : State) (type port : Nat) : State :=
  match (s.portOf port).headPacket with
  | none => s.deliverAll.1
  | some bs =>
    if (Packet.parse bs).type = type then
      let (t, judged) := s.deliverAll
      if judged then t else t.takeRequest port bs
    else s

/-- R496: a remote read. -/
def execRd (port : Nat) (s : State) : Res := .next (s.onRequest pktRd port)
/-- R496: a remote write. -/
def execWr (port : Nat) (s : State) : Res := .next (s.onRequest pktWr port)
/-- R499: a remote atomic, performed once. -/
def execAtomicRemote (port : Nat) (s : State) : Res := .next (s.onRequest pktAt port)
/-- R352: a remote staged access. -/
def execSa (port : Nat) (s : State) : Res := .next (s.onRequest pktSa port)
/-- R496: a remote scatter-addition. -/
def execSadd (port : Nat) (s : State) : Res := .next (s.onRequest pktSadd port)

/-! ## Answers at the source (R497 to R499) -/

/-- A packet of a type at the head of a port, with the state after it is taken. -/
def State.onPacket (s : State) (type port : Nat) (f : Packet → State → State) : State :=
  match (s.portOf port).headPacket with
  | none => s
  | some bs => if (Packet.parse bs).type = type then f (Packet.parse bs) (s.popPacket port bs.length) else s

/-- A response: the agent's access has its answer; one that matches nothing is discarded. -/
def State.takeRsp (p : Packet) (s : State) : State :=
  let cls := p.opnd.toNat
  if 2 ≤ cls then s
  else
    let w := s.srcWin p.src cls
    let s1 :=
      if w.awaited.contains p.seq then
        s.setSrcWin { w with awaited := w.awaited.filter (· ≠ p.seq), kept := w.kept.filter fun x => x.1 != p.seq }
      else s
    { s1 with remotes := s1.remotes.map fun r =>
        if r.dst == p.src && r.cls == cls && r.seq == p.seq && r.answer.isNone then
          { r with answer := some (p.stat, p.payload) }
        else r }

/-- An acknowledgement frees the retry buffer below OPND (R498); writes that it covers are done with. -/
def State.takeAckPacket (p : Packet) (s : State) : State :=
  let cls := p.seq
  if 2 ≤ cls then s
  else
    let w := s.srcWin p.src cls
    let below (n : Nat) : Bool := seqBelow n p.opnd.toNat
    let retry := w.retry.filter fun x => !below x.1
    let kept := w.kept ++ w.retry.filter fun x => below x.1 && w.awaited.contains x.1
    let s1 := s.setSrcWin { w with retry, kept, tries := 0 }
    { s1 with remotes := s1.remotes.map fun r =>
        if r.dst == p.src && r.cls == cls && below r.seq && !r.wantsRsp && r.answer.isNone then
          { r with answer := some (0, []) }
        else r }

/-- R497: a response arrives. -/
def execRsp (port : Nat) (s : State) : Res := .next (s.onPacket pktRsp port State.takeRsp)
/-- R498: an acknowledgement arrives. -/
def execAck (port : Nat) (s : State) : Res := .next (s.onPacket pktAck port State.takeAckPacket)

/-! ## Withdrawals (R500) -/

/-- The request that a withdrawal names, as far as it is known: its answer has STAT = 11. -/
def Packet.withdrawnSa (p : Packet) : Packet := { p with type := pktSa, tc := 0 }

/-- R500: where the SA stands decides. One that has gone on to a third device is withdrawn there, and its outcome is the one that
comes back (R350). -/
def State.takeWdr (p : Packet) (s : State) : State :=
  let sa := p.withdrawnSa
  let ag : Agent := .remote p.src 0 p.seq
  let w := s.dstWin p.src 0
  let d := (p.seq + 65536 - w.next) % 65536
  if s.parks.any fun x => x.agent == ag then
    ({ s with parks := s.parks.filter fun x => x.agent != ag }).respond sa causeParkLimit []
  else if s.remotes.any fun r => r.agent == ag then s.withdraw false fun r => r.agent == ag
  else
    match w.cache.lookup p.seq with
    | some bs => s.sendBy 0 (Packet.parse bs)
    | none =>
      if w.held.any fun x => x.1 == p.seq then s.setDstWin { w with withdrawn := w.withdrawn ++ [p.seq] }
      else if d < 4096 then
        (s.setDstWin { w with withdrawn := w.withdrawn ++ [p.seq] }).respond sa causeParkLimit []
      else s

/-- R500: a withdrawal arrives. -/
def execWdr (port : Nat) (s : State) : Res := .next (s.onPacket pktWdr port State.takeWdr)

/-! ## Routes and replay (R501, R502) -/

/-- Valid routes of a destination whose port exists. -/
def State.validRoutes (s : State) (dst : Nat) : Nat :=
  ((List.range 4).filter fun i =>
    let r := Table.get (false, 0, 0) (4 * dst + i) s.fabric.routes
    r.1 && s.portExists r.2.1).length

/-- The port of a window's route is down, or its route is gone. -/
def State.routeBroken (s : State) (w : SrcWin) : Bool := !s.routeUp w.dst w.route

/-- The requests of a window that are not acknowledged or not answered, in ascending order (R501). -/
def SrcWin.outstanding (w : SrcWin) : List (Nat × List Byte) := w.kept ++ w.retry

/-- Outstanding requests sent again. -/
def State.replayAll (s : State) (route : Nat) : List (Nat × List Byte) → State
  | [] => s
  | x :: t => (s.sendBy route (Packet.parse x.2)).replayAll route t

/-- Contexts whose agents wait for a destination. -/
def State.waitingOn (s : State) (dst : Nat) : List Nat :=
  ((s.remotes.filter fun r => r.dst == dst && r.answer.isNone).filterMap fun r => s.agentCtx r.agent).eraseDups

/-- Sequencers that wait for a destination, as (core, number, context, PC). -/
def State.seqsOn (s : State) (dst : Nat) : List (Nat × Nat × Nat × Word) :=
  (s.remotes.filter fun r => r.dst == dst && r.answer.isNone).filterMap fun r =>
    match r.agent with
    | .seq c q | .fetch c q => some (c, q, (s.hartAt c q).ctx, (s.hartAt c q).pc)
    | _ => none

/-- R502: a destination is unreachable. Retry buffers are discarded; sequencers that wait end their contexts, other agents
get MCHECK; the tenants are told. -/
def State.unreachable (s : State) (dst : Nat) : State :=
  let ctxs := s.waitingOn dst
  let seqs := s.seqsOn dst
  let s1 : State := { s with
    fabric := { s.fabric with
      unreach := s.fabric.unreach ++ [dst]
      src := s.fabric.src.map fun w => if w.dst == dst then { w with retry := [], kept := [], awaited := [], tries := 0 } else w }
    remotes := s.remotes.map fun r =>
      if r.dst == dst && r.answer.isNone then { r with answer := some (causeMcheck, []) } else r }
  let s2 := ctxs.foldl (fun t c => t.postEvent (t.ctxOf c).tenant [BitVec.ofNat 64 (5 * 2 ^ 56 + c * 2 ^ 32)]) s1
  seqs.foldl (fun t x =>
    if (t.ctxOf x.2.2.1).ended then t else t.endContext x.2.2.1 (imprecise causeMcheck) 0 (some (x.1, x.2.1, x.2.2.2))) s2

/-- R501: a window moves to its next route and replays, or after three passes its destination is unreachable. -/
def State.moveRoute (s : State) (w : SrcWin) : State :=
  let tries := w.tries + 1
  if 3 * s.validRoutes w.dst ≤ tries ∧ w.outstanding ≠ [] then s.unreachable w.dst
  else
    match s.nextRoute w.dst (w.route + 1) with
    | none => s.setSrcWin { w with tries }
    | some i => (s.setSrcWin { w with route := i, tries }).replayAll i w.outstanding

/-- R501: a window's port is down, or ACKTMO has passed without an acknowledgement of its oldest request (DEDUCED, log 54). -/
def execRouteMove (dst cls : Nat) (s : State) : Res :=
  let w := s.srcWin dst cls
  if 2 ≤ cls ∨ s.fabric.unreach.contains dst ∨ (w.retry = [] ∧ !s.routeBroken w) then .next s
  else .next (s.moveRoute w)

/-- R502: service firmware clears the mark of a destination. -/
def execDestinationMarkClear (dev : Nat) (s : State) : Res :=
  .next { s with fabric := { s.fabric with unreach := s.fabric.unreach.filter (· ≠ dev) } }

end Sys2Proof.Machine
end

