-- ==== Sys2Proof/Machine/Column.lean ====
section
/-! DEFINITION. Column registers: descriptors, the relations over keys, rows, and the append body (10, 11 R249 to R256). -/
namespace Sys2Proof.Machine

/-! ## Descriptors (10 Table 10.1) -/

/-- A descriptor's fields. CONT is its 36 bits in one number. -/
structure Desc where
  base : Nat
  isDef : Bool
  pend : Bool
  midop : Bool
  pos : Bool
  ew : BitVec 3
  ty : BitVec 3
  bound : Nat
  len : Nat
  run : Nat
  cont : Nat
  phase : Nat
  curb : Nat
  cura : Nat
  aux : Nat
  deriving DecidableEq, Repr

/-- The fields of 512 bits. -/
def Desc.ofBits (b : BitVec 512) : Desc :=
  let x := b.toNat
  { base := field x 448 57, isDef := bitOf x 447, pend := bitOf x 446, midop := bitOf x 445, pos := bitOf x 444
    ew := BitVec.ofNat 3 (field x 441 3), ty := BitVec.ofNat 3 (field x 438 3), bound := field x 384 40
    len := field x 320 40, run := field x 256 40, cont := field x 220 36, phase := field x 208 8, curb := field x 128 40
    cura := field x 64 40, aux := field x 0 64 }

/-- The 512 bits of a descriptor. -/
def Desc.bits (d : Desc) : BitVec 512 :=
  BitVec.ofNat 512 (d.base * 2 ^ 448 + bit d.isDef * 2 ^ 447 + bit d.pend * 2 ^ 446 + bit d.midop * 2 ^ 445
    + bit d.pos * 2 ^ 444 + d.ew.toNat * 2 ^ 441 + d.ty.toNat * 2 ^ 438 + d.bound * 2 ^ 384 + d.len * 2 ^ 320
    + d.run * 2 ^ 256 + d.cont * 2 ^ 220 + d.phase * 2 ^ 208 + d.curb * 2 ^ 128 + d.cura * 2 ^ 64 + d.aux)

/-- Bytes of a row. -/
def Desc.rowBytes (d : Desc) : Nat := widthOf d.ew / 8

/-- R231 for a defined descriptor, reserved bits apart. -/
def Desc.sound (d : Desc) : Bool :=
  d.isDef && d.base % 64 == 0 && 1 ≤ d.bound && d.bound ≤ 2 ^ 40 - 1 && d.base + d.bound * d.rowBytes ≤ 2 ^ 57
    && d.len ≤ d.bound && Legal.pairOk d.ew d.ty && d.ew != 4
    && (!d.pos || (d.ew == 3 && d.ty == 0))
    && (d.pend || d.midop
        || (d.run == 0 && d.cont == 0 && d.phase == 0 && d.cura == 0 && d.curb == 0 && d.aux == 0))
    && !(d.pend && d.midop)

/-- A restore refuses the saved descriptor: it is neither all zero nor whole by R231. -/
def descRefused (b : BitVec 512) : Bool :=
  b != 0 && ((Desc.ofBits b).bits != b || !(Desc.ofBits b).sound)

/-- Column register n of a sequencer. -/
def Hart.col (h : Hart) (n : BitVec 5) : Desc := Desc.ofBits (h.cols.toList.getD n.toNat 0)

/-- The state with column register n of the acting sequencer replaced. -/
def State.setCol (s : State) (n : BitVec 5) (d : Desc) : State :=
  { s with hart := { s.hart with cols := s.hart.cols.setIfInBounds n.toNat d.bits } }

/-! ## Relations over keys (R252) -/

/-- cmp(x, y, cc) for keys of a type. -/
def keyCond (ew ty : BitVec 3) (cc x y : Nat) : Bool :=
  if Legal.isInt ty then intCond cc (sint (widthOf ew) x) (sint (widthOf ew) y) x y
  else Val.cond cc ((fmtOf ew ty).val x) ((fmtOf ew ty).val y)

/-- keq(x, y). -/
def keyEq (ew ty : BitVec 3) (x y : Nat) : Bool :=
  if Legal.isInt ty then x == y
  else x == y || ((fmtOf ew ty).val x == .nan && (fmtOf ew ty).val y == .nan)

/-- x comes before y in korder, ascending or descending; equal keys come before neither. NaN is last both ways. -/
def keyBefore (ew ty : BitVec 3) (desc : Bool) (x y : Nat) : Bool :=
  if Legal.isInt ty then
    let a := readInt ty (widthOf ew) x
    let b := readInt ty (widthOf ew) y
    if desc then decide (b < a) else decide (a < b)
  else
    let a := (fmtOf ew ty).val x
    let b := (fmtOf ew ty).val y
    match a == .nan, b == .nan with
    | true, _ => false
    | false, true => true
    | false, false => if desc then b.below a else a.below b

/-- A CMP code that R91 forbids for a key type. -/
def cmpForbidden (ty : BitVec 3) (cc : Nat) : Bool :=
  if Legal.isInt ty then cc == 10 || cc == 11 else cc == 4 || cc == 5 || cc == 8 || cc == 9

/-! ## Rows (R233, R234) -/

/-- The access to row i. -/
def Desc.rowOp (d : Desc) (i : Nat) (strict : Bool) (act : Act) : MemOp :=
  { va := (d.base + i * d.rowBytes : Nat), n := d.rowBytes, align := false, strict, act, ord := 0, scope := 1 }

/-- Row i, read and examined (R251). -/
def readRow (d : Desc) (i : Nat) : M Nat := do
  let s ← get
  let r ← perform s.me [d.rowOp i true .load]
  return ofBytes (r.headD ([], false)).1

/-- The rows from i on, n of them. -/
def readRows (d : Desc) : Nat → Nat → M (List Nat)
  | _, 0 => pure []
  | i, n + 1 => do
    let x ← readRow d i
    let t ← readRows d (i + 1) n
    return x :: t

/-! ## Issue checks (R249) -/

/-- CONT of a word's own fields (R238). -/
def ownCont (op : Nat) (f : ClF) : Nat :=
  op * 2 ^ 28 + f.d.toNat * 2 ^ 23 + f.a.toNat * 2 ^ 18 + f.b.toNat * 2 ^ 13 + f.c.toNat * 2 ^ 8 + f.cmp.toNat * 2 ^ 4
    + f.kind.toNat

/-- The continuation fields of a descriptor. -/
def Desc.contFields (d : Desc) : Bool × Bool × Nat × Nat × Nat × Nat × Nat × Nat :=
  (d.pend, d.midop, d.run, d.cont, d.phase, d.cura, d.curb, d.aux)

/-- Two Cellar areas overlap (R235). -/
def areasMeet (d e : Desc) : Bool :=
  decide (d.base < e.base + e.bound * e.rowBytes ∧ e.base < d.base + d.bound * d.rowBytes)

/-- A named register with its descriptor. -/
abbrev Named := BitVec 5 × Desc

/-- A destination meets a source or a later destination (R235). -/
def destsMeet : List Named → List Named → Bool
  | [], _ => false
  | d :: t, srcs => ((srcs ++ t).any fun e => e.1 == d.1 || areasMeet d.2 e.2) || destsMeet t srcs

/-- A binary64 column. -/
def Desc.isF64 (d : Desc) : Bool := d.ew == 3 && d.ty == 2

/-- R249 for a result-producing instruction: destinations, sources, its type requirement, its CONT, the vector operands of
step 6 as registers and widths, and whether step 7 applies. -/
def colIssue (w : Word) (dests srcs : List Named) (typed : Bool) (cont : Nat) (regs widths : List Nat) (f64 : Bool) :
    M Unit := do
  let s ← get
  let v := s.hart.vec
  let all := dests ++ srcs
  if all.any fun x => !x.2.isDef then raise causeIllegal w
  if !typed then raise causeIllegal w
  if destsMeet dests srcs then raise causeIllegal w
  match dests with
  | [] => pure ()
  | d :: t =>
    if (d.2.pend || d.2.midop) && d.2.cont != cont then raise causeIllegal w
    if t.any fun e => e.2.contFields != d.2.contFields then raise causeIllegal w
  if s.hart.group.isNone then raise causeIllegal w
  if regs.any fun r => decide (regCount v.nreg ≤ r) then raise causeIllegal w
  if widths.any fun x => decide (v.vlmax < v.vl * x) then raise causeIllegal w
  if f64 && !s.hasF64 && all.any fun x => x.2.isF64 then raise causeAbsent w

/-! ## The append body (R253) -/

/-- A point of a stream: CURA, CURB, PHASE, AUX. -/
structure Point where
  cura : Nat
  curb : Nat
  phase : Nat
  aux : Nat
  deriving DecidableEq, Repr

/-- The start of a stream. -/
def Point.start : Point := ⟨0, 0, 0, 0⟩

/-- The point that a descriptor holds. -/
def Desc.point (d : Desc) : Point := ⟨d.cura, d.curb, d.phase, d.aux⟩

/-- A result row: its point, the values that it appends as (destination index, value), the point after it. One that appends
nothing is a point within a group where a commit may fall (R262). -/
structure Row where
  pt : Point
  vals : List (Nat × Nat)
  after : Point
  deriving DecidableEq, Repr

/-- The lengths of the destinations after a row, or none when one of them is full. -/
def appendLens (bounds lens : List Nat) (r : Row) : Option (List Nat) :=
  if r.vals.any fun x => decide (bounds.getD x.1 0 ≤ lens.getD x.1 0) then none
  else some (r.vals.foldl (fun l x => l.set x.1 (l.getD x.1 0 + 1)) lens)

/-- Result rows from a point on, up to the first that does not fit, and what stopped their reading; fuel bounds them. Where
D is full and `sure` gives the point of a row of D that follows, that row is not read. -/
def collectRows (next : Point → M (Option Row)) (sure : Point → Option Point) (bounds : List Nat) :
    Nat → List Nat → Point → State → List Row × Option Stop × State
  | 0, _, _, s => ([], none, s)
  | n + 1, lens, p, s =>
    match (sure p).filter fun _ => decide (bounds.getD 0 0 ≤ lens.getD 0 0) with
    | some q => ([⟨q, [(0, 0)], q⟩], none, s)
    | none =>
      match next p s with
      | (.error st, s') => ([], some st, s')
      | (.ok none, s') => ([], none, s')
      | (.ok (some r), s') =>
        match appendLens bounds lens r with
        | none => ([r], none, s')
        | some lens' =>
          let (t, st, s'') := collectRows next sure bounds n lens' r.after s'
          (r :: t, st, s'')

/-- Rows that fit, each with the row position of every value, and the rows that remain. -/
def fitRows (bounds : List Nat) : List Nat → List Row → List (Row × List Nat) × List Row
  | _, [] => ([], [])
  | lens, r :: t =>
    match appendLens bounds lens r with
    | none => ([], r :: t)
    | some lens' =>
      let (a, b) := fitRows bounds lens' t
      ((r, lens) :: a, b)

/-- The stores of some fitted rows. -/
def rowStores (ds : List Desc) (rows : List (Row × List Nat)) : List MemOp :=
  rows.flatMap fun x => x.1.vals.filterMap fun v =>
    match ds[v.1]? with
    | none => none
    | some d => some (d.rowOp (x.2.getD v.1 0) true (.store (toBytes v.2 d.rowBytes)))

/-- Number of leading rows none of whose stores is the one of index i. -/
def rowsBefore : Nat → List (Row × List Nat) → Nat
  | _, [] => 0
  | i, x :: t => if i < x.1.vals.length then 0 else rowsBefore (i - x.1.vals.length) t + 1

/-- Rows of destination i among some fitted rows. -/
def rowsOf (i : Nat) (rows : List (Row × List Nat)) : Nat :=
  (rows.map fun r => (r.1.vals.filter fun v => v.1 == i).length).foldl (· + ·) 0

/-- The destinations after some rows: LEN moved on, the continuation fields as given. RUN of a second destination is that of
the first (DESIGN CHOICE, log 71). -/
def setDests (dests : List Named) (rows : List (Row × List Nat)) (pend midop : Bool) (run cont : Nat) (p : Point) (s : State) :
    State :=
  dests.zipIdx.foldl (fun s x =>
    s.setCol x.1.1 { x.1.2 with
      len := x.1.2.len + rowsOf x.2 rows, pend, midop, run, cont, phase := p.phase, curb := p.curb, cura := p.cura
      aux := p.aux }) s

/-- The point at which an execution goes on after k of its rows: that of the next row (R239). Where a read faults before the next row
is found, it is the one just past the last row committed: the rows read since then are read again (DEDUCED, log 28). -/
def pointAfter (p0 : Point) (rows : List Row) (k : Nat) : Point :=
  match rows[k]? with
  | some r => r.pt
  | none => (rows.getLast?.map (·.after)).getD p0

/-- Row stores of the acting sequencer that are under way to other devices: how many of the fitted rows they are. -/
def State.rowsFlying (s : State) (ds : List Desc) (fit : List (Row × List Nat)) : Option Nat :=
  let vas := (rowStores ds fit).map (·.va)
  (s.flights.find? fun f => f.agent == s.agent && f.start == s.rix && f.vas.isPrefixOf vas).map fun f =>
    if f.vas.length = vas.length then fit.length else rowsBefore f.vas.length fit

/-- A pending pre-emption may land after k rows, with a row appended where the execution is a resumed one (R244). -/
def State.mayCut (s : State) (midop : Bool) (fit : List (Row × List Nat)) (k : Nat) : Bool :=
  s.hart.preq && !s.hart.handling && (!midop || decide (0 < rowsOf 0 (fit.take k)))

/-- How many of the fitted rows an execution commits: all of them; or, at a fault, all but a free number of the last, below
65,536; or a free number from 1 on when a pre-emption is pending (R243, R244) (DEDUCED, log 28). -/
def State.commitCount (s : State) (fit : List (Row × List Nat)) (faulted midop : Bool) : Nat :=
  let total := fit.length
  let free := s.freeWord.toNat
  if faulted then total - free % min (total + 1) 65536
  else
    let k := 1 + free % min (max total 1) 65536
    if decide (k < total) && s.mayCut midop fit k then k else total

/-- The row stores of a commit: how many rows stand, and the fault of the answer that refused a row of another device. The
rows before that row are committed with their local stores. -/
def storeRows (ds : List Desc) (rows : List (Row × List Nat)) : M (Nat × Option Stop) := do
  let s ← get
  let ops := rowStores ds rows
  try
    let _ ← perform s.me ops
    return (rows.length, none)
  catch
    | .trap c v sub true => do
      let i := ops.findIdx fun o => decide (o.va ≤ (v.toNat : Int) ∧ (v.toNat : Int) < o.va + o.n)
      let k := rowsBefore i rows
      match s.checkOps [] s.me (rowStores ds (rows.take k)) 0 with
      | .ok l => let _ ← perform s.me ((l.filter fun x => x.2.all fun p => !p.isRemote).map (·.1))
      | .error _ => pure ()
      return (k, some (.trap c v sub true))
    | e => throw e

/-- A result-producing instruction from its checks on (R253, R237 to R244); `steps` bounds the points within groups. Row stores that
are under way have passed their checks (R303): those rows are committed, and where others follow, the execution goes on from
there, as one that resumes. -/
def appendBody (w : Word) (f : ClF) (cont : Nat) (dests : List Named) (start : Point) (finish : State → State)
    (next : Point → M (Option Row)) (sure : Point → Option Point := fun _ => none) (steps : Nat := 0) : M Unit := do
  let s0 ← get
  let ds := dests.map (·.2)
  let d0 := ds.headD (Desc.ofBits 0)
  let p0 := if d0.midop || d0.pend then d0.point else start
  let n0 := if d0.midop then d0.run else 0
  let (rows, st, s1) :=
    collectRows next sure (ds.map (·.bound)) (d0.bound - d0.len + 1 + steps) (ds.map (·.len)) p0 s0
  set s1
  match st with
  | some (.trap _ _ _ _) | none => pure ()
  | some stop => throw stop
  let (fit, rest) := fitRows (ds.map (·.bound)) (ds.map (·.len)) rows
  let flying := s1.rowsFlying ds fit
  let (fit, st, rest) := match flying, s1.firstFail s1.me (rowStores ds fit) with
    | none, some (i, c, v) => (fit.take (rowsBefore i fit), some (Stop.check c v), [])
    | _, _ => (fit, st, rest)
  match st with
  | some (.trap c _ _ remote) => awaitNext w c remote
  | _ => pure ()
  let k := flying.getD (s1.commitCount fit st.isSome d0.midop)
  let (n, refused) ← storeRows ds (fit.take k)
  let st := refused.orElse fun _ => if flying.isSome && decide (k < fit.length) then none else st
  let land (s : State) : State :=
    setDests dests (fit.take n) false true (n0 + rowsOf 0 (fit.take n)) cont (pointAfter p0 rows n) s.nextTick
  match st with
  | some (.trap c v sub remote) =>
    change fun t => let u := land t; u.endInstr.takeTrap (u.causeOf w c v sub remote)
  | some stop => throw stop
  | none =>
    if n < fit.length then
      change fun t =>
        if s1.mayCut d0.midop fit n then
          let u := land { t with hart := { t.hart with epc := t.hart.pc } }
          (u.logEvent (dieOf u.hart.core) "PREEMPT").land u.hart.core u.hart.sq false true u.hart.pc u.hart.cause
        else land t
    else
      match rest with
      | [] => change (setDests dests fit false false 0 0 Point.start)
      | r :: _ => change (setDests dests fit true false 0 cont r.pt)
      change fun t => (finish t).setG f.lreg (BitVec.ofNat 64 (n0 + rowsOf 0 fit))
      complete

/-! ## Descriptor instructions (R254, R255) -/

/-- 11 Table 11.2: EW, TY and POS of a KIND. -/
def cdefType (k : Nat) : BitVec 3 × BitVec 3 × Bool :=
  match k with
  | 0 => (0, 0, false)
  | 1 => (1, 0, false)
  | 2 => (2, 0, false)
  | 3 => (3, 0, false)
  | 4 => (0, 1, false)
  | 5 => (1, 1, false)
  | 6 => (2, 1, false)
  | 7 => (3, 1, false)
  | 8 => (1, 2, false)
  | 9 => (1, 3, false)
  | 10 => (2, 2, false)
  | 11 => (3, 2, false)
  | 12 => (0, 4, false)
  | 13 => (0, 5, false)
  | _ => (3, 0, true)

/-- The descriptor that `cdef` makes. -/
def cdefDesc (base bound k : Nat) : Desc :=
  let t := cdefType k
  { base, isDef := true, pend := false, midop := false, pos := t.2.2, ew := t.1, ty := t.2.1, bound, len := 0, run := 0
    cont := 0, phase := 0, curb := 0, cura := 0, aux := 0 }

/-- R254. -/
def execCdef (f : ClF) (s : State) : Res :=
  let w := encCl 0x70 0 f
  s.run w do
    let d := cdefDesc (s.rg f.a).toNat (s.rg f.b).toNat f.kind.toNat
    if !d.sound then raise causeIllegal w
    change fun s => s.setCol f.d d
    complete

/-- A read of a defined descriptor into GR(D) (R255). -/
def readDesc (w : Word) (f : ClF) (g : Desc → Nat) : M Unit := do
  let s ← get
  let d := s.hart.col f.a
  if !d.isDef then raise causeIllegal w
  change fun s => s.setG f.d (BitVec.ofNat 64 (g d))
  complete

/-- R255. -/
def execClen (f : ClF) (s : State) : Res :=
  let w := encCl 0x73 0 f
  s.run w (readDesc w f fun d => d.len)

/-- R255. -/
def execCpend (f : ClF) (s : State) : Res :=
  let w := encCl 0x74 0 f
  s.run w (readDesc w f fun d => bit d.pend)

/-- R255. -/
def execCclr (f : ClF) (s : State) : Res :=
  let w := encCl 0x75 0 f
  s.run w do
    let d := s.hart.col f.d
    if !d.isDef then raise causeIllegal w
    change fun s => s.setCol f.d { d with len := 0 }
    complete

end Sys2Proof.Machine
end

