-- ==== Sys2Proof/Machine/Chute.lean ====
section
/-! DEFINITION. Launch records and chutes (20 R399 to R401, R414 to R416). -/
namespace Sys2Proof.Machine

/-! ## Launch records -/

/-- Word i of stage entry st (20 Table 20.2). -/
def recStage (r : List Byte) (st i : Nat) : Word := wordAt r (64 + 32 * st + 8 * i)
/-- Word i of chute entry c (20 Table 20.3). -/
def recChute (r : List Byte) (c i : Nat) : Word := wordAt r (320 + 32 * c + 8 * i)
/-- NSTAGE. -/
def recStages (r : List Byte) : Nat := wbits (wordAt r 0) 52 4
/-- NCHUTE. -/
def recChutes (r : List Byte) : Nat := wbits (wordAt r 0) 47 5
/-- NINST of a stage. -/
def recNinst (r : List Byte) (st : Nat) : Nat := wbits (recStage r st 1) 0 32
/-- FROM of a chute. -/
def recFrom (r : List Byte) (c : Nat) : Nat := wbits (recChute r c 0) 61 3
/-- TO. -/
def recTo (r : List Byte) (c : Nat) : Nat := wbits (recChute r c 0) 58 3
/-- SLOTS. -/
def recSlots (r : List Byte) (c : Nat) : Nat := wbits (recChute r c 0) 41 17
/-- BYTES. -/
def recBytes (r : List Byte) (c : Nat) : Nat := wbits (recChute r c 0) 20 21
/-- CBASE. -/
def recCbase (r : List Byte) (c : Nat) : Nat := wbits (recChute r c 1) 0 57

/-- Address of slot k's control line (R401). -/
def slotLine (r : List Byte) (c k : Nat) : Nat := recCbase r c + 64 * k
/-- Address of slot k's header line. -/
def slotHeader (r : List Byte) (c k : Nat) : Nat := recCbase r c + 64 * recSlots r c + k * (recBytes r c + 64)

/-- Every instance of a stage has exited. -/
def Launch.stageDone (l : Launch) (st : Nat) : Bool := decide (recNinst l.image st ≤ l.exited.getD st 0)

/-- Every instance of every stage has exited (R403). -/
def Launch.done (l : Launch) : Bool := (List.range (recStages l.image)).all l.stageDone

/-- A launch replaced. -/
def State.setLaunch (s : State) (l : Launch) : State :=
  { s with launches := s.launches.map fun x => if x.serial == l.serial then l else x }

/-! ## Chute steps -/

/-- States of a control line (R414). -/
def chEmpty : Nat := 0
/-- FILLING. -/
def chFilling : Nat := 1
/-- FULL. -/
def chFull : Nat := 2
/-- DRAINING. -/
def chDraining : Nat := 3

/-- The acting sequencer's chute: its launch, the chute's number and counters. The checks of R414 on the chute word. -/
def chuteFor (w : Word) (r : BitVec 5) (put : Bool) (close : Bool) : M (Launch × Nat × Chute) := do
  let s ← get
  let cw := (s.rg r).toNat
  let h := s.hart
  let i := cw % 16
  match s.launchOf h.inst.serial with
  | none => raise causeIllegal w
  | some l =>
    let held := h.slots.any fun x => x.chute == i && x.put == put
    if cw / 16 % 16 ≠ 0 ∨ cw / 512 ≠ 0 ∨ l.ctx ≠ h.ctx ∨ recChutes l.image ≤ i
        ∨ h.inst.stage ≠ (if put then recFrom l.image i else recTo l.image i) ∨ held ≠ close then raise causeIllegal w
    match l.chutes[i]? with
    | none => raise causeIllegal w
    | some c => return (l, i, c)

/-- The counter of a kind of open. -/
def Chute.counter (c : Chute) (put : Bool) : Nat := if put then c.put else c.get

/-- An open that can never be served (R415). -/
def Launch.deadOpen (l : Launch) (i : Nat) (c : Chute) (put : Bool) : Bool :=
  if put then l.stageDone (recTo l.image i) else l.stageDone (recFrom l.image i) && c.get == c.put

/-- The slot that an open takes next. -/
def Chute.nextSlot (c : Chute) (put : Bool) : Nat := c.counter put % c.lines.length

/-- The next slot is in the state that an open needs (20 Table 20.9). -/
def State.slotReady (s : State) (c : Chute) (put : Bool) : Bool :=
  (s.metaOf (c.lines.getD (c.nextSlot put) 0)).state.toNat == (if put then chEmpty else chFull)

/-- An open performed: the transition, the counter, the slot held, GR(D) the address of its data (20 Table 20.9). -/
def State.openSlot (s : State) (l : Launch) (i : Nat) (c : Chute) (put : Bool) (d : BitVec 5) : State :=
  let k := c.nextSlot put
  let c' := if put then { c with put := c.put + 1 } else { c with get := c.get + 1 }
  let s1 := s.setLineState (c.lines.getD k 0) (if put then chFilling else chDraining)
  let s2 := (s1.setLaunch { l with chutes := l.chutes.set i c' }).markVa l.ctx (slotLine l.image i k) true
  let h := s2.hart
  ({ s2 with hart := { h with slots := h.slots ++ [OpenSlot.mk i put k] } }).setG d
    (BitVec.ofNat 64 (slotHeader l.image i k + 64))

/-- The checks of a chute step on its control line: a transition that changes the line's state needs R and W, and U at program
level (R274, R346, R519). -/
def controlCheck (l : Launch) (i k : Nat) : M Unit := do
  let s ← get
  let va := slotLine l.image i k
  match s.checkPart [] l.ctx s.hart.level .load va 1, s.checkPart [] l.ctx s.hart.level .store va 1 with
  | .error (c, v), _ => failCheck c v
  | _, .error (c, v) => failCheck c v
  | _, _ => pure ()

/-- Opens parked on a chute. -/
def State.chuteQueue (s : State) (serial i : Nat) (put : Bool) : List Park :=
  s.parks.filter fun p => p.key == .chute serial i put

/-- An open judged (R415): 0 at once when it can never be served; performed when nothing is queued and its slot is in the
state it needs; else it parks. -/
def chuteOpen (w : Word) (f : RrF) (put : Bool) : M Unit := do
  let (l, i, c) ← chuteFor w f.a put false
  let s ← get
  if l.deadOpen i c put then
    change fun s => s.setG f.d 0
    complete
  else
    let q := s.chuteQueue l.serial i put
    let slot := (c.counter put + q.length) % c.lines.length
    controlCheck l i slot
    drainOwn
    if q.isEmpty && s.slotReady c put then
      if s.migrating l.ctx (slotLine l.image i (c.nextSlot put)) then throw .stall
      change fun s => s.openSlot l i c put f.d
      complete
    else throw (.park (.chute l.serial i put) .slot (slotLine l.image i slot))

/-- The slot of a kind that the acting sequencer holds on a chute. -/
def Hart.heldSlot (h : Hart) (i : Nat) (put : Bool) : Nat :=
  match h.slots.find? fun x => x.chute == i && x.put == put with
  | some x => x.slot
  | none => 0

/-- A close performed: the transition, the slot given up, GR(D) its number (20 Table 20.9). -/
def State.closeSlot (s : State) (l : Launch) (i : Nat) (c : Chute) (put : Bool) (d : BitVec 5) : State :=
  let k := s.hart.heldSlot i put
  let s1 := s.setLineState (c.lines.getD k 0) (if put then chFull else chEmpty)
  let s2 := s1.markVa l.ctx (slotLine l.image i k) true
  let h := s2.hart
  ({ s2 with hart := { h with slots := h.slots.filter fun x => !(x.chute == i && x.put == put) } }).setG d
    (BitVec.ofNat 64 k)

/-- The chute word's CLOSE bit in GR(r). -/
def State.closeBit (s : State) (r : BitVec 5) : Bool := bitOf (s.rg r).toNat 8

/-- R414, R415. -/
def execChputOpen (f : RrF) (s : State) : Res :=
  let w := encRr 0x94 0 f
  s.run w (chuteOpen w f true)

/-- R414, R415. -/
def execChgetOpen (f : RrF) (s : State) : Res :=
  let w := encRr 0x94 1 f
  s.run w (chuteOpen w f false)

/-- R414: LEN and the WID go to the header line, whose other words are 0 (R401), then the slot becomes FULL. -/
def execChputClose (f : RrF) (s : State) : Res :=
  let w := encRr 0x94 0 f
  s.run w do
    let (l, i, c) ← chuteFor w f.a true true
    let s ← get
    let n := s.rg f.b
    if recBytes l.image i < n.toNat then raise causeIllegal w
    let k := s.hart.heldSlot i true
    controlCheck l i k
    if s.migrating l.ctx (slotLine l.image i k) then throw .stall
    storeBytes s.me (slotHeader l.image i k : Nat) (wordBytes [n, s.hart.wid, 0, 0, 0, 0, 0, 0])
    drainOwn
    change fun s => s.closeSlot l i c true f.d
    complete

/-- R414: the slot becomes EMPTY. -/
def execChgetClose (f : RrF) (s : State) : Res :=
  let w := encRr 0x94 1 f
  s.run w do
    let (l, i, c) ← chuteFor w f.a false true
    let s ← get
    controlCheck l i (s.hart.heldSlot i false)
    if s.migrating l.ctx (slotLine l.image i (s.hart.heldSlot i false)) then throw .stall
    drainOwn
    change fun s => s.closeSlot l i c false f.d
    complete

end Sys2Proof.Machine
end

