-- ==== Sys2Proof/Machine/Launch.lean ====
section
/-! DEFINITION. `launch`, `yield`, `exit`, and the end of a launch (20 R399 to R407). -/
namespace Sys2Proof.Machine

/-! ## Checking a launch record (R399 to R405) -/

/-- WFMT of a record: NF from 1 to 6, each width from 1 to 64, the others 0, their sum at most 64 (R58, 03 Table 3.1). -/
def wfmtOk (w : Word) : Bool :=
  let nf := wbits w 42 3
  let width k := wbits w (7 * k) 7
  wbits w 45 19 == 0 && 1 ≤ nf && nf ≤ 6
    && ((List.range 6).all fun k => if k < nf then 1 ≤ width k && width k ≤ 64 else width k == 0)
    && ((List.range 6).foldl (fun acc k => acc + width k) 0) ≤ 64

/-- S: the sum of the widths. -/
def wfmtSum (w : Word) : Nat := (List.range 6).foldl (fun acc k => acc + wbits w (7 * k) 7) 0

/-- Reserved bits of RMODE are 0 (05 Table 5.3). -/
def rmodeOk (w : Word) : Bool := wbits w 5 19 == 0 && wbits w 3 1 == 0

/-- BADHDR does not apply (20 Tables 20.1, 20.4). -/
def headerOk (r : List Byte) : Bool :=
  let w := wordAt r
  let cmpl := wbits (w 40) 62 2
  let caddr := wbits (w 48) 0 57
  let lv := wbits (w 56) 0 17
  let lendep := wbits (w 0) 46 1
  wbits (w 0) 56 8 == 3 && 1 ≤ recStages r && recStages r ≤ 8 && recChutes r ≤ 16 && wbits (w 0) 0 44 == 0
    && wfmtOk (w 8) && rmodeOk (w 16) && cmpl != 3 && wbits (w 40) 0 55 == 0 && wbits (w 48) 57 7 == 0
    && (if cmpl = 0 then caddr == 0 else caddr % 64 == 0) && wbits (w 56) 17 47 == 0
    && (if lendep = 1 then isLanePower lv else lv == 0)

/-- BADSTAGE does not apply to a stage entry (20 Table 20.2). -/
def stageOk (r : List Byte) (st : Nat) : Bool :=
  let w := recStage r st
  if st < recStages r then
    let n := recNinst r st
    wbits (w 0) 57 7 == 0 && wbits (w 0) 0 3 == 0 && wbits (w 1) 32 32 == 0 && 1 ≤ n
      && (wordAt r 32).toNat + n ≤ 2 ^ wfmtSum (wordAt r 8)
      && wbits (w 2) 57 7 == 0 && wbits (w 2) 0 6 == 0 && wbits (w 3) 40 24 == 0 && wbits (w 3) 0 6 == 0
      && (wbits (w 2) 0 57 != 0 || wbits (w 3) 0 40 == 0)
  else w 0 == 0 && w 1 == 0 && w 2 == 0 && w 3 == 0

/-- The fields of a chute entry are in range (20 Table 20.3). -/
def chuteFieldsOk (r : List Byte) (c : Nat) : Bool :=
  wbits (recChute r c 0) 0 20 == 0 && wbits (recChute r c 1) 57 7 == 0 && recChute r c 2 == 0 && recChute r c 3 == 0
    && recFrom r c < recTo r c && recTo r c < recStages r && 1 ≤ recSlots r c && recSlots r c ≤ 65536
    && recBytes r c % 64 == 0 && 64 ≤ recBytes r c && recBytes r c ≤ 1048576
    && recCbase r c % 64 == 0 && recCbase r c != 0

/-- The physical lines of some control lines, when each is mapped with R and W on a STAGED page and not yet bound. -/
def State.controlLines (s : State) (ctx : Nat) (lv : Level) : List Nat → Option (List Nat)
  | [] => some []
  | va :: t =>
    match s.walk ctx va with
    | none => none
    | some l =>
      let pa := l.base + va % l.size
      if rightDenied l.val lv .load || rightDenied l.val lv .store || !leafStaged l.val
          || s.alreadyBound [(va, pa, 64)] then none
      else
        match s.controlLines ctx lv t with
        | none => none
        | some ls => if ls.contains (lineOf pa) then none else some (lineOf pa :: ls)

/-- The walks of some control lines, as far as the first line that is refused, consume poison there (R471). -/
def State.linesPoisoned (s : State) (ctx : Nat) (lv : Level) : List Nat → Bool
  | [] => false
  | va :: t =>
    match s.walk ctx va with
    | none => s.walkPoisoned ctx va
    | some l =>
      !(rightDenied l.val lv .load || rightDenied l.val lv .store || !leafStaged l.val
          || s.alreadyBound [(va, l.base + va % l.size, 64)])
        && s.linesPoisoned ctx lv t

/-- Addresses of the control lines of a chute. -/
def controlAddrs (r : List Byte) (c : Nat) : List Nat := (List.range (recSlots r c)).map (slotLine r c)

/-- The chutes from number c on: the control lines of each, or the number of the first that is refused. -/
def State.checkChutes (s : State) (ctx : Nat) (lv : Level) (r : List Byte) : List Nat → List Nat → Except Nat (List (List Nat))
  | [], _ => .ok []
  | c :: t, seen =>
    if c < recChutes r then
      if !chuteFieldsOk r c then .error c
      else
        match s.controlLines ctx lv (controlAddrs r c) with
        | none => .error c
        | some ls =>
          if ls.any seen.contains then .error c
          else
            match s.checkChutes ctx lv r t (ls ++ seen) with
            | .error e => .error e
            | .ok rest => .ok (ls :: rest)
    else if (List.range 4).any fun i => recChute r c i != 0 then .error c
    else s.checkChutes ctx lv r t seen

/-- A core can grant LVLMAX to a fresh instance, which has 32 registers (R57), under a length limit (R68) (DEDUCED, log 26). -/
def lvlmaxPossible (lv tvl : Nat) : Bool := [1, 2, 4].any fun g => vlmaxOf true g 32 tvl == lv

/-- Launches of a context that have not ended (R404). -/
def State.liveLaunches (s : State) (ctx : Nat) : Nat := (s.launches.filter fun l => l.ctx == ctx && !l.done).length

/-- R405: the checks of a record, in the order of 20 Table 20.4: the control lines of its chutes, or code and place. -/
def State.checkRecord (s : State) (ctx : Nat) (lv : Level) (r : List Byte) : Except (Nat × Nat) (List (List Nat)) :=
  if 256 ≤ s.liveLaunches ctx then .error (1, 0)
  else if !headerOk r then .error (2, 0xFF)
  else
    match (List.range 8).find? fun st => !stageOk r st with
    | some st => .error (3, st)
    | none =>
      match s.checkChutes ctx lv r (List.range 16) [] with
      | .error c => .error (4, 0x10 + c)
      | .ok ls =>
        if wbits (wordAt r 0) 46 1 = 1 ∧ !lvlmaxPossible (wbits (wordAt r 56) 0 17) (s.ctxOf ctx).tvl then .error (5, 0xFF)
        else .ok ls

/-- A refusal of a record that poison in the walk of a control line brings: it is no refusal of the chute (R471). -/
def State.refusedByPoison (s : State) (ctx : Nat) (lv : Level) (r : List Byte) (code place : Nat) : Bool :=
  code == 4 && chuteFieldsOk r (place - 16) && s.linesPoisoned ctx lv (controlAddrs r (place - 16))

/-- The checks of R405, and the control lines settled (R401); a record that is refused gives its code and place. -/
def admitRecord (w : Who) (r : List Byte) : M (Except (Nat × Nat) (List (List Nat))) := do
  let s ← get
  match s.checkRecord w.ctx w.level r with
  | .error (code, place) =>
    if s.refusedByPoison w.ctx w.level r code place then throw .poison
    return .error (code, place)
  | .ok lines =>
    settleRanges w (lines.flatten.map fun n => (64 * n, 64))
    return .ok lines

/-- The launch of an accepted record (R402): its chutes are empty. -/
def State.addLaunch (s : State) (ctx : Nat) (lv : Level) (r : List Byte) (arg : Word) (lines : List (List Nat)) : State :=
  let l : Launch :=
    { serial := s.serial, ctx, level := lv, image := r, arg, prio := wbits (wordAt r 0) 44 2
      next := List.replicate (recStages r) 0, passed := List.replicate (recStages r) 0, exited := List.replicate (recStages r) 0
      chutes := lines.map fun ls => Chute.mk 0 0 ls }
  let s1 := (s.zeroStates (lines.flatten.map fun n => (0, 64 * n, 64))).markVas ctx
    ((List.range lines.length).flatMap (controlAddrs r))
  { s1 with launches := s1.launches ++ [l], serial := (s1.serial + 1) % 2 ^ 48 }

/-! ## Instructions -/

/-- R402. -/
def execLaunch (f : RrF) (s : State) : Res :=
  s.run (encRr 0x93 0 f) do
    let a := s.rg f.a
    if a.toNat % 64 ≠ 0 then raise causeAlign a
    let r ← loadBytes s.me a.toNat 832
    match ← admitRecord s.me r with
    | .error (code, place) => change fun s => s.setG f.d (BitVec.ofNat 64 (code + place * 256))
    | .ok lines =>
      change fun s1 =>
        (s1.addLaunch s1.hart.ctx s1.hart.level r (s1.rg f.b) lines).setG f.d (BitVec.ofNat 64 (2 ^ 63 + s1.serial))
    complete

/-- A stage of the launch has an instance that has not started. -/
def Launch.unstarted (l : Launch) : Bool :=
  (List.range (recStages l.image)).any fun st => decide (l.next.getD st 0 < recNinst l.image st)

/-- An instance of the context waits to be started or resumed. -/
def State.ctxWaits (s : State) (ctx : Nat) : Bool :=
  (s.saved.any fun x => x.ctx == ctx && !x.halted) || s.launches.any fun l => l.ctx == ctx && l.unstarted

/-- R407: only the PC changes; the boundary is a landing point when another instance of the context waits. -/
def execYield (f : RrF) (s : State) : Res :=
  s.run (encRr 0x93 1 f) do
    complete
    change fun s => { s with hart := { s.hart with mayYield := s.ctxWaits s.hart.ctx } }

/-- R406 after its checks: the sequencer is freed, its lanes released, its block freed; the launch counts the exit. -/
def State.leave (s : State) : State :=
  let h := s.hart
  let c := s.ctxOf h.ctx
  let s2 := s.setCtx h.ctx { c with blocks := c.blocks.filter (· ≠ h.blk) }
  let s3 : State :=
    { s2 with
      hart := { h with live := false, loops := [], wmark := none, waiting := false, atPoint := false, mayYield := false
                       preq := false, grace := false, skipBp := false, held := none }
      launches := s2.launches.map fun l =>
        if l.serial == h.inst.serial then
          { l with exited := l.exited.set h.inst.stage (l.exited.getD h.inst.stage 0 + 1) }
        else l }
  s3.releaseLanes h.core h.sq

/-- R406. -/
def execExit (f : RrF) (s : State) : Res :=
  let w := encRr 0x93 2 f
  s.run w do
    let h := s.hart
    if h.handling || !h.slots.isEmpty then raise causeIllegal w
    drainOwn
    change State.leave

/-! ## The end of a launch (R403) -/

/-- The accesses that the Headframe makes for a launch (R519). -/
def Launch.who (l : Launch) : Who := { agent := .launch l.serial, ctx := l.ctx, level := l.level, orig := 1 }

/-- The completion that CMPL names (R403): a transition of kind engine, or an arrival of count 1. -/
def Launch.complete (l : Launch) : M Unit := do
  let w := wordAt l.image 40
  let caddr := wbits (wordAt l.image 48) 0 57
  match wbits w 62 2 with
  | 1 => engineTransition l.who caddr (wbits w 55 4) (wbits w 59 3)
  | 2 =>
    let _ ← linePart l.who caddr 24 true
    let _ ← arriveAt l.who caddr 1 false (wbits w 59 3)
  | _ => pure ()

/-- The launch is gone. -/
def State.dropLaunch (s : State) (serial : Nat) : State :=
  { s with launches := s.launches.filter fun l => l.serial != serial }

/-- The end of a launch whose chute lines are unbound: the completion is performed, parks, or is dropped (R403, R520). -/
def State.finishLaunch (s : State) (l : Launch) : State :=
  match s.attempt l.complete with
  | (.ok _, t) => (t.settle l.who.agent).dropLaunch l.serial
  | (.error (.park key cond va), t) =>
    t.addPark l.ctx { key, cond, agent := l.who.agent, va, page := 0, lim := 0, pkt := [] }
  | (.error .stall, t) => { t with rix := 0 }
  | (.error _, t) => (t.settle l.who.agent).dropLaunch l.serial

/-- The chute control lines of a launch unbound (R403): their states become 0. -/
def State.unbindChutes (s : State) (l : Launch) : State :=
  let s1 := (s.zeroStates (l.chutes.flatMap fun c => c.lines.map fun n => (0, 64 * n, 64))).markVas l.ctx
    ((List.range l.chutes.length).flatMap (controlAddrs l.image))
  s1.setLaunch { l with chutes := [] }

/-- R403: the launch with a serial ends, once every instance has exited. -/
def execLaunchEnd (serial : Nat) (s : State) : Res :=
  match s.launchOf serial with
  | none => .next s
  | some l =>
    if !l.done || s.parks.any fun p => p.agent == l.who.agent then .next s
    else .next ((s.unbindChutes l).finishLaunch { l with chutes := [] })

/-- R409: a launch with an instance to start, or to resume, has waited 2^24 cycles and is raised one priority class. -/
def execLaunchAging (serial : Nat) (s : State) : Res :=
  match s.launchOf serial with
  | none => .next s
  | some l => .next (if l.unstarted || s.saved.any fun x => x.inst.serial == serial && !x.halted then s.setLaunch { l with prio := min (l.prio + 1) 3 } else s)

end Sys2Proof.Machine
end

