-- ==== Sys2Proof/Machine/Headframe.lean ====
section
/-! DEFINITION. What the Headframe does to instances: placing, pre-empting, resuming, lane groups; and the ends of contexts
that the compute checks bring (20 R400, R409, R417 to R425, 22 R436 to R443, 25 R482). A sequencer of the package is named
by q = 4 x core + number. -/
namespace Sys2Proof.Machine

/-! ## Pre-emption -/

/-- Cores of the package (R12). -/
def coreCount : Nat := 256

/-- A number names a sequencer. -/
def isSeq (q : Nat) : Bool := q < 4 * coreCount

/-- The sequencer named q. -/
def State.seqAt (s : State) (q : Nat) : Hart := s.hartAt (q / 4) (q % 4)

/-- A pending pre-emption of the acting sequencer lands when it can. -/
def State.landIfDue (s : State) : State := if s.hart.live && s.landsNow then s.landPreempt else s

/-- R437: the Headframe requests the pre-emption of a sequencer's instance, which lands at once at a landing point. -/
def State.requestPreempt (s : State) (q : Nat) : State :=
  let h := s.seqAt q
  if h.live then s.withFocus (q / 4) (q % 4) fun t => { t with hart := { t.hart with preq := true } }.landIfDue
  else s

/-- R437 point 4: a pending request has waited PREEMPT_GRACE. -/
def execPreemptGraceExpiry (q : Nat) (s : State) : Res :=
  let h := s.seqAt q
  if h.live && h.preq then
    .next (s.withFocus (q / 4) (q % 4) fun t => { t with hart := { t.hart with grace := true } }.landIfDue)
  else .next s

/-! ## Who may run where -/

/-- Instances of a context may run: it exists, and it is not suspended or ended. -/
def State.ctxRuns (s : State) (ctx : Nat) : Bool :=
  let c := s.ctxOf ctx
  c.valid && !c.suspended && !c.ended

/-- A context may use a core: its cluster is in CLMASK (R461), and the core is not marked faulty (R482). -/
def State.mayUse (s : State) (ctx core : Nat) : Bool :=
  bitOf (s.ctxOf ctx).clmask (clusterNo core) && !(s.coreOf core).faulty

/-- A core can give a sequencer a group of this VLMAX, counting it among those that want lanes (R409, R417, R443). -/
def State.canGrant (s : State) (core sq vlmax n tvl : Nat) : Bool :=
  let c := s.coreOf core
  if s.lendepCore core then
    vlmaxOf true c.g n tvl == vlmax && ((c.groupOf sq).isSome || c.groups.any fun o => o.isNone)
  else vlmaxOf true (partFor ((c.want.filter (· ≠ sq)).length + 1)) n tvl == vlmax

/-- LVLMAX of a launch record. -/
def Launch.lvlmax (l : Launch) : Nat := wbits (wordAt l.image 56) 0 17

/-- R409: the place suits a LENDEP launch. -/
def State.lendepFits (s : State) (serial core sq : Nat) : Bool :=
  match s.launchOf serial with
  | some l => !l.lendep || s.canGrant core sq l.lvlmax 32 (s.ctxOf l.ctx).tvl
  | none => true

/-- The lowest free block of a context's save pool (R440). -/
def Ctx.freeBlock (c : Ctx) : Option Nat :=
  (List.range (min c.nsave (c.blocks.length + 1))).find? fun i => !c.blocks.contains i

/-- The stages with instances to start, other than one, that may be passed over at most m times more (R408). -/
def Launch.dueWithin (l : Launch) (stage m : Nat) : List Nat :=
  (List.range (recStages l.image)).filter fun st =>
    st != stage && decide (l.next.getD st 0 < recNinst l.image st ∧ 64 ≤ l.passed.getD st 0 + m)

/-- Another stage must be started first: of the others, no more than m can be started within the m starts that follow this one
(R408). In a state that a run reaches, the stage that may be passed over the fewest times is not kept back. -/
def Launch.overdue (l : Launch) (stage : Nat) : Bool :=
  (List.range 8).any fun m => decide (m < (l.dueWithin stage m).length)

/-- The stage has an instance that can start on the sequencer now. -/
def State.startable (s : State) (l : Launch) (stage core sq : Nat) : Bool :=
  stage < recStages l.image && decide (l.next.getD stage 0 < recNinst l.image stage) && !l.overdue stage
    && s.ctxRuns l.ctx && s.mayUse l.ctx core && (s.ctxOf l.ctx).freeBlock.isSome
    && s.lendepFits l.serial core sq

/-! ## Starting an instance (R57, R400) -/

/-- The instance that starts: its registers by R57 and R400. -/
def State.freshHart (s : State) (l : Launch) (stage core sq blk : Nat) : Hart :=
  let old := s.hartAt core sq
  let i := l.next.getD stage 0
  let wid := wordAt l.image 32 + BitVec.ofNat 64 i
  let stack := wbits (recStage l.image stage 2) 0 57
  let sp := if stack = 0 then 0 else stack + (i + 1) * wbits (recStage l.image stage 3) 0 40
  let g := (((Vector.replicate 32 (0 : Word)).set 1 l.arg).set 2 wid).set 31 (BitVec.ofNat 64 sp)
  let c := s.ctxOf l.ctx
  { Hart.reset core sq with
    live := true, ctx := l.ctx, inst := ⟨l.serial, stage, i⟩, blk, level := c.level
    pc := BitVec.ofNat 64 (wbits (recStage l.image stage 0) 3 54 * 8), g
    rmode := wordAt l.image 16, seed := wordAt l.image 24, wid, wfmt := wordAt l.image 8
    part := (s.coreOf core).g, tvl := c.tvl, vec := old.vec, owner := old.owner }

/-- The launch after the next instance of a stage has started: its other stages with instances to start are passed over (R408). -/
def Launch.started (l : Launch) (stage : Nat) : Launch :=
  { l with
    next := l.next.set stage (l.next.getD stage 0 + 1)
    passed := l.passed.zipIdx.map fun x =>
      if x.2 = stage then 0 else if l.next.getD x.2 0 < recNinst l.image x.2 then x.1 + 1 else x.1 }

/-- The launch has been served: it is the last in turn (R409). -/
def State.serveLaunch (s : State) (serial : Nat) : State :=
  { s with launches := (s.launches.filter fun l => l.serial != serial) ++ s.launches.filter fun l => l.serial == serial }

/-- The sequencer wants lanes, and the Headframe decides for it (R417). -/
def State.wantLanes (s : State) (core sq : Nat) : State :=
  let c := s.coreOf core
  let add (l : List Nat) : List Nat := if l.contains sq then l else l ++ [sq]
  (s.setCore core { c with want := add c.want, waitQ := add c.waitQ }).decidePartition core

/-- A LENDEP instance counts among the wanting sequencers of its core from its placement on (R409). -/
def State.reserveLanes (s : State) (serial core sq : Nat) : State :=
  match s.launchOf serial with
  | some l => if l.lendep && !(s.coreOf core).want.contains sq then s.wantLanes core sq else s
  | none => s

/-- The Headframe starts the next instance of a stage. -/
def State.startInstance (s : State) (l : Launch) (stage core sq blk : Nat) : State :=
  let c := s.ctxOf l.ctx
  let s1 := s.setCtx l.ctx { c with blocks := c.blocks ++ [blk] }
  let s2 := ((s1.setLaunch (l.started stage)).serveLaunch l.serial).clearPlace core sq
  (s2.putHart (s.freshHart l stage core sq blk)).reserveLanes l.serial core sq

/-! ## Resuming an instance (R441 to R443) -/

/-- Bytes of the scalar part of a context block. -/
def scalarSize : Nat := 0x800

/-- R441: the scalar part of a block is refused (DEDUCED, log 45). -/
def scalarRefused (b : List Byte) : Bool :=
  let w := wordAt b
  let word (i : Nat) : Word := wordAt b (0x600 + 8 * i)
  let depth := wbits (w 0) 0 3
  wbits (w 0) 56 8 != 1 || wbits (w 0) 9 47 != 0 || depth == 7 || wbits (w 48) 0 13 != 0 || w 56 != 0
    || wbits (w 16) 48 10 != 0 || wbits (w 16) 8 24 != 0
    || wbits (word 0) 5 19 != 0 || wbits (word 0) 3 1 != 0 || wbits (word 2) 48 16 != 0
    || wbits (word 4) 57 7 != 0 || wbits (word 4) 0 3 != 0
    || (b.drop 0x628).any (· != 0)
    || ((List.range depth).any fun i => loopRefused (ofBytes ((b.drop (0x140 + 32 * i)).take 32)))
    || (List.range 16).any fun i => descRefused (BitVec.ofNat 512 (ofBytes ((b.drop (0x200 + 64 * i)).take 64)))

/-- The sequencer with the registers of a block, and without vector state of its own. -/
def Hart.restored (old : Hart) (b : List Byte) (x : Saved) (tvl : Nat) (wfmt : Word) : Hart :=
  let w := wordAt b
  let word (i : Nat) : Word := wordAt b (0x600 + 8 * i)
  let skip := bitOf (w 0).toNat 6 && bitOf (w 16).toNat 59 && wbits (w 16) 0 8 == causeBrkpt && !bitOf (w 16).toNat 58
  { Hart.reset old.core old.sq with
    live := true, ctx := x.ctx, inst := x.inst, blk := x.blk
    level := if bitOf (w 0).toNat 8 then .supervisor else .program
    pc := w 8 &&& 0xFFFFFFFFFFFFFFF8#64
    cause := if skip then wset (w 16) 59 1 0 else wset (w 16) 63 1 0
    epc := w 24 &&& 0xFFFFFFFFFFFFFFF8#64, tval := w 32, wid := w 40, wfmt
    g := Vector.ofFn fun i : Fin 32 => if i.val = 0 then 0 else wordAt b (0x40 + 8 * i.val)
    loops := (List.range (wbits (w 0) 0 3)).map fun i => Loop.ofBits (ofBytes ((b.drop (0x140 + 32 * i)).take 32))
    cols := Vector.ofFn fun i : Fin 16 => BitVec.ofNat 512 (ofBytes ((b.drop (0x200 + 64 * i.val)).take 64))
    rmode := word 0, seed := word 1, parklim := word 2
    wmark := if word 3 = 0 then none else some (word 3).toNat
    tvec := word 4, cycle := x.cycle, slots := x.slots, vsaved := x.vsaved, tvl, skipBp := skip || x.skipBp
    vec := old.vec, owner := old.owner }

/-- The register count of a switched-out instance's vector state. -/
def State.savedRegs (s : State) (x : Saved) : Nat :=
  match x.lazyAt with
  | some (c, q) => regCount (s.hartAt c q).vec.nreg
  | none =>
    match s.ctxRead x.ctx .supervisor (s.blockAddr x.ctx x.blk + vecOffset) 64 with
    | some h => regCount (hdrNreg h)
    | none => 32

/-- The VLMAX of the group that a switched-out instance is to have, if it held one (R443). -/
def State.wantedVlmax (s : State) (x : Saved) : Option Nat :=
  match x.vsaved with
  | some v => if v = 0 then none else some (min v (s.ctxOf x.ctx).tvl)
  | none => none

/-- The vector save block of a switched-out instance, when its state stands there, is refused (R441, R445) (DEDUCED, log 20). -/
def State.vecRefused (s : State) (x : Saved) : Bool :=
  x.lazyAt.isNone && x.vsaved.isSome && (s.readSaved x.ctx (s.blockAddr x.ctx x.blk + vecOffset) hdrVlmax).isNone

/-- A switched-out instance can resume on a sequencer (R443, R461), or its block is refused there. -/
def State.resumable (s : State) (x : Saved) (core sq : Nat) : Bool :=
  !x.halted && s.ctxRuns x.ctx && s.mayUse x.ctx core
    && (s.vecRefused x || match s.wantedVlmax x with
        | some v => s.canGrant core sq v (s.savedRegs x) (s.ctxOf x.ctx).tvl
        | none => s.lendepFits x.inst.serial core sq)

/-- The launch has an instance that could start or resume on the sequencer. -/
def State.serves (s : State) (l : Launch) (core sq : Nat) : Bool :=
  (List.range (recStages l.image)).any (fun st => s.startable l st core sq)
    || s.saved.any fun x => x.inst.serial == l.serial && s.resumable x core sq

/-- A launch of a higher class, or one of the same class that was served longer ago, has an instance for the sequencer; one that
is switched out waits among the others (R409, R425). -/
def State.outranked (s : State) (serial core sq : Nat) : Bool :=
  match s.launchOf serial with
  | none => false
  | some l =>
    (s.launches.any fun x => decide (l.prio < x.prio) && s.serves x core sq)
      || (s.launches.takeWhile fun x => x.serial != serial).any fun x => x.prio == l.prio && s.serves x core sq

/-- R400, R409: the next instance of a stage starts on a free sequencer (DESIGN CHOICE, log 44). -/
def execInstanceStart (serial stage q : Nat) (s : State) : Res :=
  match s.launchOf serial with
  | none => .next s
  | some l =>
    if !isSeq q || (s.seqAt q).live || !s.startable l stage (q / 4) (q % 4) || s.outranked serial (q / 4) (q % 4) then
      .next s
    else
      match (s.ctxOf l.ctx).freeBlock with
      | none => .next s
      | some blk => .next (s.startInstance l stage (q / 4) (q % 4) blk)

/-- WFMT of an instance: its launch record's. -/
def State.wfmtOf (s : State) (serial : Nat) : Word :=
  match s.launchOf serial with
  | some l => wordAt l.image 8
  | none => 0

/-- Every stale vector state of a core but one sequencer's is saved (R442). -/
def State.saveLazyOthers (s : State) (core sq : Nat) : State :=
  ((List.range 4).filter (· ≠ sq)).foldl (fun s q => s.saveLazy core q) s

/-- The state of a place still holds an instance's own vector state, with the VLMAX that it is to have. -/
def State.keepsVec (s : State) (x : Saved) (core sq : Nat) : Bool :=
  x.lazyAt == some (core, sq) && (s.hartAt core sq).owner == some (x.ctx, x.inst)
    && (s.hartAt core sq).vec.vlmax == (s.wantedVlmax x).getD (s.hartAt core sq).vec.vlmax

/-- The instance leaves the list of those switched out. -/
def State.unsave (s : State) (x : Saved) : State :=
  { s with saved := s.saved.filter fun y => !(y.ctx == x.ctx && y.inst == x.inst) }

/-- R441: a refused block ends its context with CODE = 13; the block holds that cause, with EPC its PC (R436). -/
def State.refuseBlock (s : State) (x : Saved) : State :=
  let a := s.blockAddr x.ctx x.blk
  let pc := (s.ctxRead x.ctx .supervisor (a + 8) 8).getD []
  let s0 := s.ctxSeen x.ctx .supervisor (a + 8) 8
  let s1 := (s0.ctxWrite x.ctx .supervisor (a + 16) (wordBytes [imprecise causeMcheck] ++ pc ++ wordBytes [0])).getD s0
  s1.endContext x.ctx (imprecise causeMcheck) 0 none

/-- The instance is placed with the registers of its block, unless R441 refuses it. With a group comes GCAP: the least of
PCAP and VLMAX, which its own register count gives (R55, R443). -/
def State.place (s : State) (x : Saved) (core sq : Nat) (grant : Option Nat) : State :=
  let a := s.blockAddr x.ctx x.blk
  let fail := s.refuseBlock x
  if s.ctxPoisoned x.ctx .supervisor a scalarSize then fail
  else
    match s.ctxRead x.ctx .supervisor a scalarSize with
    | none => fail
    | some b =>
      if scalarRefused b then fail
      else
        let h := (s.hartAt core sq).restored b x (s.ctxOf x.ctx).tvl (s.wfmtOf x.inst.serial)
        let h := { h with part := (s.coreOf core).g }
        let s0 := s.ctxSeen x.ctx .supervisor a scalarSize
        let s1 := (s0.unsave x).putHart { h with lpart := lpartView s h }
        match grant with
        | some n =>
          (s1.ctxSeen x.ctx .supervisor (a + vecOffset) 64).withFocus core sq fun t =>
            let t1 := t.applyPartition
            let vlmax := vlmaxOf true t1.hart.part n t1.hart.tvl
            { t1 with hart := { t1.hart with gcap := min vlmax (t1.coreOf core).pcap } }
        | none => s1.reserveLanes x.inst.serial core sq

/-- A switch-in of the instance asks for lanes at a place, and nowhere else; no other one asks there (R417). -/
def State.askAt (s : State) (x : Saved) (core sq : Nat) : State :=
  if x.asked == some (core, sq) then s else (s.giveUp x).clearPlace core sq

/-- The request of a switch-in that cannot be served yet. -/
def State.putAsked (s : State) (x : Saved) (core sq : Nat) : State :=
  { s with saved := s.saved.map fun y =>
      if y.ctx == x.ctx && y.inst == x.inst then { y with asked := some (core, sq) } else y }

/-- R442, R443: stale state that must be saved is saved, the group is granted, the instance is placed. While a holder has
not applied the partition, only the request stands (DEDUCED, log 46). -/
def State.switchIn (s : State) (x : Saved) (core sq : Nat) : State :=
  let keep := s.keepsVec x core sq
  let n := s.savedRegs x
  let s := s.askAt x core sq
  if (s.wantedVlmax x).isSome then
    let s1 := s.wantLanes core sq
    if s1.grantable core sq then
      let s2 := if keep then s1.saveLazyOthers core sq else s1.saveLazyCore core
      let s3 := match x.lazyAt with
        | some (c, q) => if keep then s2 else s2.saveLazy c q
        | none => s2
      if s3.saved.any (fun y => y.ctx == x.ctx && y.inst == x.inst) then s3.place x core sq (some n) else s3
    else s1.putAsked x core sq
  else
    let s1 := match x.lazyAt with
      | some (c, q) => if keep then s else s.saveLazy c q
      | none => s
    if s1.saved.any (fun y => y.ctx == x.ctx && y.inst == x.inst) then s1.place x core sq none else s1

/-- R443: the switched-out instance number n resumes on a free sequencer; its launch has been served when it is placed (R409). -/
def execSwitchIn (n q : Nat) (s : State) : Res :=
  match s.saved[n]? with
  | none => .next s
  | some x =>
    if !isSeq q || (s.seqAt q).live || !s.resumable x (q / 4) (q % 4) || s.outranked x.inst.serial (q / 4) (q % 4) then .next s
    else if s.vecRefused x then
      .next ((s.ctxSeen x.ctx .supervisor (s.blockAddr x.ctx x.blk + vecOffset) 64).refuseBlock x)
    else
      let t := s.switchIn x (q / 4) (q % 4)
      .next (if (t.seqAt q).live then t.serveLaunch x.inst.serial else t)

/-- No sequencer that a context may use is free (R425). -/
def State.noneFree (s : State) (ctx : Nat) : Bool :=
  (List.range (4 * coreCount)).all fun q => (s.seqAt q).live || !s.mayUse ctx (q / 4)

/-- R425: an instance of at least this class waits to be started or resumed, with no sequencer free for it. -/
def State.waitsAt (s : State) (prio : Nat) : Bool :=
  (s.saved.any fun x => !x.halted && s.ctxRuns x.ctx && decide (prio ≤ s.prioOf x.inst.serial) && s.noneFree x.ctx)
    || s.launches.any fun l => l.unstarted && s.ctxRuns l.ctx && decide (prio ≤ l.prio) && s.noneFree l.ctx

/-- The instance of a sequencer may be switched out before its quantum (R425): it is parked, it waits, or it has executed `yield`. -/
def State.givesWay (s : State) (h : Hart) : Bool :=
  h.waiting || h.mayYield || s.parks.any fun p => p.agent == .seq h.core h.sq

/-- It waits for lanes on a core that a LENDEP instance keeps from a repartition, with no group decided for it, so that it may be
placed elsewhere (R409) (DEDUCED, log 44). -/
def State.waitsForLendep (s : State) (h : Hart) : Bool :=
  h.waiting && h.group.isNone && (s.coreOf h.core).waitQ.contains h.sq && ((s.coreOf h.core).groupOf h.sq).isNone
    && s.lendepCore h.core

/-- R425, R437, R438: PREEMPT of a sequencer. -/
def execPreempt (q : Nat) (s : State) : Res :=
  let h := s.seqAt q
  .next (if isSeq q && h.live && ((s.givesWay h && s.waitsAt 0) || s.waitsForLendep h) then s.requestPreempt q else s)

/-- R425: the instance of a sequencer has run for a full quantum while another of equal or higher class waits (DESIGN CHOICE, log 13). -/
def execQuantumExpiry (q : Nat) (s : State) : Res :=
  let h := s.seqAt q
  .next (if h.live && s.waitsAt (s.prioOf h.inst.serial) then s.requestPreempt q else s)

/-! ## Lane groups -/

/-- R417: the Headframe decides the partition of a core for the sequencers that want lanes. -/
def execLaneRepartition (core : Nat) (s : State) : Res :=
  .next (if core < coreCount then s.decidePartition core else s)

/-- R418: a sequencer that waits in `setvl` is granted its group of the partition in force, which the saves before it do not change
for it (R427). -/
def execLaneGrant (q : Nat) (s : State) : Res :=
  let h := s.seqAt q
  let c := s.coreOf (q / 4)
  if h.live && h.waiting && h.group.isNone && c.waitQ.contains (q % 4) && s.grantable (q / 4) (q % 4) then
    let s1 := s.saveLazyCore (q / 4)
    if (s1.seqAt q).live then .next (s1.withFocus (q / 4) (q % 4) fun t => t.applyDecided c) else .next s1
  else .next s

/-- R419: a holder has left a repartition unapplied for 65,536 core cycles. -/
def execRepartitionTimeout (q : Nat) (s : State) : Res :=
  let h := s.seqAt q
  .next (if h.live && h.pend then s.requestPreempt q else s)

/-- R420: the power controller doubles or halves a core's cap, a power of two from 512 to 65,536. -/
def execPcapAdjust (core : Nat) (up : Bool) (s : State) : Res :=
  let c := s.coreOf core
  .next (if core < coreCount then
    s.setCore core { c with pcap := if up then min (2 * c.pcap) 65536 else max (c.pcap / 2) 512 }
  else s)

/-! ## Contexts that end -/

/-- R436: an imprecise POISON or MCHECK of the acting sequencer's context; TVAL is the consuming instruction's address,
or 0. -/
def execContextEnd (mcheck : Bool) (s : State) : Res :=
  .next (if s.hart.live then
    (if mcheck then s.fatalHere causeMcheck 0 else s.fatalHere causePoison s.hart.pc)
  else s)

/-- The record of a checking-lane mismatch (R482, 25 Tables 25.4 to 25.6). -/
def State.laneRecord (s : State) (ctx core nsym : Nat) (pois : Bool) (owner : Nat) : ErrRec :=
  { ctx, pois, swap := false, spare := false, owner, orig := 0, unit := core % 64, subu := (s.coreOf core).lane, nsym, line := 0 }

/-- R482: the acting sequencer's vector instruction mismatched n times: one or two reissues and a match, or a third
mismatch. -/
def execCheckLaneMismatch (n : Nat) (s : State) : Res :=
  let h := s.hart
  let die := dieOf h.core
  let owner := s.tenant
  if !h.live || n = 0 then .next s
  else if n ≤ 2 then .next (s.logError die bankLane true (s.laneRecord h.ctx h.core n false owner))
  else
    let s1 := s.fatalHere causeMcheck h.pc
    let s2 := s1.logError die bankLane false (s1.laneRecord h.ctx h.core 2 true owner)
    let s3 := s2.setCore h.core { s2.coreOf h.core with faulty := true }
    .next ((List.range 4).foldl (fun t q => t.requestPreempt (4 * h.core + q)) s3)

end Sys2Proof.Machine
end

