-- ==== Sys2Proof/Machine/Tenant.lean ====
section
/-! DEFINITION. Context requests as trusted firmware performs them, and the wipe of what a context leaves (24 R459 to
R465). -/
namespace Sys2Proof.Machine

/-! ## Creating and changing a context -/

/-- The tenant owns an existing context (R459). -/
def State.owns (s : State) (fn ctx : Nat) : Bool := ctx < 4096 && (s.ctxOf ctx).valid && (s.ctxOf ctx).tenant == fn

/-- Bounds of an isolation entry (24 Table 24.2, R461); V and TENANT are the firmware's. -/
def entryOk (w : List Word) : Bool :=
  let x (i : Nat) : Word := w.getD i 0
  let log := wbits (x 0) 48 5
  let root := wbits (x 1) 15 37 * 2 ^ 15
  wbits (x 0) 53 4 == 0 && wbits (x 0) 0 48 == 0 && 9 ≤ log && log ≤ 16
    && wbits (x 1) 52 12 == 0 && wbits (x 1) 0 15 == 0
    && (match homeOf root with
        | .dram _ | .sram _ => true
        | _ => false)
    && wbits (x 2) 57 7 == 0 && wbits (x 2) 0 6 == 0
    && wbits (x 3) 32 32 == 0 && wbits (x 3) 0 32 != 0
    && wbits (x 4) 32 32 == 0 && wbits (x 4) 0 32 != 0

/-- The new context: slots, bindings, transducer slots and breakpoints start empty (24 Table 24.3). -/
def newCtx (fn : Nat) (w : List Word) : Ctx :=
  { Ctx.none with
    w0 := wset (wset (w.getD 0 0) 57 5 fn) 63 1 1, w1 := w.getD 1 0, w2 := w.getD 2 0, w3 := w.getD 3 0, w4 := w.getD 4 0 }

/-- The save pool is mapped with U = 0, R and W (R461). -/
def State.poolMapped (s : State) (ctx : Nat) : Bool :=
  let c := s.ctxOf ctx
  let n := c.nsave * blockSize
  match s.rangePages ctx (n / 16384 + 2) c.save n with
  | .error _ => false
  | .ok ps => ps.all fun p => !leafU p.2.1.val && leafR p.2.1.val && leafW p.2.1.val

/-- CREATE (R461, R463): none when it is refused. -/
def State.create (s : State) (fn ctx : Nat) (w : List Word) : Option State :=
  if 4096 ≤ ctx ∨ (s.ctxOf ctx).valid ∨ s.mgmt.life = 0 ∨ !entryOk w then none
  else
    let s1 := s.setCtx ctx (newCtx fn w)
    if s1.poolMapped ctx then some s1 else none

/-- SETTVL. -/
def State.setTvl (s : State) (fn ctx : Nat) (w : Word) : Option State :=
  if s.owns fn ctx && wbits w 5 59 == 0 && 9 ≤ wbits w 0 5 && wbits w 0 5 ≤ 16 then
    let c := s.ctxOf ctx
    some (s.setCtx ctx { c with w0 := wset c.w0 48 5 (wbits w 0 5) })
  else none

/-- SETBP (R446): reserved bits of BPn read 0. -/
def State.setBp (s : State) (fn ctx : Nat) (n v : Word) : Option State :=
  if s.owns fn ctx && n.toNat < 16 then
    let c := s.ctxOf ctx
    some (s.setCtx ctx { c with bps := Table.put 0 n.toNat (v &&& 0xC1FFFFFFFFFFFFF8#64) c.bps })
  else none

/-! ## SUSPEND and RESUME -/

/-- Sequencers that run an instance of a context, as q. -/
def State.seqsOf (s : State) (ctx : Nat) : List Nat :=
  (s.harts.filter fun h => h.live && h.ctx == ctx).map fun h => 4 * h.core + h.sq

/-- RUNNING tasks of a context with a spill area are asked to stop at their next interruption point. -/
def State.interruptTasks (s : State) (ctx : Nat) : State :=
  let l := s.tasks.filter fun t => t.ctx == ctx && t.state == .running && tkSpill t.image != 0
  l.foldl (fun t x =>
    match t.taskOf x.h with
    | some y => (t.setTask { y with suspendReq := true }).settleTask y.h
    | none => t) s

/-- An enabled queue launches into a context. -/
def HostQ.isFor (q : HostQ) (ctx : Nat) : Bool := bitOf q.qctl.toNat 63 && wbits q.qctl 16 12 == ctx

/-- The state with every host queue changed, by its function and number. -/
def State.mapQueues (s : State) (g : Nat → Nat → HostQ → HostQ) : State :=
  let all (f : Nat × Func) : Nat × Func := (f.1, { f.2 with queues := f.2.queues.map fun q => (q.1, g f.1 q.1 q.2) })
  { s with funcs := s.funcs.map all }

/-- An entry of the queue is in hand: its accesses wait, or its STATUS is owed (R505). -/
def State.inHand (s : State) (fn q : Nat) (x : HostQ) : Bool :=
  x.owed.isSome || (s.remotes.any fun r => r.agent == .queue fn q) || s.flights.any fun f => f.agent == .queue fn q

/-- Host queues of a context are switched out, each once the entry in hand is finished (R506). -/
def State.parkQueues (s : State) (ctx : Nat) : State :=
  s.mapQueues fun fn q x =>
    if x.isFor ctx && !x.out then (if s.inHand fn q x then { x with leaving := true } else { x with out := true }) else x

/-- SUSPEND begins: every instance is pre-empted, switch-ins ask for lanes no more, tasks are asked, queues go out. -/
def State.beginSuspend (s : State) (ctx : Nat) : State :=
  let s1 := s.setCtx ctx { s.ctxOf ctx with suspended := true }
  let s2 := (s1.seqsOf ctx).foldl State.requestPreempt s1
  let s2 := (s2.saved.filter fun x => x.ctx == ctx).foldl State.giveUp s2
  (s2.interruptTasks ctx).parkQueues ctx

/-- RESUME: suspended and halted instances may be placed again. An interruption that has begun goes on. -/
def State.resumeCtx (s : State) (ctx : Nat) : State :=
  let s1 := s.setCtx ctx { s.ctxOf ctx with suspended := false }
  { s1 with
    saved := s1.saved.map fun x => if x.ctx == ctx then { x with halted := false } else x
    tasks := s1.tasks.map fun t => if t.ctx == ctx then { t with suspendReq := t.suspendReq && t.stopping } else t }

/-! ## TEARDOWN (R464) -/

/-- Zeroes some physical bytes, on both frames of a page under migration, and the poison of the lines they cover; the lines'
codewords are new (R473). -/
def State.zeroPhys (s : State) (pa n : Nat) : State :=
  let inside (lo x : Nat) : Bool := decide (lo ≤ x ∧ x < lo + n)
  let pa2 := match s.migs.find? fun m => decide (m.old ≤ pa ∧ pa < m.old + m.size) with
    | some m => m.new + (pa - m.old)
    | none => pa
  let s1 := { s with mem := s.mem.filter fun c => !(inside pa c.1 || inside pa2 c.1) }
  let s2 := (wholeLines pa n ++ wholeLines pa2 n).foldl (fun t l => if (t.metaOf l).pois then t.setPois l false else t) s1
  (linesOf pa n ++ linesOf pa2 n).foldl State.freshCode s2

/-- Zeroes what a range of a context maps with W, page by page; fuel bounds the pages. -/
def State.zeroRange (s : State) (ctx : Nat) : Nat → Nat → Nat → State
  | 0, _, _ => s
  | fuel + 1, va, n =>
    if n = 0 then s
    else
      let k := min n (16384 - va % 16384)
      let s1 := match s.walk ctx va with
        | some l => if leafW l.val then s.zeroPhys (l.base + va % l.size) k else s
        | none => s
      s1.zeroRange ctx fuel (va + k) (n - k)

/-- Vector storage that holds a context's state is zeroed (R464 step 4). -/
def State.zeroStorage (s : State) (ctx : Nat) : State :=
  let f (h : Hart) : Hart :=
    match h.owner with
    | some (c, _) => if c = ctx then { h with vec := { Vec.reset with vlmax := h.vec.vlmax }, owner := none } else h
    | none => h
  { s with hart := f s.hart, rest := s.rest.map f }

/-- A sequencer freed with its state discarded; its storage keeps what belongs to others. -/
def Hart.discarded (h : Hart) : Hart := { Hart.reset h.core h.sq with vec := h.vec, owner := h.owner, cycle := h.cycle }

/-- R464 steps 1 and 2: instances end at once and are discarded, tasks and commands are cancelled. -/
def State.endInstances (s : State) (ctx : Nat) : State :=
  let s1 := s.drainCtx ctx
  let s2 := (s1.saved.filter fun x => x.ctx == ctx).foldl State.giveUp (s1.cancelAll ctx)
  let live := s2.harts.filter fun h => h.live && h.ctx == ctx
  let s3 := live.foldl (fun t h =>
    ((t.dropSeq h.core h.sq).putHart (h.discarded)).releaseLanes h.core h.sq) s2
  { s3 with saved := s3.saved.filter fun x => x.ctx != ctx }

/-- R464 step 3: launches end without completion, staged lines and chute lines are unbound with state 0. -/
def State.unbindAll (s : State) (ctx : Nat) : State :=
  let mine := s.launches.filter fun l => l.ctx == ctx
  let xs := ((s.ctxOf ctx).binds.flatMap fun b => b.extents)
    ++ mine.flatMap fun l => l.chutes.flatMap fun c => c.lines.map fun n => (0, 64 * n, 64)
  let s1 := s.zeroStates xs
  let s2 := s1.setCtx ctx { s1.ctxOf ctx with binds := [] }
  { s2 with launches := s2.launches.filter fun l => l.ctx != ctx }

/-- R507, R225: queue entries not consumed, the one in hand among them, are dropped with EN, and the context's ended tasks are forgotten. -/
def State.forget (s : State) (ctx : Nat) : State :=
  let s1 := s.mapQueues fun _ _ q =>
    if q.isFor ctx then
      { q with qctl := wset q.qctl 63 1 0, head := q.tail, out := false, tvalid := false, owed := none, leaving := false }
    else q
  { s1 with
    clusters := s.clusters.map fun c => (c.1, { c.2 with log := c.2.log.filter fun x => x.1 != ctx }) }

/-- R464: TEARDOWN of a context, in its order; its number is free afterwards. -/
def State.teardown (s : State) (ctx : Nat) : State :=
  let c := s.ctxOf ctx
  let n := c.nsave * blockSize
  let s1 := ((s.endInstances ctx).unbindAll ctx).zeroStorage ctx
  ((s1.zeroRange ctx (n / 16384 + 2) c.save n).forget ctx).setCtx ctx Ctx.none

end Sys2Proof.Machine
end

