-- ==== Sys2Proof/Machine/Host.lean ====
section
/-! DEFINITION. The host port: registers of a function, the mailbox, host queues and older launch records, requests to
device memory, the peer aperture (26 R503 to R508, 28 R513). -/
namespace Sys2Proof.Machine

/-! ## THERM -/

/-- THERM as it reads (28 Table 28.1). -/
def State.therm (s : State) : Word :=
  let m := s.mgmt
  BitVec.ofNat 64 (bit m.trip * 2 ^ 63 + m.limit % 128 * 2 ^ 48 + m.tthr % 256 * 2 ^ 40 + m.tio % 256 * 2 ^ 32
    + m.temps.getD 3 0 % 256 * 2 ^ 24 + m.temps.getD 2 0 % 256 * 2 ^ 16 + m.temps.getD 1 0 % 256 * 2 ^ 8
    + m.temps.getD 0 0 % 256)

/-- The readings that the spec leaves open, taken anew: whether a new averaging window has begun, which meets the limit as it
stands (R513); the I/O-die temperature; the average power, at or below the limit that the window is held to (R23). -/
def State.sense (s : State) : State :=
  let x := s.freeWord.toNat
  let held := if x % 2 = 1 then s.mgmt.limit else s.mgmt.held
  { s.nextTick with mgmt := { s.mgmt with
      tio := x / 2 % 256, held, power := BitVec.ofNat 64 (x / 512 % (25 * held + 1)) } }

/-- A core's cap one step down (DESIGN CHOICE, log 58). -/
def State.halvePcap (s : State) (core : Nat) : State :=
  let c := s.coreOf core
  s.setCore core { c with pcap := max (c.pcap / 2) 512 }

/-- Cores among some that the power controller chooses (R420: a policy). -/
def State.someCores (s : State) (l : List Nat) : List Nat := l.filter fun c => Config.freeBool (s.tick + c)

/-- Cores above the lowest cap of which the policy chooses, at least one where there is one. -/
def State.capped (s : State) : List Nat :=
  let l := (List.range coreCount).filter fun c => 512 < (s.coreOf c).pcap
  let chosen := s.someCores l
  if chosen.isEmpty then l.take 1 else chosen

/-- R513: a write of THERM. A lower limit lowers PCAP at once, of cores that the policy chooses; the window under way is held to
the higher limit. -/
def State.writeTherm (s : State) (v : Word) : State :=
  let limit := wbits v 48 7
  let tthr := wbits v 40 8
  if limit < 72 ∨ 120 < limit ∨ tthr < 80 ∨ 100 < tthr then s
  else
    let s1 := { s with mgmt := { s.mgmt with limit, tthr, held := max s.mgmt.held limit } }
    if limit < s.mgmt.limit then { s.capped.foldl State.halvePcap s1 with tick := s.tick + coreCount }
    else s1

/-! ## Mailbox (R504) -/

/-- The codes of mailbox requests (DEDUCED, log 55). -/
def knownCode (c : Nat) : Bool := 1 ≤ c && c ≤ 11

/-- The pending request of a function. -/
def Func.req (f : Func) (i : Nat) : Word := f.mbreq.getD i 0

/-- Free words, for what a message does not state. -/
def State.freeWords (s : State) (n : Nat) : List Word := (List.range n).map fun i => Config.freeWord (s.tick + i)

/-- Trusted firmware answers the pending request: MBRSP, BUSY, DONE, MSI-X vector 0. -/
def State.answer (s : State) (fn : Nat) (ok : Bool) (ws : List Word) : State :=
  let f := s.funcOf fn
  let w0 := BitVec.ofNat 64 (wbits (f.req 0) 56 8 * 2 ^ 56 + bit (!ok))
  let rest := ws ++ (s.freeWords 7).drop ws.length
  let s1 := s.setFunc fn { f with mbrsp := w0 :: rest, busy := false, done := true }
  { s1.emit (.msix fn 0) with tick := s.tick + 7 }

/-- A function's pending request with a code is performed: `act` is given its context number and words 1 to 7, and answers
the state after with what MBRSP returns, or none for REFUSED. -/
def State.onRequestCode (s : State) (fn code : Nat) (act : Nat → List Word → Option (State × List Word)) : State :=
  let f := s.funcOf fn
  let w0 := f.req 0
  if 32 ≤ fn ∨ !f.busy ∨ wbits w0 56 8 ≠ code then s
  else if wbits w0 44 12 ≠ 0 ∨ wbits w0 0 32 ≠ 0 then s.answer fn false []
  else
    match act (wbits w0 32 12) (f.mbreq.drop 1) with
    | some (t, ws) => t.answer fn true ws
    | none => s.answer fn false []

/-- R463: CREATE. -/
def execCreateReq (fn : Nat) (s : State) : Res :=
  .next (s.onRequestCode fn 1 fun ctx w => (s.create fn ctx (w.take 5)).map fun t => (t, []))

/-- R463: SETTVL. -/
def execSettvl (fn : Nat) (s : State) : Res :=
  .next (s.onRequestCode fn 2 fun ctx w => (s.setTvl fn ctx (w.getD 0 0)).map fun t => (t, []))

/-- R463, R465: SUSPEND is refused for a context that has ended; it is DONE when no instance is left on a sequencer. -/
def execSuspend (fn : Nat) (s : State) : Res :=
  let f := s.funcOf fn
  let ctx := wbits (f.req 0) 32 12
  if fn < 32 ∧ f.busy ∧ wbits (f.req 0) 56 8 = 3 ∧ s.owns fn ctx ∧ !(s.ctxOf ctx).ended
      ∧ wbits (f.req 0) 44 12 = 0 ∧ wbits (f.req 0) 0 32 = 0 then
    let t := s.beginSuspend ctx
    .next (if (t.ctxOf ctx).ended then t.answer fn false []
      else if (t.seqsOf ctx).isEmpty then t.answer fn true [] else t)
  else .next (s.onRequestCode fn 3 fun _ _ => none)

/-- R463: RESUME. -/
def execResume (fn : Nat) (s : State) : Res :=
  .next (s.onRequestCode fn 4 fun ctx _ => if s.owns fn ctx then some (s.resumeCtx ctx, []) else none)

/-- R446: SETBP. -/
def execSetbp (fn : Nat) (s : State) : Res :=
  .next (s.onRequestCode fn 5 fun ctx w => (s.setBp fn ctx (w.getD 0 0) (w.getD 1 0)).map fun t => (t, []))

/-- R464: TEARDOWN. -/
def execTeardown (fn : Nat) (s : State) : Res :=
  .next (s.onRequestCode fn 6 fun ctx _ => if s.owns fn ctx then some (s.teardown ctx, []) else none)

/-- The bytes of an attestation report (R468), in the order in which the rule lists its contents, signed with both algorithms; the
SR-IOV settings are a free word. -/
def State.report (s : State) (fn : Nat) (nonce : List Word) : List Byte :=
  let signed := wordBytes nonce ++ wordBytes [s.caps0, BitVec.ofNat 64 s.mgmt.life]
    ++ s.mgmt.meas.flatMap digestBytes ++ wordBytes [BitVec.ofNat 64 fn, s.freeWord]
  signed ++ s.mgmt.keys.zipIdx.flatMap fun k => Config.sign k.2 k.1 signed

/-- R468: ATTEST writes the report to host memory. -/
def execAttest (fn : Nat) (s : State) : Res :=
  .next (s.onRequestCode fn 7 fun _ w =>
    let a := (w.getD 4 0).toNat
    let bs := s.report fn (w.take 4)
    some ((((s.nextTick).writePhys (hostBase + a) bs).emit (.hostWrite a bs)), []))

/-- R495: a window entry as WINMAP may write it: TENANT is the firmware's. -/
def State.winmap (s : State) (fn : Nat) (w : List Word) : Option State :=
  let n := (w.getD 0 0).toNat
  let e0 := wset (w.getD 1 0) 58 5 fn
  let e1 := w.getD 2 0
  let old := (s.winOf n).1
  let pages := wbits e0 0 30
  if 256 ≤ n ∨ (bitOf old.toNat 63 ∧ wbits old 58 5 ≠ fn) ∨ wbits e0 30 18 ≠ 0 ∨ wbits e1 57 7 ≠ 0
      ∨ wbits e1 0 14 ≠ 0 ∨ (bitOf e0.toNat 63 ∧ (pages = 0 ∨ 2 ^ 29 < pages)) then none
  else some { s with fabric := { s.fabric with wins := Table.put (0, 0) n (e0, e1) s.fabric.wins } }

/-- R495: WINMAP. -/
def execWinmap (fn : Nat) (s : State) : Res :=
  .next (s.onRequestCode fn 8 fun _ w => (s.winmap fn w).map fun t => (t, []))

/-- R496: an export entry is written for the tenant that owns DCTX. -/
def State.writeExport (s : State) (fn : Nat) (w : List Word) : Option State :=
  let n := (w.getD 0 0).toNat
  let e := w.getD 1 0
  let old := Table.get 0 n s.fabric.exports
  let mine (x : Word) : Bool := s.owns fn (wbits x 33 12)
  if 256 ≤ n ∨ wbits e 0 33 ≠ 0 ∨ !mine e ∨ (bitOf old.toNat 63 ∧ !mine old) then none
  else some { s with fabric := { s.fabric with exports := Table.put 0 n e s.fabric.exports } }

/-- R496: EXPORT. -/
def execExportReq (fn : Nat) (s : State) : Res :=
  .next (s.onRequestCode fn 9 fun _ w => (s.writeExport fn w).map fun t => (t, []))

/-- R504, R513: PWRSET, of the physical function only. -/
def execPwrset (fn : Nat) (s : State) : Res :=
  .next (s.onRequestCode fn 10 fun ctx w =>
    if fn = 0 ∧ ctx = 0 then
      let t := (s.writeTherm (w.getD 0 0)).sense
      some (t, [t.therm])
    else none)

/-- R504: PWRGET. -/
def execPwrget (fn : Nat) (s : State) : Res :=
  .next (s.onRequestCode fn 11 fun ctx _ =>
    if ctx = 0 then
      let t := s.sense
      some (t, [t.therm, t.mgmt.power])
    else none)

/-- A write to MBDB: a 1 sets BUSY, unless it is set; a code that R504 does not list is refused, and so is any request while a
reset or a wipe is under way (R469). -/
def State.ringMailbox (s : State) (fn : Nat) (v : Word) : State :=
  let f := s.funcOf fn
  if bitOf v.toNat 0 && !f.busy then
    let s1 := s.setFunc fn { f with busy := true }
    if knownCode (wbits (f.req 0) 56 8) && s.mgmt.boot == .ready then s1 else s1.answer fn false []
  else s

/-- A write to MBSTAT: DONE is W1C. -/
def State.writeMbstat (s : State) (fn : Nat) (v : Word) : State :=
  let f := s.funcOf fn
  if bitOf v.toNat 1 then s.setFunc fn { f with done := false } else s

/-- A write of a word of MBREQ. -/
def State.writeMbreq (s : State) (fn i : Nat) (v : Word) : State :=
  let f := s.funcOf fn
  s.setFunc fn { f with mbreq := f.mbreq.set i v }

/-! ## Host queues (R505, R506) -/

/-- A queue of a function. -/
def State.queueOf (s : State) (fn q : Nat) : HostQ := Table.get HostQ.reset q (s.funcOf fn).queues

/-- The state with a queue replaced. -/
def State.setQueue (s : State) (fn q : Nat) (x : HostQ) : State :=
  let f := s.funcOf fn
  s.setFunc fn { f with queues := Table.put HostQ.reset q x f.queues }

/-- EN of QCTL. -/
def HostQ.en (q : HostQ) : Bool := bitOf q.qctl.toNat 63
/-- CTX. -/
def HostQ.ctx (q : HostQ) : Nat := wbits q.qctl 16 12
/-- Entries of the ring. -/
def HostQ.entries (q : HostQ) : Nat := 2 ^ wbits q.qctl 0 5

/-- Queues of the package that are switched in. -/
def State.queuesIn (s : State) : Nat :=
  (s.funcs.map fun f => (f.2.queues.filter fun q => q.2.en && !q.2.out).length).foldl (· + ·) 0

/-- The queue has just been at work: it is the one idle shortest (R506). -/
def State.useQueue (s : State) (fn q : Nat) : State :=
  { s with queueUse := (s.queueUse.filter fun x => x != (fn, q)) ++ [(fn, q)] }

/-- A queue is enabled and switched in. -/
def HostQ.isIn (q : HostQ) : Bool := q.en && !q.out

/-- The queue that the Headframe evicts: of those that are in, the one idle longest (R506). -/
def State.idlest (s : State) : Option (Nat × Nat) := s.queueUse.find? fun x => (s.queueOf x.1 x.2).isIn

/-- R505: QCTL; a write that may not set EN leaves EN = 0. A queue enabled beyond the 128 that are kept starts out. -/
def State.writeQctl (s : State) (fn q : Nat) (v : Word) : State :=
  let x := s.queueOf fn q
  let v := v &&& 0x800000000FFF001F#64
  let lsz := wbits v 0 5
  let ok := bitOf v.toNat 63 && s.owns fn (wbits v 16 12) && 4 ≤ lsz && lsz ≤ 16
  if ok then
    let out := x.out || (!x.en && (128 ≤ s.queuesIn || (s.ctxOf (wbits v 16 12)).suspended))
    (s.setQueue fn q { x with qctl := v, out }).useQueue fn q
  else s.setQueue fn q { x with qctl := wset v 63 1 0 }

/-- R505. -/
def execQctlWrite (fn q : Nat) (v : Word) (s : State) : Res :=
  .next (if fn < 32 ∧ q < 32 then s.writeQctl fn q v else s)

/-- R505, R506: TAIL, or PTAIL while the queue is out. -/
def State.writeTail (s : State) (fn q : Nat) (v : Word) : State :=
  let x := s.queueOf fn q
  (s.setQueue fn q (if x.out then { x with ptail := wbits v 0 16, tvalid := true } else { x with tail := wbits v 0 16 })).useQueue
    fn q

/-- R506. -/
def execHostqTailWrite (fn q : Nat) (v : Word) (s : State) : Res :=
  .next (if fn < 32 ∧ q < 32 then s.writeTail fn q v else s)

/-- R506: the queue idle longest is switched out, once the entry in hand is finished. -/
def execHostqSwitchOut (fn q : Nat) (s : State) : Res :=
  let x := s.queueOf fn q
  .next (if fn < 32 ∧ q < 32 ∧ x.isIn ∧ s.idlest = some (fn, q) ∧ !s.inHand fn q x then
    s.setQueue fn q { x with out := true, tvalid := false, ptail := 0 }
  else s)

/-- R506: a queue is switched in, with PTAIL when TVALID = 1. -/
def execHostqSwitchIn (fn q : Nat) (s : State) : Res :=
  let x := s.queueOf fn q
  .next (if fn < 32 ∧ q < 32 ∧ x.en ∧ x.out ∧ !(s.ctxOf x.ctx).suspended ∧ s.queuesIn < 128 then
    (s.setQueue fn q { x with out := false, tail := if x.tvalid then x.ptail else x.tail, tvalid := false, ptail := 0 }).useQueue
      fn q
  else s)

/-! ## Older launch records (R508) -/

/-- Bytes of a record version; 0 for an unknown one. -/
def recordSize (ver : Nat) : Nat := if ver = 1 then 256 else if ver = 2 then 576 else if ver = 3 then 832 else 0

/-- A version-1 record has no reserved bit set. -/
def v1Sound (r : List Byte) : Bool :=
  wbits (wordAt r 0) 0 54 == 0 && ((r.take 64).drop 24).all (· == 0) && (r.drop 192).all (· == 0)

/-- A version-2 record has no reserved bit set. -/
def v2Sound (r : List Byte) : Bool :=
  wbits (wordAt r 0) 0 47 == 0 && wbits (wordAt r 0) 47 5 ≤ 8 && ((r.take 64).drop 40).all (· == 0)

/-- 26 Table 26.10 from version 1. -/
def fromV1 (r : List Byte) : List Byte :=
  let n := wbits (wordAt r 0) 54 2 + 1
  wordBytes [BitVec.ofNat 64 (3 * 2 ^ 56 + n * 2 ^ 52), 0x0000040000000040, wordAt r 8, wordAt r 16, 0, 0, 0, 0]
    ++ (r.drop 64).take 128 ++ List.replicate 640 0

/-- 26 Table 26.10 from version 2. -/
def fromV2 (r : List Byte) : List Byte :=
  wordBytes [wset (wordAt r 0) 56 8 3, wordAt r 8, wordAt r 16, wordAt r 24, wordAt r 32, 0, 0, 0]
    ++ (r.drop 64).take 512 ++ List.replicate 256 0

/-- The version-3 record of a record, or the refusal of a reserved bit as BADHDR. -/
def toV3 (r : List Byte) : Except Word (List Byte) :=
  match wbits (wordAt r 0) 56 8 with
  | 1 => if v1Sound r then .ok (fromV1 r) else .error (BitVec.ofNat 64 (2 + 0xFF * 256))
  | 2 => if v2Sound r then .ok (fromV2 r) else .error (BitVec.ofNat 64 (2 + 0xFF * 256))
  | _ => .ok r

/-! ## An entry of a host queue (R505) -/

/-- The queue as an agent: at the context's starting level (R519). -/
def State.queueWho (s : State) (fn q ctx : Nat) : Who :=
  { agent := .queue fn q, ctx, level := (s.ctxOf ctx).level, orig := 1 }

/-- A reserved bit of an entry is set (26 Table 26.8). -/
def hostEntryBad (e : List Byte) : Bool :=
  wbits (wordAt e 0) 57 7 != 0 || wbits (wordAt e 0) 0 6 != 0 || wbits (wordAt e 8) 57 7 != 0
    || (e.drop 32).any (· != 0)

/-- The launch record that an entry names: read, translated, checked and submitted; STATUS. A record that cannot be read
makes a bad entry. -/
def submitEntry (w : Who) (e : List Byte) : M Word := do
  let s ← get
  if hostEntryBad e then return 7
  let a := wbits (wordAt e 0) 0 57
  match s.firstFail w [plainOp (a : Nat) 8 .load] with
  | some _ => return 7
  | none =>
    let h ← loadBytes w a 8
    let n := recordSize (wbits (wordAt h 0) 56 8)
    if n = 0 then return 6
    match s.firstFail w [plainOp (a : Nat) n .load] with
    | some _ => return 7
    | none =>
      let r ← loadBytes w a n
      match toV3 r with
      | .error x => return x
      | .ok r =>
        match ← admitRecord w r with
        | .error (code, place) => return BitVec.ofNat 64 (code + place * 256)
        | .ok lines =>
          let s ← get
          set (s.addLaunch w.ctx w.level r (BitVec.ofNat 64 (wbits (wordAt e 8) 0 57)) lines)
          return BitVec.ofNat 64 (2 ^ 63 + s.serial)

/-- The queue after the entry at HEAD: it goes out now when that was put off (R506). -/
def HostQ.nextEntry (x : HostQ) : HostQ :=
  { x with head := (x.head + 1) % x.entries, owed := none, out := x.out || x.leaving, leaving := false }

/-- STATUS of the entry at HEAD is written, and HEAD moves on after it. A write that fails a check is dropped (DEDUCED, log
56). -/
def State.payEntry (s : State) (fn q : Nat) (x : HostQ) (status : Word) : State :=
  let w := s.queueWho fn q x.ctx
  let next (t : State) : State := t.setQueue fn q (t.queueOf fn q).nextEntry
  match s.attempt (storeBytes w (x.qbase.toNat + 64 * (x.head % x.entries) + 24 : Nat) (toBytes status.toNat 8)) with
  | (.error .stall, t) => { t.setQueue fn q { t.queueOf fn q with owed := some status } with rix := 0 }
  | (.error .ended, t) => { t with rix := 0 }
  | (_, t) => next (t.settle w.agent)

/-- The entry at HEAD is taken: its record submitted, then STATUS written. -/
def State.takeEntry (s : State) (fn q : Nat) (x : HostQ) : State :=
  let w := s.queueWho fn q x.ctx
  match x.owed with
  | some status => s.payEntry fn q x status
  | none =>
    match s.attempt (do
      let e ← loadBytes w (x.qbase.toNat + 64 * (x.head % x.entries) : Nat) 64
      submitEntry w e) with
    | (.ok status, t) => (t.settle w.agent).payEntry fn q x status
    | (.error .stall, t) => { t with rix := 0 }
    | (.error .ended, t) => { t with rix := 0 }
    | (.error .poison, t) => (t.settle w.agent).payEntry fn q x 7
    | (.error _, t) =>
      let t := t.settle w.agent
      t.setQueue fn q (t.queueOf fn q).nextEntry

/-- R505: the Headframe consumes the next entry of a queue that is enabled and switched in; an entry in hand is finished while the
queue goes out (R506). -/
def execHostqEntry (fn q : Nat) (s : State) : Res :=
  let x := s.queueOf fn q
  let c := s.ctxOf x.ctx
  if fn < 32 ∧ q < 32 ∧ x.en ∧ c.valid ∧ !c.ended
      ∧ (x.owed.isSome ∨ x.leaving ∨ (!x.out ∧ !c.suspended ∧ x.head % x.entries ≠ x.tail % x.entries)) then
    .next ((s.useQueue fn q).takeEntry fn q x)
  else .next s

/-! ## BAR0 -/

/-- A write to BAR0 of a function (26 Table 26.7, R505). -/
def State.writeBar0 (s : State) (fn off : Nat) (v : Word) : State :=
  let f := s.funcOf fn
  if 32 ≤ fn ∨ off % 8 ≠ 0 then s
  else if off < 0x40 then s.writeMbreq fn (off / 8) v
  else if off = 0x80 then s.ringMailbox fn v
  else if off = 0x88 then s.writeMbstat fn v
  else if off = 0x90 then s.setFunc fn { f with evqBase := v &&& 0xFFFFFFFFFFFFF000#64 }
  else if off = 0x98 then s.setFunc fn { f with evqEn := bitOf v.toNat 63 }
  else if 0x1000 ≤ off ∧ off < 0x1800 then
    let q := (off - 0x1000) / 64
    match (off - 0x1000) % 64 with
    | 0 => s.setQueue fn q { s.queueOf fn q with qbase := v &&& 0xFFFFFFFFFFFFFFC0#64 }
    | 8 => s.writeQctl fn q v
    | 16 => s.writeTail fn q v
    | _ => s
  else s

/-- EVQCTL as it reads. -/
def Func.evqCtl (f : Func) : Word := BitVec.ofNat 64 (bit f.evqEn * 2 ^ 63 + f.drop % 65536 * 2 ^ 32 + f.tail % 65536)

/-- PROG as it reads: the saved HEAD with QUIESCED = 1 while the queue is out (R505, R506). -/
def HostQ.prog (q : HostQ) : Word := BitVec.ofNat 64 (bit q.out * 2 ^ 63 + q.head % 65536)

/-- TAIL as it reads: the last value written. -/
def HostQ.tailWord (q : HostQ) : Word := BitVec.ofNat 64 (if q.out && q.tvalid then q.ptail else q.tail)

/-- What a read of BAR0 returns (26 Table 26.7): a register that is a request or a doorbell, or no register, reads 0 (R9). -/
def State.readBar0 (s : State) (fn off : Nat) : Word :=
  let f := s.funcOf fn
  if off % 8 ≠ 0 then 0
  else if 0x40 ≤ off ∧ off < 0x80 then f.mbrsp.getD ((off - 0x40) / 8) 0
  else if off = 0x88 then BitVec.ofNat 64 (2 * bit f.done + bit f.busy)
  else if off = 0x90 then f.evqBase
  else if off = 0x98 then f.evqCtl
  else if 0x1000 ≤ off ∧ off < 0x1800 then
    let q := s.queueOf fn ((off - 0x1000) / 64)
    match (off - 0x1000) % 64 with
    | 0 => q.qbase
    | 8 => q.qctl
    | 16 => q.tailWord
    | 24 => q.prog
    | _ => 0
  else 0

/-- A host's read of BAR0 is answered. -/
def State.answerBar0 (s : State) (fn off : Nat) : State :=
  if 32 ≤ fn then s else s.emit (.hostReply fn (wordBytes [s.readBar0 fn off]) false)

/-! ## Requests to device memory (R305, R503) -/

/-- A host requester may reach these bytes: frames of device memory assigned to tenant 0 for CXL.mem, to the function's
tenant for PCIe; no line bound or chute line, and for a write no page on its way (DEDUCED, log 57). -/
def State.hostReaches (s : State) (r : HostReq) (n : Nat) : Bool :=
  let tenant := if r.cxl then 0 else r.fn
  let ok (pa : Nat) : Bool :=
    (match homeOf pa with
      | .dram _ | .sram _ => true
      | _ => false) && s.frameTenant pa == tenant
  (List.range (n / frameSize + 2)).all (fun i => i * frameSize ≥ n || ok (r.addr + i * frameSize))
    && ok (r.addr + n - 1)
    && (linesOf r.addr n).all fun l => (s.bindAt l).isNone && (s.chuteAt l).isNone

/-- A CXL.mem request that reaches nothing is reported (R503); the record's contents are open. -/
def State.reportMiss (s : State) (r : HostReq) : State :=
  if r.cxl then (s.nextTick).postEvent 0 [s.freeWord] else s

/-- Lines that a host requester has just written (R509), whose codewords are new (R473); whole lines lose their poison
(R318). -/
def State.hostWrote (s : State) (pa n : Nat) : State :=
  let ls := (linesOf pa n).filter inDram
  let s0 := (wholeLines pa n).foldl (fun t l => if (t.metaOf l).pois then t.setPois l false else t) s
  let s1 := ls.foldl State.freshCode s0
  { s1 with reliab := { s1.reliab with fresh := (s1.reliab.fresh.filter fun l => !ls.contains l) ++ ls } }

/-- A page under migration holds one of the bytes. -/
def State.hostStalls (s : State) (r : HostReq) (n : Nat) : Bool :=
  s.migs.any fun m => decide (r.addr < m.old + m.size ∧ m.old < r.addr + n)

/-- Where a stalled write to a physical byte is performed once its page's migration has ended: on the new frame, or on the frame
that software has named in the entry (R279). -/
def State.landing (s : State) (pa : Nat) : Nat :=
  match s.migs.find? fun m => decide (m.old ≤ pa ∧ pa < m.old + m.size) with
  | none => pa
  | some m =>
    let e := s.readWord m.entry
    (if e = m.val then m.new else wbits e 14 38 * 2 ^ 14) + (pa - m.old)

/-- The pieces of a host write, as (physical address, bytes). -/
def State.hostPieces (s : State) (r : HostReq) (n : Nat) : List (Nat × Nat) :=
  if s.hostStalls r n then (splitPages (n / 16384 + 2) r.addr n).map fun p => (s.landing p.1.toNat, p.2) else [(r.addr, n)]

/-- The migrations of the pages that a host write meets end: it stalls until they have, with the later accesses of its requester
behind it, and the model lets that pass within the step (R279, R305). -/
def State.awaitHost (s : State) (r : HostReq) (n : Nat) : State :=
  (s.migs.filter fun m => decide (r.addr < m.old + m.size ∧ m.old < r.addr + n)).foldl State.endMove s

/-- The pieces of a host write performed. -/
def State.hostStore (s : State) : List (Nat × Nat) → List Byte → State
  | [], _ => s
  | (pa, n) :: t, bs => (((s.reachBytes noCtx 2 true pa n).writePhys pa (bs.take n)).hostWrote pa n).hostStore t (bs.drop n)

/-- R305, R503: a host request to device memory. -/
def execHostMemRequest (r : HostReq) (s : State) : Res :=
  let n := if r.write then r.data.length else r.len
  if n = 0 ∨ 32 ≤ r.fn then .next s
  else if !s.hostReaches r n then
    let s1 := s.reportMiss r
    .next (if r.write then s1 else s1.emit (.hostReply r.fn (List.replicate n 0) true))
  else if r.write then .next ((s.awaitHost r n).hostStore (s.hostPieces r n) r.data)
  else
    let s1 := s.reachBytes noCtx 2 false r.addr n
    .next (s1.emit (.hostReply r.fn (s1.readPhys r.addr n) (s1.poisoned r.addr n)))

/-- R389, R503: a drive's write into the aperture of a STORRD lands at DST; what comes for one that has ended is
dropped. -/
def execPeerApertureWrite (id off : Nat) (data : List Byte) (s : State) : Res :=
  match s.cmdOf id with
  | none => .next s
  | some c =>
    if cwKind c.w ≠ 6 ∨ c.phase ≠ .work ∨ data = [] ∨ cwSize c.w < off + data.length then .next s
    else
      let c1 := { c with left := c.left ++ [lineStore (cwDst c.w + off) 1 data] }
      .next (if c1.mayGo .land then s.landWrites c1 c1.left else s.setCmd c1)

end Sys2Proof.Machine
end

