-- ==== Sys2Proof/Machine/Migrate.lean ====
section
/-! DEFINITION. Headframe migrations, the patrol scrubber and write-backs, link retries, and the events of error banks and
injection (13 R279, R280, 25 R476 to R491, 27 R509). -/
namespace Sys2Proof.Machine

/-! ## Moving a frame -/

/-- Memory with n bytes copied from one place to another that does not meet it. -/
def Memory.copyRange (m : List Host.Cell) (old new n : Nat) : List Host.Cell :=
  let inside (lo : Nat) (c : Host.Cell) : Bool := decide (lo ≤ c.1 ∧ c.1 < lo + n)
  (m.filter (inside old)).foldl (fun m c => Memory.write m (new + (c.1 - old)) c.2)
    (m.filter fun c => !inside new c)

/-- The lines of one page at another place, with their metadata; what a failed channel poisons stays poisoned. Their codewords are
new (R473). -/
def State.copyMeta (s : State) (old new size : Nat) : State :=
  let n := size / 64
  let o := old / 64
  let k := new / 64
  let inside (lo l : Nat) : Bool := decide (lo ≤ l ∧ l < lo + n)
  let s1 := { s with
    lineMeta := s.lineMeta.filter fun m => !inside k m.1
    reliab := { s.reliab with errors := s.reliab.errors.filter fun e => !inside k e.1 } }
  let s2 := (s.lineMeta.filter fun m => inside o m.1).foldl (fun t m => t.setMeta (k + (m.1 - o)) m.2) s1
  if s.reliab.chans.isEmpty then s2
  else (((List.range n).map (o + ·)).filter s.linePoisoned).foldl (fun t l => t.setPois (k + (l - o)) true) s2

/-- Bases at which the pool holds a whole page for a tenant (DESIGN CHOICE, log 48). -/
def State.atticBases (s : State) (tenant size : Nat) : List Nat :=
  (s.pool.map (· * frameSize)).filter fun b =>
    b % size == 0 && (frameList b size).all s.pool.contains && s.framesOk tenant b size && !pageInHole b size

/-- A pending addition lies in a page. -/
def Add.inPage (a : Add) (pa size : Nat) : Bool := decide (pa ≤ a.pa ∧ a.pa < pa + size)

/-- R279 steps 1 to 3: MIG is set on a page and the page is copied into an attic frame, additions already translated being
performed first. -/
def State.startMigration (s : State) (l : Leaf) (base : Nat) : State :=
  let val := wset l.val 58 1 1
  let s1 := (s.adds.filter fun a => a.inPage l.base l.size).foldl State.performAdd s
  let s2 := s1.writeWord l.entry val
  let s3 := s2.reachBytes noCtx 4 false l.base l.size
  let s4 := { s3 with mem := Memory.copyRange s3.mem l.base base l.size }.copyMeta l.base base l.size
  let taken := frameList base l.size
  { s4 with
    migs := s4.migs ++ [{ entry := l.entry, val, old := l.base, new := base, size := l.size }]
    pool := s4.pool.filter fun f => !taken.contains f }

/-- R279: the Headframe starts to move the page of an address: a FLOAT leaf of level 0 or 1, neither locked nor moving,
with an attic in the pool, which is a free choice. -/
def execMigrationStart (ctx : Nat) (va : Nat) (s : State) : Res :=
  match s.walk ctx va with
  | none => .next s
  | some l =>
    let bases := s.atticBases (s.ctxOf ctx).tenant l.size
    if !(s.ctxOf ctx).valid || !leafFloat l.val || leafLock l.val || leafMig l.val || bases.isEmpty
        || s.flightIn l.base l.size then .next s
    else .next (s.nextTick.startMigration l (s.pick bases))

/-! ## Publishing a moved page -/

/-- R279: the migration number n ends, once every access translated before has been performed. -/
def execMigrationPublish (n : Nat) (s : State) : Res :=
  match s.migs[n]? with
  | none => .next s
  | some m => .next (if s.flightIn m.old m.size then s else s.endMove m)

/-! ## The DRAM side -/

/-- The written line crosses the bus with a fresh codeword (R509), and may meet a bus injection that a store of its armer is
due (R491). -/
def State.writeBack (s : State) (line : Nat) : State :=
  if s.reliab.injStore == some line then
    { s with reliab := { s.reliab with injStore := none } }.arrayWrite (s.reliab.armer.getD noCtx) line
  else s.arrayWrite noCtx line

/-- R509: a line is written back to the array. -/
def execLineWriteback (line : Nat) (s : State) : Res := .next (if inDram line then s.writeBack line else s)

/-- Lines of a channel, and of a sixteenth of them: between two sixteenths of a period's patrol every watched row is visited
(R270, R480) (DESIGN CHOICE, log 49). -/
def chanLines : Nat := 0xC00000
/-- A sixteenth. -/
def slotLines : Nat := chanLines / 16
/-- Lines of a row. -/
def rowLines : Nat := 128

/-- A watched row as a visit begins. -/
def Watched.visit (r : Watched) : Watched := { r with due := rowLines }

/-- A watched row as a period ends: none when it leaves the list (R480). -/
def Watched.renew (r : Watched) : Option Watched :=
  let clean := if r.hit then 0 else r.clean + 1
  if 16 ≤ clean then none else some { r with clean, hit := false }

/-- The scrubber of the channel reads its line number k next: none when that line is not next, or the channel after it. A
watched row is visited in ascending order of its lines; a period reads every line once in ascending order (R479, R480). -/
def Channel.scrub (c : Channel) (k : Nat) : Option Channel :=
  let visiting (r : Watched) : Bool := r.row == k / rowLines && r.due != 0 && rowLines - r.due == k % rowLines
  let rested := c.watch.all fun r => r.due == 0
  if c.watch.any visiting then
    some { c with watch := c.watch.map fun r => if visiting r then { r with due := r.due - 1 } else r }
  else if c.pos = chanLines ∧ k = 0 ∧ rested then
    some { c with pos := 1, watch := (c.watch.filterMap Watched.renew).map Watched.visit }
  else if k = c.pos ∧ k < chanLines ∧ (k % slotLines ≠ 0 ∨ rested) then
    some { c with pos := k + 1, watch := if k % slotLines = 0 then c.watch.map Watched.visit else c.watch }
  else none

/-- The state after the scrubber has moved to a line of DRAM; none when that line is not its next. -/
def State.scrubTo (s : State) (line : Nat) : Option State :=
  if inDram line then ((s.chanOf (chanNo line)).scrub (line % 0x40000000 / 64)).map fun c => s.setChan (chanNo line) c
  else none

/-- R479, R481: the scrubber reads its next line, decodes it, and writes back what it corrected or poisoned. -/
def execScrubRead (line : Nat) (s : State) : Res :=
  match s.scrubTo line with
  | none => .next s
  | some t => .next (t.arrayAccess noCtx line 3)

/-! ## Links of the package -/

/-- Every context of the package ends with MCHECK, and the package waits for cold reset (R466, R482, R514) (DEDUCED, log 59). -/
def State.stopPackage (s : State) : State :=
  let s1 := s.ctxs.foldl (fun t c =>
    if c.2.valid && !c.2.ended then t.endContext c.1 (imprecise causeMcheck) 0 none else t) s
  { s1 with stopped := true }

/-- The record of one retry of a mesh or die link (25 Table 25.4): whose flit it was is open. -/
def State.meshRecord (s : State) (link : Nat) : ErrRec :=
  { ctx := noCtx, pois := false, swap := false, spare := false, owner := s.freeWord.toNat % 32, orig := s.freeWord.toNat / 32 % 8
    unit := link, subu := 0, nsym := 0, line := 0 }

/-- A number of corrected records of a link. -/
def State.logRetries (s : State) (die link : Nat) : Nat → State
  | 0 => s
  | n + 1 => ((s.logError die bankMesh true (s.meshRecord link)).nextTick).logRetries die link n

/-- R482: a flit of a link was retried; after 16 attempts the package stops. -/
def execMeshLinkRetry (die link attempts : Nat) (s : State) : Res :=
  if 4 ≤ die ∨ 32 ≤ link ∨ attempts = 0 then .next s
  else
    let s1 := s.logRetries die link (min attempts 16)
    .next (if attempts < 16 then s1 else s1.stopPackage)

/-! ## Injection and banks -/

/-- The acting sequencer may use the supervisor's registers. -/
def State.supervises (s : State) : Bool := s.hart.live && s.hart.level == .supervisor

/-- R490, R491: the acting sequencer arms an injection of one kind. -/
def State.armInjection (s : State) (kind : Nat) (v : Word) : State :=
  if s.supervises && bitOf v.toNat 63 && wbits v 59 3 == kind then
    let t := s.drainAdds s.hart.core s.hart.sq
    if t.supervises then t.writeErrinj v v else t
  else s

/-- R491, KIND 001. -/
def execErrinjDramCell (v : Word) (s : State) : Res := .next (s.armInjection 1 v)
/-- R491, KIND 010. -/
def execErrinjBusOnce (v : Word) (s : State) : Res := .next (s.armInjection 2 v)
/-- R491, KIND 011. -/
def execErrinjBusStuck (v : Word) (s : State) : Res := .next (s.armInjection 3 v)

/-- R486: the acting sequencer's read of a bank's STAT that shows V = 1 sets SEEN. -/
def execErrbankStatRead (die bank : Nat) (s : State) : Res :=
  let b := s.bankOf die bank
  .next (if s.supervises && die < 4 && bank < 8 && s.bankShown b && bitOf b.stat.toNat 63 then
    s.setBank die bank { b with stat := wset b.stat 60 1 1 }
  else s)

/-- R487: the acting sequencer writes 1 to STAT.V; only tenant 0 clears the bank. -/
def execErrbankClear (die bank : Nat) (s : State) : Res :=
  .next (if s.supervises && die < 4 && bank < 8 && s.tenant == 0 then s.setBank die bank Bank.zero else s)

end Sys2Proof.Machine
end

