-- ==== Sys2Proof/Machine/Package.lean ====
section
/-! DEFINITION. Power and heat, the management port, resets, life cycle, firmware, and writes of plain registers (24 R464 to
R470, 28 R513 to R518). -/
namespace Sys2Proof.Machine

/-! ## Power and heat (R513, R514) -/

/-- Cores of a die. -/
def dieCores (die : Nat) : List Nat := (List.range 64).map (64 * die + ·)

/-- A core's cap one step up. -/
def State.doublePcap (s : State) (core : Nat) : State :=
  let c := s.coreOf core
  s.setCore core { c with pcap := min (2 * c.pcap) 65536 }

/-- R514: a die at a reading of 110 °C or more trips: every context ends with MCHECK, the package stops, THERM.TRIP is set, the
trip is posted. -/
def State.tripDie (s : State) (die temp : Nat) : State :=
  let s1 := s.stopPackage
  let m := s1.mgmt
  let s2 := { s1 with mgmt := { m with trip := true, temps := m.temps.set die temp } }
  (s2.postEvent 0 [BitVec.ofNat 64 (6 * 2 ^ 56), s2.therm]).setEvt 6 0 0

/-- R514: a die's reading: it trips as it reaches 110 °C; at or above TTHR every cap of its cores halves; below TTHR − 5 caps double where
the power limit allows, which the policy decides (R23). -/
def execThermalThrottle (die temp : Nat) (s : State) : Res :=
  if 4 ≤ die ∨ 256 ≤ temp then .next s
  else if 110 ≤ temp ∧ !(s.mgmt.trip ∧ 110 ≤ s.mgmt.temps.getD die 0) then .next (s.tripDie die temp)
  else
    let s1 := { s with mgmt := { s.mgmt with temps := s.mgmt.temps.set die temp } }
    if s.mgmt.tthr ≤ temp then .next ((dieCores die).foldl State.halvePcap s1)
    else if temp + 5 < s.mgmt.tthr then
      .next { (s1.someCores (dieCores die)).foldl State.doublePcap s1 with tick := s1.tick + coreCount }
    else .next s1

/-- R514: a die has reached 110 °C. -/
def execThermalTrip (die : Nat) (s : State) : Res :=
  if 4 ≤ die then .next s else .next (s.tripDie die (max 110 (s.mgmt.temps.getD die 0)))

/-! ## Management port (R517, R518) -/

/-- The management port serves an index: only 0x00 to 0x05 in recovery and when SCRAPPED. -/
def State.mgmtServes (s : State) (ix : Nat) : Bool := ix ≤ 5 || !(s.mgmt.recovery || s.mgmt.life == 3)

/-- R513 at index 0x03. -/
def execThermWrite (v : Word) (s : State) : Res := .next (s.writeTherm v)

/-- R517: the device number may be written while no window is mapped. -/
def State.writeDevice (s : State) (v : Word) : State :=
  if s.fabric.wins.any fun w => bitOf w.2.1.toNat 63 then s
  else { s with fabric := { s.fabric with devNum := wbits v 0 10 } }

/-- R517 at index 0x02. -/
def execDeviceNumberWrite (v : Word) (s : State) : Res := .next (s.writeDevice v)

/-- R517: a Block Write; an index that is not listed, or not writable, ignores it. -/
def execMgmtBlockWrite (ix : Nat) (v : Word) (s : State) : Res :=
  if !s.mgmtServes ix then .next s
  else if ix = 2 then .next (s.writeDevice v)
  else if ix = 3 then .next (s.writeTherm v)
  else if 0x10 ≤ ix ∧ ix < 0x18 then .next (s.writeMbreq 0 (ix - 0x10) v)
  else if ix = 0x20 then .next (s.ringMailbox 0 v)
  else if ix = 0x21 then .next (s.writeMbstat 0 v)
  else .next s

/-- The value at a management index (28 Table 28.2); what is not listed reads 0. -/
def State.mgmtWord (s : State) (ix : Nat) : Word :=
  let f := s.funcOf 0
  if !s.mgmtServes ix then 0
  else if ix = 0 then s.caps0
  else if ix = 1 then BitVec.ofNat 64 s.mgmt.life
  else if ix = 2 then BitVec.ofNat 64 s.fabric.devNum
  else if ix = 3 then s.therm
  else if ix = 4 then s.mgmt.power
  else if ix = 5 then s.mgmt.evt
  else if 0x18 ≤ ix ∧ ix < 0x20 then f.mbrsp.getD (ix - 0x18) 0
  else if ix = 0x21 then BitVec.ofNat 64 (2 * bit f.done + bit f.busy)
  else 0

/-- The two address bytes of a transaction (R517): for a write, and for a read. -/
def State.smbusAddr (s : State) (read : Bool) : Byte := BitVec.ofNat 8 (2 * (0x58 + s.mgmt.maddr % 4) + bit read)

/-- The PEC of a Block Read's answer: over both address bytes, the index, the byte count and the data (PRESUMED, log 72). -/
def State.readPec (s : State) (ix : Nat) (v : Word) : Byte :=
  crc8 ([s.smbusAddr false, BitVec.ofNat 8 ix, s.smbusAddr true, 8#8] ++ toBytes v.toNat 8)

/-- A Block Read answered. -/
def State.sendBlock (s : State) (ix : Nat) (v : Word) : State := s.emit (.smbus v (s.readPec ix v))

/-- R518, R9: EVT is sent, then cleared. -/
def State.readEvt (s : State) : State := (s.sendBlock 5 s.mgmt.evt).withEvt 0

/-- R518. -/
def execEvtRead (s : State) : Res := .next s.readEvt

/-- R517: a Block Read; in recovery and in SCRAPPED an index that is not served has no answer. -/
def execMgmtBlockRead (ix : Nat) (s : State) : Res :=
  if !s.mgmtServes ix then .next s
  else if ix = 5 then .next s.readEvt
  else
    let s1 := s.sense
    .next (s1.sendBlock ix (s1.mgmtWord ix))

/-- A transaction at the management port (R517): nothing when it is not to this target, is of no form of the rule, or its PEC
fails (PRESUMED, log 72). -/
def execSmbus (addr : Nat) (read : Bool) (bytes : List Byte) (s : State) : Res :=
  if addr ≠ 0x58 + s.mgmt.maddr % 4 then .next s
  else
    match read, bytes with
    | true, [cmd] => execMgmtBlockRead cmd.toNat s
    | false, cmd :: count :: rest =>
      if count = 8 ∧ rest.length = 9 ∧ crc8 (s.smbusAddr false :: cmd :: count :: rest.take 8) = rest.getD 8 0 then
        execMgmtBlockWrite cmd.toNat (wordAt rest 0) s
      else .next s
    | _, _ => .next s

/-! ## Wipe, reset, life cycle (R464, R466 to R470, R515, R516) -/

/-- Memory of the host, which no wipe of the device reaches. -/
def State.hostMem (s : State) : List Host.Cell :=
  s.mem.filter fun c =>
    match homeOf c.1 with
    | .host | .fabric _ => true
    | _ => false

/-- DRAM channels that fail training (R516): a free choice. -/
def State.failsTraining (s : State) : List Nat := (List.range 256).filter fun n => Config.freeBool (s.tick + 16 + n)

/-- Linkirun ports that have a far end and train: a free choice. -/
def State.trains (s : State) : Table Port :=
  ((List.range 12).filter fun p => s.portExists p && Config.freeBool (s.tick + p)).map fun p => (p, { Port.reset with up := true })

/-- An image of firmware passes (R467): the part's fused keys verify both signatures, and its version is no downgrade. -/
def imagePasses (image : Nat) : Bool :=
  (List.range 2).all (fun alg => Config.imageKey alg image == Config.fusedKey alg && Config.imageVerifies alg image)
    && Config.fusedVersion (image % 2) ≤ Config.imageVersion image

/-- The measurement registers after both images of a boot have been checked and extended (R468). -/
def bootMeasures (image : Nat) : List (BitVec 384) :=
  measure 0 (Config.imageDigest image) :: measure 0 (Config.imageDigest (image + 1)) :: List.replicate 6 0

/-- The signing keys of a life-cycle state (R469). -/
def deriveKeys (life : Nat) : List (BitVec 384) := [Config.signingKey 0 life, Config.signingKey 1 life]

/-- R515 steps 1 to 4: the part, its fused life-cycle state, its straps and the host's memory remain; the images of this boot
pass, or leave the part in recovery; channels are trained, and every store is wiped, EVT among them, which releases SMBALERT#. Images that are not run are not measured. -/
def State.coldReset (s : State) : State :=
  let r := State.reset
  let image := 2 * s.tick
  let first := imagePasses image
  let runs := first && imagePasses (image + 1)
  let s1 : State :=
    { r with
      part := s.part
      mem := s.hostMem
      mgmt := { r.mgmt with
        boot := .reset, maddr := s.mgmt.maddr, life := s.mgmt.life, keys := deriveKeys s.mgmt.life, recovery := !runs
        meas := if runs then bootMeasures image
          else if first then (bootMeasures image).set 1 0 else List.replicate 8 0 }
      inputs := s.inputs
      tick := s.tick + 512
      out := (s.withEvt 0).out }
  if runs then s.failsTraining.foldl (fun t n => t.failChannel n none 0 0 0) s1 else s1

/-- R515. -/
def execColdReset (s : State) : Res := .next s.coldReset

/-- The end of a cold reset, steps 5 and 6: ports train, unless the part is in recovery; or of the wipe after a change of life
cycle (R470). -/
def State.booted (s : State) : State :=
  let s1 := { s with mgmt := { s.mgmt with boot := .ready } }
  if s.mgmt.boot = .reset ∧ !s.mgmt.recovery then { s1 with fabric := { s.fabric with ports := s.trains }, tick := s.tick + 12 }
  else s1

/-- A request at the host port while a reset or a wipe is under way (R470): in recovery there is no answer. -/
def State.hostRefuses (s : State) : Bool := s.mgmt.boot != .ready && !s.mgmt.recovery

/-- R464: a Function Level Reset of a virtual function tears down each of its contexts. -/
def execFunctionLevelReset (fn : Nat) (s : State) : Res :=
  if fn = 0 ∨ 32 ≤ fn then .next s
  else .next ((s.ctxs.map (·.1)).foldl (fun t c => if t.owns fn c then t.teardown c else t) s)

/-- R470: every line, register file, accumulator, column and loop-stack store is zeroed, with line metadata. -/
def State.wipe (s : State) : State :=
  let wiped (h : Hart) : Hart := { Hart.reset h.core h.sq with cycle := h.cycle }
  { s with
    mem := s.hostMem, lineMeta := [], adds := [], hart := wiped s.hart, rest := s.rest.map wiped
    reliab := { s.reliab with errors := [], fresh := [] } }

/-- R469: with a token that both algorithms verify, every context is torn down, the next state is fused, new keys are derived,
and the package is wiped. -/
def execLifeCycleChange (token : LifeToken) (s : State) : Res :=
  if !token.rsa ∨ !token.slh ∨ 3 ≤ s.mgmt.life then .next s
  else
    let s1 := (s.ctxs.map (·.1)).foldl (fun t c => if (t.ctxOf c).valid then t.teardown c else t) s
    let life := s1.mgmt.life + 1
    .next { s1 with mgmt := { s1.mgmt with life, keys := deriveKeys life, boot := .wipe } }.wipe

/-- R466: service firmware has faulted. -/
def execServiceFirmwareFault (s : State) : Res := .next (s.stopPackage.emit (.event 4 "SERVICE_FAULT"))

/-- R464: a frame is taken from its tenant, wiped, and assigned to another. -/
def execFrameReassign (frame tenant : Nat) (s : State) : Res :=
  let pa := frame * frameSize
  let local_ := match homeOf pa with
    | .dram _ | .sram _ => true
    | _ => false
  if !local_ ∨ 32 ≤ tenant ∨ s.frameTenant pa = tenant then .next s
  else
    let inside (l : Nat) : Bool := l / 256 == frame
    .next { s with
      mem := s.mem.filter fun c => c.1 / frameSize != frame
      lineMeta := s.lineMeta.filter fun m => !inside m.1
      reliab := { s.reliab with errors := s.reliab.errors.filter fun e => !inside e.1 }
      frames := Table.put 0 frame tenant s.frames }

/-! ## Plain registers (R9) -/

/-- A value in a range that service firmware may set, or the old one. -/
def within (lo hi old : Nat) (v : Word) : Nat := if lo ≤ v.toNat ∧ v.toNat ≤ hi then v.toNat else old

/-- A frame of the FLOAT pool granted (1) or taken back (0). -/
def State.grantFrame (s : State) (frame : Nat) (v : Word) : State :=
  let kept := s.pool.filter (· ≠ frame)
  { s with pool := if v = 1 then kept ++ [frame] else kept }

/-- A write of a plain register: a system register by the acting sequencer (R448), BAR0 of a function, or what service
firmware sets: the quantum (R425), PREEMPT_GRACE (R437), ACKTMO (R501), the scrub period (R479), a route with V at 63, PORT
at [15:12] and the tag at [11:0] (R501), a frame of the pool. -/
def execRegisterWrite (t : RegTarget) (v : Word) (s : State) : Res :=
  match t with
  | .sys n =>
    .next (if s.hart.live && csrListed n.toNat && (!csrSupervisor n.toNat || s.supervises) then s.writeCsr n.toNat v v else s)
  | .bar0 fn off => .next (s.writeBar0 fn off v)
  | .quantum => .next { s with quantum := within (2 ^ 18) (2 ^ 24) s.quantum v }
  | .grace => .next { s with grace := within 4096 1048576 s.grace v }
  | .ackTmo => .next { s with fabric := { s.fabric with ackTmo := within (2 ^ 12) (2 ^ 24) s.fabric.ackTmo v } }
  | .scrubPeriod => .next { s with reliab := { s.reliab with scrubPeriod := within (2 ^ 36) (2 ^ 44) s.reliab.scrubPeriod v } }
  | .route dst i =>
    if dst < 1024 ∧ i < 4 then
      .next { s with fabric := { s.fabric with
        routes := Table.put (false, 0, 0) (4 * dst + i) (bitOf v.toNat 63, wbits v 12 4, wbits v 0 12) s.fabric.routes } }
    else .next s
  | .poolFrame frame => .next (s.grantFrame frame v)

end Sys2Proof.Machine
end

