-- ==== Sys2Proof/Machine/TaskSteps.lean ====
section
/-! DEFINITION. The steps of a tile task on a matrix engine (09 R205 to R220). -/
namespace Sys2Proof.Machine

/-! ## Formats (R206) -/

/-- Dense bytes per row of one K-block (09 Table 9.4). -/
def rowBytes (fmt : Nat) : Nat :=
  match fmt with
  | 0 => 18
  | 1 | 2 => 34
  | 3 => 32
  | 4 | 5 | 6 => 64
  | _ => 128

/-- Alignment of a row (R208). -/
def rowAlign (fmt : Nat) : Nat := if fmt = 4 ∨ fmt = 5 ∨ fmt = 6 then 2 else if fmt = 7 then 4 else 1

/-- Bytes of an element of formats 3 to 7. -/
def elemBytes (fmt : Nat) : Nat := if fmt = 3 then 1 else if fmt = 7 then 4 else 2

/-- The float format of a matrix format code. -/
def matrixFmt (code : Nat) : Fmt :=
  match code with
  | 1 => fmtE4m3
  | 2 => fmtE5m2
  | 4 => fmtBf16
  | 5 => fmtF16
  | _ => fmtF32

/-- Numbers of n bits packed, the first lowest. -/
def packBits (n : Nat) : List Nat → Nat
  | [] => 0
  | x :: t => x % 2 ^ n + 2 ^ n * packBits n t

/-- The first k numbers of n bits that a number packs. -/
def unpackBits (n k x : Nat) : List Nat := (List.range k).map fun i => field x (n * i) n

/-! ## Data accesses of a task (R217) -/

/-- The first byte of a range that lies in a poisoned line. -/
def State.firstPoison (s : State) (t : Task) (va n : Nat) : Nat :=
  match (List.range (n / 64 + 2)).find? fun k =>
      let a := if k = 0 then va else (va / 64 + k) * 64
      a < va + n && s.ctxPoisoned t.ctx t.level a 1 with
  | some 0 => va
  | some k => (va / 64 + k) * 64
  | none => va

/-- A read of n bytes by a step: a poisoned line fails it, with the address of the first such byte. -/
def Task.read (t : Task) (va : Int) (n : Nat) : M (List Byte) := do
  let r ← perform t.who [{ plainOp va n .load with strict := false }]
  let x := r.headD ([], false)
  if x.2 then
    let s ← get
    raise causePoison (BitVec.ofNat 64 (s.firstPoison t va.toNat n))
  return x.1

/-- KSTRIDE of a step. -/
def Task.kstride (t : Task) (i : Nat) : Int := sint 32 (wbits (tkStep t.image i 3) 32 32)

/-- BASE + k x KSTRIDE of step i. -/
def Task.panel (t : Task) (i k : Nat) : Int := (wbits (tkStep t.image i 1) 0 57 : Int) + k * t.kstride i

/-! ## LDA, LDB, SPMASK (R207 to R210) -/

/-- A row as the latch holds it: its header or scale word, and 32 element encodings. -/
abbrev LatchRow := Nat × List Nat

/-- The row that dense bytes hold (09 Table 9.4). -/
def denseRow (fmt : Nat) (bs : List Byte) : LatchRow :=
  let x := ofBytes bs
  match fmt with
  | 0 => (field x 0 16, unpackBits 4 32 (x / 2 ^ 16))
  | 1 | 2 => (field x 0 16, unpackBits 8 32 (x / 2 ^ 16))
  | _ => (0, unpackBits (8 * elemBytes fmt) 32 x)

/-- A zero row. -/
def zeroRow : LatchRow := (0, List.replicate 32 0)

/-- Row r of a dense panel (R208). -/
def Task.denseRow (t : Task) (i k r : Nat) : M LatchRow := do
  let w k := tkStep t.image i k
  let fmt := wbits (w 0) 52 4
  let b := t.panel i k
  let rstride := wbits (w 3) 0 32
  let n ←
    if wbits (w 0) 49 1 = 1 then do
      let x ← t.read (wbits (w 2) 0 57 + 4 * r : Nat) 4
      pure (ofBytes x)
    else pure r
  if wbits (w 0) 49 1 = 1 ∧ n = 0xFFFFFFFF then return zeroRow
  let a := b + (n * rstride : Nat)
  if a % rowAlign fmt ≠ 0 then raise causeAlign (wordOf a)
  let bs ← t.read a (rowBytes fmt)
  return Sys2Proof.Machine.denseRow fmt bs

/-- Rows of a dense panel. -/
def Task.denseRows (t : Task) (i k : Nat) : List Nat → M (List LatchRow)
  | [] => pure []
  | r :: rs => do
    let x ← t.denseRow i k r
    let xs ← t.denseRows i k rs
    return x :: xs

/-- The values of the present elements of a row: value i of the stream for each (R209). -/
def sparseVals (vals : Nat → Nat) (map : Nat) : Nat → Nat → List Nat
  | 0, _ => []
  | n + 1, p =>
    if bitOf map (31 - n) then vals p :: sparseVals vals map n (p + 1) else 0 :: sparseVals vals map n p

/-- Rows of a sparse panel under its bitmaps (R209). -/
def sparseRows (hdr vals : Nat → Nat) : List Nat → Nat → Nat → List LatchRow
  | [], _, _ => []
  | m :: ms, r, p => (hdr r, sparseVals vals m 32 p) :: sparseRows hdr vals ms (r + 1) (p + popBits m 32)

/-- A sparse panel (R209). -/
def Task.sparsePanel (t : Task) (i k : Nat) (maps : List Nat) : M (List LatchRow) := do
  let fmt := wbits (tkStep t.image i 0) 52 4
  let b := t.panel i k
  let total := maps.foldl (fun acc m => acc + popBits m 32) 0
  if b % rowAlign fmt ≠ 0 then raise causeAlign (wordOf b)
  let n := if fmt = 0 then 128 + (total + 1) / 2 else if fmt ≤ 2 then 128 + total else total * elemBytes fmt
  let bs ← if n = 0 then pure [] else t.read b n
  let x := ofBytes bs
  let hdr r := if fmt ≤ 2 then field x (16 * r) 16 else 0
  let body := if fmt ≤ 2 then x / 2 ^ 1024 else x
  let width := if fmt = 0 then 4 else if fmt ≤ 2 then 8 else 8 * elemBytes fmt
  return sparseRows hdr (fun p => field body (width * p) width) maps 0 0

/-- A slot filled with rows. -/
def LatchSlot.fill (l : LatchSlot) (fmt : Nat) (rows : List LatchRow) : LatchSlot :=
  { l with
    fmt := some fmt
    vals := BitVec.ofNat 65536 (packBits 32 (rows.flatMap (·.2)))
    scales := BitVec.ofNat 1024 (packBits 16 (rows.map (·.1))) }

/-- A slot of a side. -/
def Task.slot (t : Task) (sideB : Bool) (n : Nat) : LatchSlot :=
  let v := if sideB then t.b else t.a
  v.toList.getD n LatchSlot.start

/-- A slot of a side replaced. -/
def Task.setSlot (t : Task) (sideB : Bool) (n : Nat) (l : LatchSlot) : Task :=
  if sideB then { t with b := t.b.setIfInBounds n l } else { t with a := t.a.setIfInBounds n l }

/-- LDA or LDB: step i with iteration index k (R207 to R209). -/
def Task.load (t : Task) (i k : Nat) : M Task := do
  let w0 := tkStep t.image i 0
  let sideB := wbits w0 56 8 == 2
  let n := wbits w0 50 2
  let l := t.slot sideB n
  let b := t.panel i k
  if wbits w0 48 1 = 1 then
    let rows ← t.sparsePanel i k (unpackBits 32 64 l.maps.toNat)
    return t.setSlot sideB n (l.fill (wbits w0 52 4) rows)
  else
    if b < 0 ∨ b ≥ ((2 ^ 57 : Nat) : Int) then raise causeXlate (wordOf b)
    let rows ← t.denseRows i k (List.range 64)
    return t.setSlot sideB n (l.fill (wbits w0 52 4) rows)

/-- SPMASK: step i with iteration index k (R210). -/
def Task.spmask (t : Task) (i k : Nat) : M Task := do
  let w0 := tkStep t.image i 0
  let sideB := wbits w0 52 1 == 1
  let n := wbits w0 50 2
  let bs ← t.read (t.panel i k) 256
  return t.setSlot sideB n { t.slot sideB n with maps := BitVec.ofNat 2048 (ofBytes bs) }

/-! ## MMA and SACC (R211, R212) -/

/-- The rows of a slot: header or scale word, and encodings. -/
def LatchSlot.rows (l : LatchSlot) : List LatchRow :=
  (unpackBits 16 64 l.scales.toNat).zip ((unpackBits 1024 64 l.vals.toNat).map (unpackBits 32 32))

/-- The 48-bit elements of a tile. -/
def tileElems (x : BitVec 196608) : List Nat := unpackBits 48 4096 x.toNat

/-- A tile of 48-bit elements. -/
def tileOf (l : List Nat) : BitVec 196608 := BitVec.ofNat 196608 (packBits 48 l)

/-- Tile n. -/
def Task.tile (t : Task) (n : Nat) : BitVec 196608 := t.acc.toList.getD n 0

/-- Tile n replaced. -/
def Task.setTile (t : Task) (n : Nat) (x : BitVec 196608) : Task := { t with acc := t.acc.setIfInBounds n x }

/-- Every pair of a row and a column, in row order. -/
def pairs {α β γ : Type} (f : α → β → γ) (xs : List α) (ys : List β) : List γ := xs.flatMap fun x => ys.map (f x)

/-- Row elements in quarters (R123); none for a NaN block. -/
def quarterRow (r : LatchRow) : Option (List Int) :=
  if r.1 % 512 = 511 then none else some (r.2.map fun c => (blockQuarters c r.1).getD 0)

/-- Row elements as values; none when one is NaN or infinite (R123). -/
def finiteRow (f : Fmt) (r : LatchRow) : Option (List Val) :=
  let vs := r.2.map f.val
  if vs.any fun v => match v with
      | .nan | .inf _ => true
      | _ => false
  then none else some vs

/-- Sum of products of integers. -/
def dotInt (xs ys : List Int) : Int := (List.zipWith (· * ·) xs ys).foldl (· + ·) 0

/-- An FP8 product in units of 2^-20, rounded to the nearest, ties to even (R123). -/
def fp8Units : Val → Int
  | .fin s m e => signed s (roundInt Rnd.rne s (.dy m (e + 20)))
  | _ => 0

/-- P of R123 for two E2M1 rows, or for two FP8 rows. -/
def partialSum {α : Type} (dot : α → α → Int) (x y : Option α) : Option Int :=
  match x, y with
  | some a, some b => some (dot a b)
  | _, _ => none

/-- P of two FP8 rows. -/
def dotFp8 (xs ys : List Val) : Int := (List.zipWith (fun x y => fp8Units (x.mul y)) xs ys).foldl (· + ·) 0

/-- The exact sum of the products of two rows (R124): a NaN or infinite product gives NaN. -/
def dotFloat (xs ys : List Val) : Val :=
  let ps := List.zipWith Val.mul xs ys
  if ps.any fun v => match v with
      | .nan | .inf _ => true
      | _ => false
  then .nan
  else
    match ps with
    | [] => .zero false
    | p :: t => t.foldl (Val.add false) p

/-- A sum added into an integer accumulator, saturating (R122). -/
def accInt (acc : Nat) (s : Int) : Nat := cut 48 (clampInt (-(2 ^ 47 : Nat)) ((2 ^ 47 - 1 : Nat) : Int) (sint 48 acc + s))

/-- A sum added into an A48 accumulator with one rounding (R121, R124). -/
def accFloat (acc : Nat) (s : Val) : Nat :=
  match s with
  | .nan => fmtA48.nan
  | s => fmtA48.round Rnd.rne false ((fmtA48.val acc).add false s)

/-- MMA on the latch: the task after, or FORMAT (R211). -/
def Task.mma (t : Task) (i : Nat) : Option Task :=
  let w0 := tkStep t.image i 0
  let fa := wbits w0 52 4
  let fb := wbits w0 48 4
  let x := t.slot false (wbits w0 46 2)
  let y := t.slot true (wbits w0 44 2)
  let tile := wbits w0 41 3
  if x.fmt ≠ some fa ∨ y.fmt ≠ some fb then none
  else
    let rows := x.rows
    let cols := y.rows
    let code (r : LatchRow) := r.1 % 512
    if blockPair fa fb then
      let sums :=
        if fa = 0 then pairs (partialSum dotInt) (rows.map quarterRow) (cols.map quarterRow)
        else pairs (partialSum dotFp8) (rows.map (finiteRow (matrixFmt fa))) (cols.map (finiteRow (matrixFmt fb)))
      let p : Psum := { unit := if fa = 0 then -4 else -20, ea := rows.map code, eb := cols.map code, sums }
      some { t with psum := some p }
    else
      let acc := tileElems (t.tile tile)
      if fa = 3 ∨ fa = 6 then
        let ints (r : LatchRow) := r.2.map fun c => sint (8 * elemBytes fa) c
        some (t.setTile tile (tileOf (List.zipWith accInt acc (pairs dotInt (rows.map ints) (cols.map ints)))))
      else
        let vals (r : LatchRow) := r.2.map (matrixFmt fa).val
        some (t.setTile tile (tileOf (List.zipWith accFloat acc (pairs dotFloat (rows.map vals) (cols.map vals)))))

/-- SACC: the task after, or PSUM (R212). -/
def Task.sacc (t : Task) (i : Nat) : Option Task :=
  match t.psum with
  | none => none
  | some p =>
    let tile := wbits (tkStep t.image i 0) 41 3
    let scales := pairs (fun a b => (a, b)) p.ea p.eb
    let one (acc : Nat) (x : Option Int × Nat × Nat) : Nat :=
      (scaleAcc fmtA48 Rnd.rne acc x.1 p.unit x.2.1 x.2.2).getD acc
    some ({ t with psum := none }.setTile tile (tileOf (List.zipWith one (tileElems (t.tile tile)) (p.sums.zip scales))))

/-! ## ACVT and ZERO (R213 to R215) -/

/-- Bytes of an output element, or of a half row for FOUT 0. -/
def outBytes (fout : Nat) : Nat :=
  match fout with
  | 0 => 18
  | 1 | 2 | 3 => 1
  | 4 | 5 | 6 => 2
  | 7 | 8 => 4
  | _ => 6

/-- Alignment of an output element (R214). -/
def outAlign (fout : Nat) : Nat := if fout = 0 then 1 else if outBytes fout = 6 then 2 else outBytes fout

/-- An element converted (09 Table 9.8), with its stochastic index. -/
def convertElem (w0 key : Word) (idx : Word) (x : Nat) : Nat :=
  let fout := wbits w0 52 4
  let sat := wbits w0 48 1 == 1
  if fout = 9 then x
  else if wbits w0 47 1 = 1 then
    let n := 8 * outBytes fout
    let v := sint 48 x
    if sat then cut n (clampInt (-(2 ^ (n - 1) : Nat)) ((2 ^ (n - 1) - 1 : Nat) : Int) v) else cut n v
  else
    let f := matrixFmt fout
    f.round ⟨(modeOf (wbits w0 49 3)).getD .rne, key, idx⟩ (sat && f.width == 8) (fmtA48.val x)

/-- A half row quantised into an 18-byte block (09 Table 9.8, R118). -/
def quantiseHalf (xs : List Nat) : List Byte :=
  let q := quantise (xs.map fun x => fmtF32.val (fmtF32.round Rnd.rne false (fmtA48.val x)))
  toBytes (q.1 + 2 ^ 16 * packBits 4 q.2) 18

/-- The bytes of output row r of step i. -/
def Task.outRow (t : Task) (i r : Nat) (xs : List Nat) : List Byte :=
  let w0 := tkStep t.image i 0
  let fout := wbits w0 52 4
  if fout = 0 then quantiseHalf (xs.take 32) ++ quantiseHalf (xs.drop 32)
  else
    let base := tkWord t.image 5 + BitVec.ofNat 64 (wbits w0 0 32 + 64 * r)
    (xs.zipIdx).flatMap fun x =>
      toBytes (convertElem w0 (tkWord t.image 4) (base + BitVec.ofNat 64 x.2) x.1) (outBytes fout)

/-- ACVT: step i with iteration index k (R213, R214). Every check comes before any write. -/
def Task.acvt (t : Task) (i k : Nat) : M Unit := do
  let w0 := tkStep t.image i 0
  let fout := wbits w0 52 4
  let rstride := wbits (tkStep t.image i 3) 0 32
  let elems := (chunkNats 64 64 (tileElems (t.tile (wbits w0 44 3))))
  let ops := elems.zipIdx.map fun x =>
    let row := t.outRow i x.2 x.1
    plainOp (t.panel i k + (x.2 * rstride : Nat)) row.length (.store row)
  match ops.findIdx? fun o => decide (o.va % (outAlign fout : Int) ≠ 0) with
  | none => pure ()
  | some n =>
    let s ← get
    match s.firstFail t.who (ops.take n) with
    | some (_, c, v) => raise c v
    | none => raise causeAlign (wordOf (t.panel i k + (n * rstride : Nat)))
  let _ ← perform t.who ops
where
  /-- A list cut into k pieces of n. -/
  chunkNats (n : Nat) : Nat → List Nat → List (List Nat)
    | 0, _ => []
    | k + 1, l => l.take n :: chunkNats n k (l.drop n)

/-- ZERO: step i (R215). -/
def Task.zero (t : Task) (i : Nat) : Task :=
  let w0 := tkStep t.image i 0
  let t1 := (List.range 8).foldl (fun (t : Task) n => if wbits w0 (48 + n) 1 = 1 then t.setTile n 0 else t) t
  if wbits w0 47 1 = 1 then { t1 with psum := none } else t1

/-! ## One step of a RUNNING task -/

/-- The iteration index of a task's next step: the body's, and 0 elsewhere. -/
def Task.kIndex (t : Task) : Nat :=
  if tkBody0 t.image ≤ t.snext ∧ t.snext ≤ tkBody1 t.image then t.knext else 0

/-- Step i of a task with iteration index k (09 Table 9.3). -/
def Task.runStep (t : Task) (i k : Nat) : M Task := do
  let w := tkStep t.image i
  match wbits (w 0) 56 8 with
  | 1 | 2 => t.load i k
  | 3 =>
    match t.mma i with
    | some t1 => return t1
    | none => raise causeFormat 0
  | 4 =>
    match t.sacc i with
    | some t1 => return t1
    | none => raise causePsum 0
  | 5 => do t.acvt i k; return t
  | 6 => return t.zero i
  | 7 => t.spmask i k
  | _ => do t.transition (wbits (w 1) 0 57) (wbits (w 0) 52 4) (wbits (w 0) 49 3); return t

/-- The step of a task at its position: afterwards it stands at the next one, where requests are acted on. A TRN that has come back
from another device for a request is a park, and the point that the request asked for (R218); it is made anew when the task goes
on. -/
def State.stepTask (s : State) (t : Task) : State :=
  let i := t.snext
  let code := wbits (tkStep t.image i 0) 56 8
  match s.attempt (t.runStep i t.kIndex) with
  | (.ok t1, s1) => ((s1.settle t.who.agent).setTask t1.advance).settleTask t.h
  | (.error (.park key cond va), s1) =>
    (s1.addPark t.ctx (t.park key cond va)).settleTask t.h
  | (.error .stall, s1) => ({ s1 with rix := 0 }).settleTask t.h
  | (.error .ended, s1) => { s1 with rix := 0 }
  | (.error (.trap c v _ _), s1) =>
    let data := code != 8
    if s1.cameBack t.h then
      let s2 := s1.settle t.who.agent
      if t.asked then s2.actOn t else s2
    else if 64 ≤ c then s1.failTaskFree t (taskCause data c) i
    else s1.failTask t (taskCause data c) i (if data then v else BitVec.ofNat 64 (wbits (tkStep t.image i 1) 0 57))
  | (.error .poison, s1) => s1.failTaskFree t 6 i
  | (.error _, s1) => s1.failTaskFree t 7 i

/-- The next step of a task, with a step code: the task RUNNING and not parked. One that owes a status write, or has an
interruption to act on, goes on with that first (R219). -/
def State.taskStep (s : State) (h : Word) (code : Nat) : State :=
  match s.taskOf h with
  | none => s
  | some t =>
    if t.state ≠ .running ∨ s.taskParked h ∨ !t.hasStep ∨ wbits (tkStep t.image t.snext 0) 56 8 ≠ code then s
    else if !t.owes.isEmpty ∨ s.requestDue t then s.goOn t
    else s.stepTask t

/-- R207. -/
def execLda (h : Word) (s : State) : Res := .next (s.taskStep h 1)
/-- R207. -/
def execLdb (h : Word) (s : State) : Res := .next (s.taskStep h 2)
/-- R211. -/
def execMma (h : Word) (s : State) : Res := .next (s.taskStep h 3)
/-- R212. -/
def execSacc (h : Word) (s : State) : Res := .next (s.taskStep h 4)
/-- R213. -/
def execAcvt (h : Word) (s : State) : Res := .next (s.taskStep h 5)
/-- R215. -/
def execZero (h : Word) (s : State) : Res := .next (s.taskStep h 6)
/-- R210. -/
def execSpmask (h : Word) (s : State) : Res := .next (s.taskStep h 7)
/-- R216. -/
def execTrn (h : Word) (s : State) : Res := .next (s.taskStep h 8)

/-! ## Resuming (R220) -/

/-- Steps before the resume point that can still hold in the latch, in order: the prologue, up to two whole iterations, and
the part of the present run that has gone by. -/
def Task.history (t : Task) (i k : Nat) : List (Nat × Nat) :=
  let r := t.image
  let range (lo hi k : Nat) : List (Nat × Nat) := (List.range (hi - lo)).map fun j => (lo + j, k)
  let b0 := tkBody0 r
  let b1 := tkBody1 r + 1
  let whole (n : Nat) : List (Nat × Nat) :=
    (if 2 ≤ n then range b0 b1 (n - 2) else []) ++ (if 1 ≤ n then range b0 b1 (n - 1) else [])
  if i < b0 then range 0 i 0
  else if i < b1 then range 0 b0 0 ++ whole k ++ range b0 i k
  else range 0 b0 0 ++ whole (tkKb r) ++ range b1 i 0

/-- A step writes the panel (code 1 or 2) or the bitmaps (code 7) of a slot of a side. -/
def Task.writes (t : Task) (sideB : Bool) (slot : Nat) (maps : Bool) (x : Nat × Nat) : Bool :=
  let w0 := tkStep t.image x.1 0
  let c := wbits w0 56 8
  wbits w0 50 2 == slot && (if maps then c == 7 && (wbits w0 52 1 == 1) == sideB else c == (if sideB then 2 else 1))

/-- The steps that restore one slot: the bitmaps that govern its last load, the load, the last bitmaps. -/
def Task.restoreSlot (t : Task) (hist : List (Nat × Nat)) (sideB : Bool) (slot : Nat) : List (Nat × Nat) :=
  let last (l : List (Nat × Nat)) (maps : Bool) : List (Nat × Nat) :=
    match l.reverse.find? (t.writes sideB slot maps) with
    | some x => [x]
    | none => []
  let rev := hist.reverse.dropWhile fun x => !t.writes sideB slot false x
  last rev.reverse true ++ last hist false ++ last hist true

/-- A stop, marked with the step that it happened in. -/
def Stop.atStep (i : Nat) : Stop → Stop
  | .trap c v _ r => .trap c v (i + 1) r
  | .poison => .trap causePoison 0 (i + 1) false
  | .mcheck => .trap causeMcheck 0 (i + 1) false
  | e => e

/-- Steps re-executed in turn; a failure is marked with its step. -/
def Task.rerun (t : Task) : List (Nat × Nat) → M Task
  | [] => pure t
  | (i, k) :: l => do
    let t1 ← tryCatch (t.runStep i k) fun e => throw (e.atStep i)
    Task.rerun t1 l

/-- The spill area read back and the latch restored. -/
def Task.restore (t : Task) : M Task := do
  let base := tkSpill t.image
  let r ← perform t.who ((List.range 8).map (fun n => plainOp (base + 24576 * n : Nat) 24576 .load)
    ++ [plainOp (base + spillPos : Nat) 64 .load])
  let pos := ofBytes (r.getD 8 ([], false)).1
  let i := field pos 56 8
  let k := field pos 0 21
  if field pos 21 35 ≠ 0 ∨ pos / 2 ^ 64 ≠ 0 ∨ tkSteps t.image ≤ i ∨ tkKb t.image < k then raise causeSpill 0
  let t1 := { t.clear with acc := Vector.ofFn fun n : Fin 8 => BitVec.ofNat 196608 (ofBytes (r.getD n.val ([], false)).1) }
  let hist := t1.history i k
  let steps := [false, true].flatMap fun side => (List.range 4).flatMap fun n => t1.restoreSlot hist side n
  let t2 ← t1.rerun steps
  return { t2 with snext := i, knext := k, suspendReq := false }

/-- An interrupted task resumes on an engine that it has been given (R220). A check that fails while the spill area is read
has no failing step: WHERE is a free value then. -/
def State.resumeTask (s : State) (t : Task) : State :=
  match s.attempt t.restore with
  | (.ok t1, s1) => ((s1.settle t.who.agent).giveEngine t1).1.settleTask t.h
  | (.error .stall, s1) => { s1 with rix := 0 }
  | (.error .ended, s1) => { s1 with rix := 0 }
  | (.error (.trap c v sub _), s1) =>
    let (s2, place) := if sub = 0 then (s1.nextTick, s.freeWord.toNat % 256) else (s1, sub - 1)
    if 64 ≤ c ∨ c = causeMcheck then s2.failTaskFree t (taskCause true c) place else s2.failTask t (taskCause true c) place v
  | (.error .poison, s1) =>
    s1.nextTick.failTask t 6 (s.freeWord.toNat % 256) (BitVec.ofNat 64 (s1.firstPoison t (tkSpill t.image) (spillPos + 64)))
  | (.error _, s1) => s1.nextTick.failTaskFree t 7 (s.freeWord.toNat % 256)

/-- R220, R422: the next task of a cluster resumes, when it is INTERRUPTED and an engine is free. -/
def execTaskResume (cluster : Nat) (s : State) : Res :=
  match s.nextTask cluster with
  | none => .next s
  | some t =>
    if t.state ≠ .interrupted then .next s
    else if 8 ≤ s.enginesUsed cluster then .next (s.requestEngine t)
    else .next (s.resumeTask t)

end Sys2Proof.Machine
end

