-- ==== Sys2Proof/Machine/Rejudge.lean ====
section
/-! DEFINITION. Parked accesses: when one can be performed, performing it, and PARK_LIMIT (16 R347 to R350, 20 R411, R412,
R415). -/
namespace Sys2Proof.Machine

/-! ## When a parked access can be performed -/

/-- The chute of a launch. -/
def State.chuteOf (s : State) (serial i : Nat) : Option (Launch × Chute) :=
  match s.launchOf serial with
  | none => none
  | some l => (l.chutes[i]?).map fun c => (l, c)

/-- A parked open is first in its queue, and its slot is ready or it can never be served (R415). -/
def State.openReady (s : State) (p : Park) (serial i : Nat) (put : Bool) : Bool :=
  (s.chuteQueue serial i put).head? == some p
    && (match s.chuteOf serial i with
        | none => false
        | some (l, c) =>
          l.deadOpen i c put
            || (s.slotReady c put && !s.lineMoving (c.lines.getD (c.nextSlot put) 0)))

/-- Word k of a line. -/
def State.lineWord (s : State) (line k : Nat) : Nat := (s.readWord (64 * line + 8 * k)).toNat

/-- The parked access can be performed now: its transition is legal (or no longer parks), the barrier is complete, the
count is reached, the slot is ready. -/
def State.parkReady (s : State) (p : Park) : Bool :=
  match p.key, p.cond with
  | .line n, .staged ctx trn kind =>
    !s.lineMoving n
      && (match s.judge ctx n trn kind with
          | .park => false
          | _ => true)
  | .line n, .barrier => barrierComplete (s.lineWord n 0) (s.lineWord n 1)
  | .line n, .watermark target => decide (target ≤ s.lineWord n 0)
  | .chute serial i put, _ => s.openReady p serial i put
  | .line _, .slot => false

/-- The first parked access that can be performed, in order of entry (R347). -/
def State.firstReady (s : State) : Option Nat := s.parks.findIdx? fun p => s.parkReady p

/-! ## Performing it -/

/-- The word of a parked instruction. -/
def Park.word (p : Park) : Word := wordAt p.pkt 0

/-- A word of a line, by its physical number, goes to GR(D), and the wait on the line ends; a poisoned line raises POISON. -/
def waitDone (line k : Nat) (d : BitVec 5) : M Unit := do
  let s ← get
  if s.linePoisoned line then throw .poison
  change fun s => s.setG d (s.readWord (64 * line + 8 * k))
  complete

/-- What a sequencer's parked instruction does when it is performed. -/
def Park.finish (p : Park) (s : State) : M Unit :=
  let w := p.word
  match p.key with
  | .line n =>
    let pa := 64 * n + p.va % 64
    match p.cond with
    | .barrier => waitDone n 2 (rrOf w).d
    | .watermark _ => waitDone n 0 (rrOf w).d
    | _ =>
      if opOf w = 0x68 then (sldIns (w.extractLsb' 50 2) (sgOf w)).finish p.va pa
      else if opOf w = 0x69 then (sstIns (w.extractLsb' 50 2) (sgOf w) s).finish p.va pa
      else (strnIns (sgOf w)).finish p.va pa
  | .chute serial i put => do
    match s.chuteOf serial i with
    | none => throw .stall
    | some (l, c) =>
      if l.deadOpen i c put then change fun s => s.setG (rrOf w).d 0
      else do
        controlCheck l i (c.nextSlot put)
        drainOwn
        change fun s => s.openSlot l i c put (rrOf w).d
      complete

/-- The parked instruction of the acting sequencer is performed. -/
def State.finishSeq (s : State) (p : Park) : State :=
  match p.finish s s with
  | (.ok _, t) => t.settle s.agent
  | (.error st, t) => s.stopShort p.word st t

/-- A parked access of a task: its wait entry, its TRN step, or its signal. -/
def State.finishTask (s : State) (t : Task) : State :=
  match t.state with
  | .queued => s.waitEntry t
  | .running => s.stepTask t
  | .done => s.doneSignals t t.nextSig
  | .failed | .cancelled => s.failSignals t 8 t.nextSig
  | .ready | .interrupted => s.unparkTask t.h

/-- A parked request of another device is performed and answered (R352). -/
def State.finishRemote (s : State) (p : Park) (line : Nat) : State :=
  let q := Packet.parse p.pkt
  match s.exportCtx q.src q.win with
  | none => s.respond q causeProt []
  | some ctx =>
    let w := s.remoteWho q ctx
    let kind := q.op / 64
    let n := sizeBytes (q.op % 4)
    let act : StagedAct :=
      if kind = kindLoad then .load n else if kind = kindStore then .store (q.payload.take n) else .none
    match s.attempt (stagedNow w p.va (64 * line + p.va % 64) (q.op / 4 % 16) kind act) with
    | (.ok r, t) => (t.settle w.agent).respond q 0 (if kind = kindLoad then r.2 else toBytes r.1 8)
    | (.error st, t) => (t.settle w.agent).respond q st.status []

/-- The state without parked access number n. -/
def State.unpark (s : State) (n : Nat) : State := { s with parks := s.parks.eraseIdx n }

/-- The parked access number n is performed (DEDUCED, log 22). -/
def State.performPark (s : State) (n : Nat) : State :=
  match s.parks[n]? with
  | none => s
  | some p =>
    match p.agent with
    | .seq c q => (s.unpark n).withFocus c q fun t => t.finishSeq p
    | .task h =>
      match s.taskOf h with
      | some t => s.finishTask t
      | none => s.unpark n
    | .cmd id =>
      match s.cmdOf id with
      | some c => s.finishCmd c
      | none => s.unpark n
    | .launch serial =>
      match s.launchOf serial with
      | some l => s.finishLaunch l
      | none => s.unpark n
    | .remote _ _ _ =>
      match p.key with
      | .line line => (s.unpark n).finishRemote p line
      | .chute _ _ _ => s.unpark n
    | .fetch _ _ | .queue _ _ | .firmware => s.unpark n

/-! ## Events -/

/-- The line that a parked access waits at: for an open, the control line of the slot next in turn. -/
def State.parkLine (s : State) (p : Park) : Nat :=
  match p.key with
  | .line n => n
  | .chute serial i put =>
    match s.chuteOf serial i with
    | some (_, c) => c.lines.getD (c.nextSlot put) 0
    | none => 0

/-- R347: the first access parked on a line that is legal now is performed. -/
def execParkRejudge (line : Nat) (s : State) : Res :=
  match s.parks.findIdx? fun p => s.parkLine p == line && s.parkReady p with
  | some n => .next (s.performPark n)
  | none => .next s

/-- A wait of a kind, parked at number n, is over. -/
def State.wake (s : State) (n : Nat) (isKind : ParkCond → Bool) : State :=
  match s.parks[n]? with
  | some p => if isKind p.cond && s.parkReady p then s.performPark n else s
  | none => s

/-- R411: a parked `bwait` finds its barrier complete. -/
def execBarrierWaitWake (n : Nat) (s : State) : Res := .next (s.wake n fun c => c == .barrier)

/-- R412: a parked `wmbind` finds its count reached. -/
def execWatermarkWaitWake (n : Nat) (s : State) : Res :=
  .next (s.wake n fun c =>
    match c with
    | .watermark _ => true
    | _ => false)

/-- R349, R415: a sequencer's parked access has waited PARKLIM cycles: it leaves the FIFO and traps. -/
def State.limitPark (s : State) (n : Nat) (p : Park) : State :=
  match p.agent with
  | .seq c q =>
    if p.lim = 0 then s
    else
      let va := match p.key with
        | .line _ => p.va
        | .chute serial i put =>
          match s.chuteOf serial i with
          | some (l, ch) => slotLine l.image i ((ch.counter put + (s.parks.take n).countP fun x => x.key == p.key) % ch.lines.length)
          | none => p.va
      (s.unpark n).withFocus c q fun t => t.takeTrap (t.causeOf p.word causeParkLimit (BitVec.ofNat 64 va) 0 false)
  | _ => s

/-- The word is of `bwait` or `wmbind`. -/
def isLineWait (w : Word) : Bool := (opOf w == 0x66 && fnOf w == 2) || (opOf w == 0x95 && fnOf w == 0)

/-- R350, R411, R412: the bound of an access to another device's line is counted at its source. A staged one is asked back; a
`bwait` or `wmbind`, whose reads have no effect, leaves its wait and traps. -/
def State.limitRemote (s : State) (r : Remote) : State :=
  match r.agent with
  | .seq c q =>
    let h := s.hartAt c q
    match h.held with
    | some w =>
      if wbits h.parklim 0 48 = 0 then s
      else if r.open then s.withdraw false fun x => x == r
      else if isLineWait w && h.waiting then
        s.withFocus c q fun t => t.endInstr.takeTrap (t.causeOf w causeParkLimit (t.rg (rrOf w).a) 0 false)
      else s
    | none => s
  | _ => s

/-- R349, R350: PARK_LIMIT of the parked access number n, or, from the number of parked accesses on, of the remote access
that follows. -/
def execParkLimit (n : Nat) (s : State) : Res :=
  match s.parks[n]? with
  | some p => .next (s.limitPark n p)
  | none =>
    match s.remotes[n - s.parks.length]? with
    | some r => .next (s.limitRemote r)
    | none => .next s

end Sys2Proof.Machine
end

