-- ==== Sys2Proof/Machine/Batch.lean ====
section
/-! DEFINITION. `batch` (17 R362, R368). -/
namespace Sys2Proof.Machine

/-- A zero-size command as it is accepted (R368): a transducer run writes its counts first; then status and signal. -/
def State.zeroCmd (s : State) (c : Cmd) : State :=
  if c.phase = .work then
    let work (t : State) : State :=
      t.workCmd c.id 5 fun x => if x.isRun then x.runBody else pure { x with phase := .complete }
    let s1 := work (work s)
    match s1.cmdOf c.id with
    | some c1 => s1.finishCmd c1
    | none => s1
  else s.finishCmd c

/-- Parked accesses that a transition has made legal are performed, each judged against the state that the one before leaves
(R347); fuel bounds their number. -/
def State.settleParks (s : State) : Nat → State
  | 0 => s
  | fuel + 1 =>
    match s.firstReady with
    | some n => (s.performPark n).settleParks fuel
    | none => s

/-- Judges the active commands in turn (R362): the mask bits, and the state after. Accesses parked on the line of a command
that is over at once are judged again before the next (R347). One that ends the context ends the
instruction. -/
def judgeAll : List (Nat × Option (List Word)) → M (List (Nat × Bool))
  | [] => pure []
  | (i, none) :: t => do
    let rest ← judgeAll t
    return (i, false) :: rest
  | (i, some r) :: t => do
    let s ← get
    let x := s.judgeRecord State.zeroCmd r
    set (if (cwSize r) = 0 then x.2.settleParks (x.2.parks.length + 1) else x.2)
    unlessEnded s s.hart.ctx
    let rest ← judgeAll t
    return (i, x.1) :: rest

/-- R362. -/
def execBatch (f : BtF) (s : State) : Res :=
  let w := encBt 0x88 0 f
  s.run w do
    let regs := (List.range 8).map (f.a.toNat + ·)
    vecIssue .batch w regs []
    let n := (s.rg f.b).toNat
    let v := s.hart.vec
    if 64 < n ∨ v.vlmax / 64 < n then raise causeIllegal w
    let act := onesBelow (v.governing f.msk f.mn) n
    if regs.any fun k => v.hits k 64 act then throw .poison
    drainOwn
    let bits ← judgeAll ((List.range n).map fun i =>
      (i, if act.contains i then some (regs.map fun k => BitVec.ofNat 64 (v.elem k i 64)) else none))
    change fun s => s.setVec { s.hart.vec.writeMask (f.d.setWidth 3) bits with vstart := 0 }
    complete

end Sys2Proof.Machine
end

