-- ==== Sys2Proof/Machine/Scalar.lean ====
section
/-! DEFINITION. Scalar arithmetic, bit-field, count and constant instructions (06 R130 to R140, R145, R147). -/
namespace Sys2Proof.Machine

/-- GR(r) is written and the instruction completes (R130, R149). -/
def State.writeG (s : State) (r : BitVec 5) (v : Word) : Res := .next (s.setG r v).advance

/-- R132: trunc(a + b, 64). -/
def execAdd (f : RrF) (s : State) : Res := s.writeG f.d (s.rg f.a + s.rg f.b)
/-- R132: trunc(a - b, 64). -/
def execSub (f : RrF) (s : State) : Res := s.writeG f.d (s.rg f.a - s.rg f.b)
/-- R132: trunc(a x b, 64). -/
def execMul (f : RrF) (s : State) : Res := s.writeG f.d (s.rg f.a * s.rg f.b)
/-- R132: the high half of the signed product. -/
def execMulh (f : RrF) (s : State) : Res :=
  s.writeG f.d (BitVec.ofInt 64 ((s.rg f.a).toInt * (s.rg f.b).toInt / 2 ^ 64))
/-- R132: the high half of the natural product. -/
def execMulhn (f : RrF) (s : State) : Res :=
  s.writeG f.d (BitVec.ofNat 64 ((s.rg f.a).toNat * (s.rg f.b).toNat / 2 ^ 64))

/-- R133: signed quotient, toward zero. -/
def divWord (a b : Word) : Word := if b = 0 then BitVec.allOnes 64 else BitVec.ofInt 64 (a.toInt.tdiv b.toInt)
/-- R133: natural quotient. -/
def divnWord (a b : Word) : Word := if b = 0 then BitVec.allOnes 64 else BitVec.ofNat 64 (a.toNat / b.toNat)
/-- R133: signed remainder, with the sign of the dividend. -/
def remWord (a b : Word) : Word := if b = 0 then a else BitVec.ofInt 64 (a.toInt.tmod b.toInt)
/-- R133: natural remainder. -/
def remnWord (a b : Word) : Word := if b = 0 then a else BitVec.ofNat 64 (a.toNat % b.toNat)

/-- R133. -/
def execDiv (f : RrF) (s : State) : Res := s.writeG f.d (divWord (s.rg f.a) (s.rg f.b))
/-- R133. -/
def execDivn (f : RrF) (s : State) : Res := s.writeG f.d (divnWord (s.rg f.a) (s.rg f.b))
/-- R133. -/
def execRem (f : RrF) (s : State) : Res := s.writeG f.d (remWord (s.rg f.a) (s.rg f.b))
/-- R133. -/
def execRemn (f : RrF) (s : State) : Res := s.writeG f.d (remnWord (s.rg f.a) (s.rg f.b))

/-- R132. -/
def execAnd (f : RrF) (s : State) : Res := s.writeG f.d (s.rg f.a &&& s.rg f.b)
/-- R132. -/
def execOr (f : RrF) (s : State) : Res := s.writeG f.d (s.rg f.a ||| s.rg f.b)
/-- R132. -/
def execXor (f : RrF) (s : State) : Res := s.writeG f.d (s.rg f.a ^^^ s.rg f.b)
/-- R132: a & ~b. -/
def execAndn (f : RrF) (s : State) : Res := s.writeG f.d (s.rg f.a &&& ~~~ (s.rg f.b))

/-- A shift count: bits [5:0] (06). -/
def shiftCount (b : Word) : Nat := b.toNat % 64

/-- R132: shift left by b[5:0]. -/
def execShl (f : RrF) (s : State) : Res := s.writeG f.d (s.rg f.a <<< shiftCount (s.rg f.b))
/-- R132: natural shift right by b[5:0]. -/
def execShr (f : RrF) (s : State) : Res := s.writeG f.d (s.rg f.a >>> shiftCount (s.rg f.b))
/-- R132: signed shift right by b[5:0]. -/
def execSra (f : RrF) (s : State) : Res := s.writeG f.d ((s.rg f.a).sshiftRight (shiftCount (s.rg f.b)))
/-- R132: rotate left by b[5:0]. -/
def execRotl (f : RrF) (s : State) : Res := s.writeG f.d ((s.rg f.a).rotateLeft (shiftCount (s.rg f.b)))

/-- R132: the signed lesser. -/
def execMin (f : RrF) (s : State) : Res :=
  s.writeG f.d (if (s.rg f.a).toInt ≤ (s.rg f.b).toInt then s.rg f.a else s.rg f.b)
/-- R132: the signed greater. -/
def execMax (f : RrF) (s : State) : Res :=
  s.writeG f.d (if (s.rg f.a).toInt ≥ (s.rg f.b).toInt then s.rg f.a else s.rg f.b)
/-- R132: the natural lesser. -/
def execMinn (f : RrF) (s : State) : Res :=
  s.writeG f.d (if (s.rg f.a).toNat ≤ (s.rg f.b).toNat then s.rg f.a else s.rg f.b)
/-- R132: the natural greater. -/
def execMaxn (f : RrF) (s : State) : Res :=
  s.writeG f.d (if (s.rg f.a).toNat ≥ (s.rg f.b).toNat then s.rg f.a else s.rg f.b)

/-- R134: a when GR(C) is not zero, else b. -/
def execSel (f : RrF) (s : State) : Res := s.writeG f.d (if s.rg f.c ≠ 0 then s.rg f.a else s.rg f.b)
/-- R134: the upper half of a:b shifted left by GR(C)[5:0]. -/
def execFshl (f : RrF) (s : State) : Res :=
  let n := shiftCount (s.rg f.c)
  s.writeG f.d (s.rg f.a <<< n ||| s.rg f.b >>> (64 - n))
/-- R134: the lower half of a:b shifted right by GR(C)[5:0]. -/
def execFshr (f : RrF) (s : State) : Res :=
  let n := shiftCount (s.rg f.c)
  s.writeG f.d (s.rg f.b >>> n ||| s.rg f.a <<< (64 - n))

/-- R135. -/
def execAddi (f : RiF) (s : State) : Res := s.writeG f.d (s.rg f.a + RiF.wimm f)
/-- R135. -/
def execAndi (f : RiF) (s : State) : Res := s.writeG f.d (s.rg f.a &&& RiF.wimm f)
/-- R135. -/
def execOri (f : RiF) (s : State) : Res := s.writeG f.d (s.rg f.a ||| RiF.wimm f)
/-- R135. -/
def execXori (f : RiF) (s : State) : Res := s.writeG f.d (s.rg f.a ^^^ RiF.wimm f)
/-- R135; counts above 63 do not decode. -/
def execShli (f : RiF) (s : State) : Res := s.writeG f.d (s.rg f.a <<< f.imm.toNat)
/-- R135. -/
def execShri (f : RiF) (s : State) : Res := s.writeG f.d (s.rg f.a >>> f.imm.toNat)
/-- R135. -/
def execSrai (f : RiF) (s : State) : Res := s.writeG f.d ((s.rg f.a).sshiftRight f.imm.toNat)
/-- R135. -/
def execRotli (f : RiF) (s : State) : Res := s.writeG f.d ((s.rg f.a).rotateLeft f.imm.toNat)

/-- R136: bits [pos + len - 1 : pos], zero-extended. -/
def execBext (f : RiF) (s : State) : Res :=
  s.writeG f.d (BitVec.ofNat 64 (field (s.rg f.a).toNat (RiF.pos f) (RiF.len f)))

/-- R136: the word with the low `len` bits of a in place at `pos`. -/
def binsWord (old a : Word) (pos len : Nat) : Word :=
  let mask := BitVec.ofNat 64 ((2 ^ len - 1) * 2 ^ pos)
  (old &&& ~~~ mask) ||| ((BitVec.ofNat 64 (a.toNat % 2 ^ len) <<< pos) &&& mask)

/-- R136: `bins` reads its destination's old value. -/
def execBins (f : RiF) (s : State) : Res :=
  s.writeG f.d (binsWord (s.rg f.d) (s.rg f.a) (RiF.pos f) (RiF.len f))

/-- R137: leading zeros. -/
def execClz (f : RrF) (s : State) : Res := s.writeG f.d (BitVec.ofNat 64 (leadZeros (s.rg f.a).toNat 64))
/-- R137: trailing zeros. -/
def execCtz (f : RrF) (s : State) : Res := s.writeG f.d (BitVec.ofNat 64 (trailZeros (s.rg f.a).toNat 64))
/-- R137: 1 bits. -/
def execPopc (f : RrF) (s : State) : Res := s.writeG f.d (BitVec.ofNat 64 (popBits (s.rg f.a).toNat 64))

/-- R147: INDEX of entry j, 0 beyond LDEPTH. -/
def execRdls (f : RrF) (s : State) : Res :=
  s.writeG f.d ((s.hart.loops[f.a.toNat]?.map Loop.index).getD 0)

/-- R138. -/
def execSetc (cc : BitVec 3) (f : RrF) (s : State) : Res :=
  s.writeG f.d (if wordCond cc (s.rg f.a) (s.rg f.b) then 1 else 0)

/-- R139: trunc(sext(IMM45, 45), 64). -/
def execLi (f : LiF) (s : State) : Res := s.writeG f.d (f.imm.signExtend 64)
/-- R139: bits [63:45] replaced. -/
def execLih (f : LiF) (s : State) : Res :=
  s.writeG f.d ((f.imm.setWidth 64 <<< 45) ||| (s.rg f.d &&& 0x1FFFFFFFFFFF#64))

/-- R140: PC is the address of the instruction. -/
def execPcadd (f : RiF) (s : State) : Res := s.writeG f.d (s.hart.pc + RiF.wimm f)

/-- R145: no change but the PC. -/
def execNop (_f : RrF) (s : State) : Res := .next s.advance

end Sys2Proof.Machine
end

