-- ==== Sys2Proof/Machine/Control.lean ====
section
/-! DEFINITION. Branches, jumps and the hardware loop stack (06 R141 to R154). -/
namespace Sys2Proof.Machine

/-- A transfer of control of word w: refused at a body's last address (R150). -/
def State.transferTo (s : State) (w : Word) (go : State) : Res :=
  if s.hart.atLoopEnd then .next (s.trapWord w causeIllegal) else .next go

/-- A jump to t from the PC; a target below the jump itself is a landing point (R437). -/
def State.jumpTo (s : State) (t : Word) : State := s.jump t (decide (t.toNat < s.hart.pc.toNat))

/-- R141: a branch that is not taken goes to PC + 8. -/
def execBc (cc : BitVec 3) (f : BrF) (s : State) : Res :=
  s.transferTo (encBr 0x18 (cc.setWidth 6) f)
    (if wordCond cc (s.rg f.a) (s.rg f.b) then s.jumpTo (branchTarget s.hart.pc f.off)
     else s.jump (s.hart.pc + 8) false)

/-- R142. -/
def execJ (f : BrF) (s : State) : Res :=
  s.transferTo (encBr 0x19 0 f) (s.jumpTo (branchTarget s.hart.pc f.off))

/-- R142: GR(D) is PC + 8. -/
def execJl (f : BrF) (s : State) : Res :=
  s.transferTo (encBr 0x1A 0 f) ((s.jump (branchTarget s.hart.pc f.off) false).setG f.d (s.hart.pc + 8))

/-- R143: the target is read before GR(D) is written, and must be a multiple of 8. -/
def execJr (f : RrF) (s : State) : Res :=
  let t := s.rg f.a
  s.transferTo (encRr 0x1B 0 f)
    (if t.toNat % 8 ≠ 0 then s.takeTrap (s.causeOf (encRr 0x1B 0 f) causeAlign t 0 false)
     else (s.jumpTo t).setG f.d (s.hart.pc + 8))

/-- The innermost entry whose H is the present handling() (R148). -/
def Hart.topLoop (h : Hart) : Option Loop := h.loops.find? fun e => e.h == h.handling

/-- R148. LAST and FIRST have 57 bits (06 Table 6.4): of an address at or above 2^57 they keep the low 57 (DESIGN CHOICE,
log 63). -/
def execLoop (f : BrF) (s : State) : Res :=
  let h := s.hart
  let w := encBr 0x1C 0 f
  let last := h.pc + f.off.setWidth 64 <<< 3
  s.transferTo w
    (if s.rg f.a = 0 then s.jump (last + 8) false
     else if h.loops.length ≥ 6 then s.trapWord w causeIllegal
     else if (match h.topLoop with
              | some t => decide (t.last.toNat < last.toNat)
              | none => false) then s.trapWord w causeIllegal
     else
       let e : Loop :=
         { h := h.handling, last := last.setWidth 57, first := (h.pc + 8).setWidth 57, count := s.rg f.a, index := 0 }
       let s1 := s.jump (h.pc + 8) true
       { s1 with hart := { s1.hart with loops := e :: s1.hart.loops } })

/-- R151: the innermost loop is left, and the loop-end step runs at its LAST for the others. -/
def execLbrk (f : RrF) (s : State) : Res :=
  match s.hart.loops with
  | [] => .next (s.trapWord (encRr 0x1D 0 f) causeIllegal)
  | e :: t =>
    if e.h ≠ s.hart.handling then .next (s.trapWord (encRr 0x1D 0 f) causeIllegal)
    else
      let r := loopEnd s.hart.handling (e.last.setWidth 64) t
      let s1 := s.jump r.2.1 r.2.2
      .next { s1 with hart := { s1.hart with loops := r.1 } }

end Sys2Proof.Machine
end

