-- ==== Sys2Proof/Machine/Relational.lean ====
section
/-! DEFINITION. The column instructions that move or produce rows (11 R256 to R264). -/
namespace Sys2Proof.Machine

/-! ## `cld` and `cst` -/

/-- R256: rows of active elements, loaded all or none; a poisoned row poisons the groups that receive it (R251). -/
def execCld (f : ClF) (s : State) : Res :=
  let w := encCl 0x71 0 f
  s.run w do
    let a := s.hart.col f.a
    let ew := widthOf a.ew
    colIssue w [] [(f.a, a)] true 0 [f.d.toNat] [ew] false
    let v := s.hart.vec
    let first := (s.rg f.b).toNat
    let es := v.active (f.c.setWidth 3) 0
    let inside := es.filter fun e => decide (first + e < a.len)
    let rs ← perform s.me (inside.map fun e => a.rowOp (first + e) false .load)
    change fun s => s.setG f.lreg (BitVec.ofNat 64 (min v.vl (a.len - first)))
    vecDone fun v => v.loadElems f.d ew es (rs ++ List.replicate (es.length - rs.length) ([], false))

/-- R257: CURA is the next element. An element is consumed as it is found, the first that does not fit among them, and none after it
(DESIGN CHOICE, log 76). -/
def execCst (f : ClF) (s : State) : Res :=
  let w := encCl 0x72 0 f
  s.run w do
    let d := s.hart.col f.d
    let ew := widthOf d.ew
    let cont := ownCont 0x72 f
    colIssue w [(f.d, d)] [] true cont [f.a.toNat] [ew] false
    let v := s.hart.vec
    let mask := v.mr (f.c.toNat % 8)
    let next (p : Point) : M (Option Row) :=
      match (onesBelow mask v.vl).find? fun e => decide (p.cura ≤ e ∧ v.vstart ≤ e) with
      | none => pure none
      | some e => do
        if v.hits f.a.toNat ew [e] then throw .poison
        return some { pt := ⟨e, 0, 0, 0⟩, vals := [(0, v.elem f.a.toNat e ew)], after := ⟨e + 1, 0, 0, 0⟩ }
    appendBody w f cont [(f.d, d)] ⟨v.vstart, 0, 0, 0⟩
      (fun s => s.setVec { s.hart.vec with vstart := 0 }) next

/-! ## `csel` and `cprj` -/

/-- Scans input rows i up to n for the next one that yields a value; `from_` is the cursor at the scan's start (R258). -/
def scanRows (test : Nat → M (Option Nat)) (from_ : Nat) : Nat → Nat → M (Option Row)
  | 0, _ => pure none
  | fuel + 1, i => do
    match ← test i with
    | some x => return some { pt := ⟨from_, 0, 0, 0⟩, vals := [(0, x)], after := ⟨i + 1, 0, 0, 0⟩ }
    | none => scanRows test from_ fuel (i + 1)

/-- The stream of rows i < n that pass a test, from a cursor on. -/
def testedRows (test : Nat → M (Option Nat)) (n : Nat) (p : Point) : M (Option Row) :=
  scanRows test p.cura (n - p.cura) p.cura

/-- R258, KIND 0: each row of A against GR(B). -/
def execCselScalar (f : ClF) (s : State) : Res :=
  let w := encCl 0x76 0 f
  s.run w do
    let d := s.hart.col f.d
    let a := s.hart.col f.a
    let cont := ownCont 0x76 f
    colIssue w [(f.d, d)] [(f.a, a)] (d.pos && !cmpForbidden a.ty f.cmp.toNat) cont [] [] true
    let y := (s.rg f.b).toNat % 2 ^ widthOf a.ew
    let test (i : Nat) : M (Option Nat) := do
      let x ← readRow a i
      return if keyCond a.ew a.ty f.cmp.toNat x y then some i else none
    appendBody w f cont [(f.d, d)] .start id (testedRows test a.len)

/-- R258, KIND 1: rows of A against rows of B. -/
def execCselColumn (f : ClF) (s : State) : Res :=
  let w := encCl 0x76 0 f
  s.run w do
    let d := s.hart.col f.d
    let a := s.hart.col f.a
    let b := s.hart.col f.b
    let cont := ownCont 0x76 f
    colIssue w [(f.d, d)] [(f.a, a), (f.b, b)]
      (d.pos && a.ew == b.ew && a.ty == b.ty && !cmpForbidden a.ty f.cmp.toNat) cont [] [] true
    let test (i : Nat) : M (Option Nat) := do
      let x ← readRow a i
      let y ← readRow b i
      return if keyCond a.ew a.ty f.cmp.toNat x y then some i else none
    appendBody w f cont [(f.d, d)] .start id (testedRows test (min a.len b.len))

/-- R258, KIND 2: the rows of A that a position list names, in its order. -/
def execCselList (f : ClF) (s : State) : Res :=
  let w := encCl 0x76 0 f
  s.run w do
    let d := s.hart.col f.d
    let a := s.hart.col f.a
    let c := s.hart.col f.c
    let cont := ownCont 0x76 f
    colIssue w [(f.d, d)] [(f.a, a), (f.c, c)] (d.pos && c.pos && !cmpForbidden a.ty f.cmp.toNat) cont [] [] true
    let y := (s.rg f.b).toNat % 2 ^ widthOf a.ew
    let test (j : Nat) : M (Option Nat) := do
      let p ← readRow c j
      if p < a.len then do
        let x ← readRow a p
        return if keyCond a.ew a.ty f.cmp.toNat x y then some p else none
      else return none
    appendBody w f cont [(f.d, d)] .start id (testedRows test c.len)

/-- R259: one row for each position; a position past LEN(A) gives a row of zeros. -/
def execCprj (f : ClF) (s : State) : Res :=
  let w := encCl 0x77 0 f
  s.run w do
    let d := s.hart.col f.d
    let a := s.hart.col f.a
    let b := s.hart.col f.b
    let cont := ownCont 0x77 f
    colIssue w [(f.d, d)] [(f.a, a), (f.b, b)] (b.pos && d.ew == a.ew && d.ty == a.ty && d.pos == a.pos) cont [] [] false
    let test (j : Nat) : M (Option Nat) := do
      let p ← readRow b j
      if p < a.len then do
        let x ← readRow a p
        return some x
      else return some 0
    appendBody w f cont [(f.d, d)] .start id (testedRows test b.len) fun p =>
      if p.cura < b.len then some ⟨p.cura, 0, 0, 0⟩ else none

/-! ## Joins (R260) -/

/-- The next r from `from_` on with cmp(x, B[r]); fuel bounds the scan. -/
def matchRight (a b : Desc) (cc x : Nat) : Nat → Nat → M (Option Nat)
  | 0, _ => pure none
  | fuel + 1, r => do
    let y ← readRow b r
    if keyCond a.ew a.ty cc x y then return some r else matchRight a b cc x fuel (r + 1)

/-- The next pair from (l, r) on; fuel bounds the left rows. -/
def nextPair (a b : Desc) (cc : Nat) : Nat → Nat → Nat → M (Option Row)
  | 0, _, _ => pure none
  | fuel + 1, l, r => do
    let x ← readRow a l
    match ← matchRight a b cc x (b.len - r) r with
    | some r' => return some { pt := ⟨l, r', 0, 0⟩, vals := [(0, l), (1, r')], after := ⟨l, r' + 1, 0, 0⟩ }
    | none => nextPair a b cc fuel (l + 1) 0

/-- R260, KIND 0. -/
def execCjoinInner (f : ClF) (s : State) : Res :=
  let w := encCl 0x78 0 f
  s.run w do
    let d := s.hart.col f.d
    let c := s.hart.col f.c
    let a := s.hart.col f.a
    let b := s.hart.col f.b
    let cont := ownCont 0x78 f
    colIssue w [(f.d, d), (f.c, c)] [(f.a, a), (f.b, b)]
      (d.pos && c.pos && a.ew == b.ew && a.ty == b.ty && !cmpForbidden a.ty f.cmp.toNat) cont [] [] true
    appendBody w f cont [(f.d, d), (f.c, c)] .start id
      (fun p => nextPair a b f.cmp.toNat (a.len - p.cura) p.cura p.curb)

/-- The semi join, and the anti join when `anti` holds (R260, KIND 1 and 2). -/
def halfJoin (w : Word) (f : ClF) (anti : Bool) (s : State) : Res :=
  s.run w do
    let d := s.hart.col f.d
    let a := s.hart.col f.a
    let b := s.hart.col f.b
    let cont := ownCont 0x78 f
    colIssue w [(f.d, d)] [(f.a, a), (f.b, b)] (d.pos && a.ew == b.ew && a.ty == b.ty) cont [] [] true
    let test (l : Nat) : M (Option Nat) := do
      let x ← readRow a l
      let r ← matchRight a b 0 x b.len 0
      return if r.isSome != anti then some l else none
    appendBody w f cont [(f.d, d)] .start id (testedRows test a.len)

/-- R260, KIND 1. -/
def execCjoinSemi (f : ClF) (s : State) : Res := halfJoin (encCl 0x78 0 f) f false s
/-- R260, KIND 2. -/
def execCjoinAnti (f : ClF) (s : State) : Res := halfJoin (encCl 0x78 0 f) f true s

/-! ## Groups and aggregates -/

/-- R261: a row appends its run number, and its position when it starts a run; AUX counts the runs started. A row is read before its
room is judged, row 0 too, which starts a run whatever it holds (DESIGN CHOICE, log 76). -/
def nextRun (a : Desc) (p : Point) : M (Option Row) := do
  if p.cura < a.len then
    let x ← readRow a p.cura
    let starts ← if p.cura = 0 then pure true
      else do
        let y ← readRow a (p.cura - 1)
        pure (!keyEq a.ew a.ty x y)
    let runs := p.aux + bit starts
    return some
      { pt := ⟨p.cura, 0, 0, p.aux⟩, vals := (0, runs - 1) :: (if starts then [(1, p.cura)] else [])
        after := ⟨p.cura + 1, 0, 0, runs⟩ }
  else return none

/-- R261. -/
def execCgrp (f : ClF) (s : State) : Res :=
  let w := encCl 0x79 0 f
  s.run w do
    let d := s.hart.col f.d
    let c := s.hart.col f.c
    let a := s.hart.col f.a
    let cont := ownCont 0x79 f
    colIssue w [(f.d, d), (f.c, c)] [(f.a, a)] (d.ew == 3 && d.ty == 0 && !d.pos && c.pos) cont [] [] true
    appendBody w f cont [(f.d, d), (f.c, c)] .start id (nextRun a) fun p =>
      if p.cura < a.len then some ⟨p.cura, 0, 0, p.aux⟩ else none

/-- The operations of 11 Table 11.4. -/
inductive Agg where
  | cnt
  | sum
  | min
  | max
  deriving DecidableEq, Repr

/-- The D type that an operation requires (11 Table 11.4). -/
def Agg.typed (o : Agg) (d a : Desc) : Bool :=
  match o with
  | .cnt => d.ew == 3 && d.ty == 0 && !d.pos
  | .sum =>
    !d.pos && (if Legal.isInt a.ty then d.ew == 3 && d.ty == a.ty else d.ty == 2 && d.ew == (if a.isF64 then 3 else 2))
  | _ => d.ew == a.ew && d.ty == a.ty

/-- The value of a group after one more row (R262, R263). -/
def Agg.next (o : Agg) (d a : Desc) (acc : Option Nat) (x : Nat) : Nat :=
  let fa := fmtOf a.ew a.ty
  let fd := fmtOf d.ew d.ty
  match o with
  | .cnt => acc.getD 0 + 1
  | .sum =>
    if Legal.isInt a.ty then
      satInt d.ty 64 ((match acc with
        | none => 0
        | some r => readInt d.ty 64 r) + readInt a.ty (widthOf a.ew) x)
    else
      let y := convertFloat fd fa .rne false x
      match acc with
      | none => y
      | some r => fd.round .rne false ((fd.val r).add false (fd.val y))
  | _ =>
    let largest := o == .max
    if Legal.isInt a.ty then
      match acc with
      | none => x
      | some r =>
        let u := readInt a.ty (widthOf a.ew) r
        let v := readInt a.ty (widthOf a.ew) x
        if largest then (if u < v then x else r) else if v < u then x else r
    else
      match acc with
      | none => if fa.val x == .nan then fa.nan else x
      | some r => fa.pick largest r x

/-- The value of an empty whole column (11 Table 11.4). -/
def Agg.empty (o : Agg) (a : Desc) : Nat :=
  let fa := fmtOf a.ew a.ty
  match o with
  | .cnt | .sum => 0
  | _ =>
    let largest := o == .max
    if Legal.isInt a.ty then
      let b := intBounds (widthOf a.ew) (a.ty == 1)
      cut (widthOf a.ew) (if largest then b.1 else b.2)
    else if fa.inf then fa.round .rne false (.inf largest)
    else (if largest then fa.signBit else 0) + fa.maxBits

/-- Row i starts a new group: its key, which is read in step with the value, differs from the key of the row before it in
the group that is open; a whole column is one group (R262). -/
def groupBreak (b : Option Desc) (i : Nat) (isOpen : Bool) : M Bool := do
  match b with
  | none => return false
  | some b =>
    let x ← readRow b i
    if isOpen then
      let y ← readRow b (i - 1)
      return !keyEq b.ew b.ty x y
    else return false

/-- One row of the n input rows of R262: the group that is open takes it, which is a point where a commit may fall, or is
emitted before it. The point after the last group has PHASE 2, which no descriptor holds. The point of the row of an empty whole
column has PHASE and AUX 0, for no group is open (DESIGN CHOICE, log 76). -/
def nextGroup (o : Agg) (d a : Desc) (b : Option Desc) (n : Nat) (p : Point) : M (Option Row) := do
  let acc := if p.phase = 1 then some p.aux else none
  if p.phase = 2 then return none
  else if p.cura < n then
    match acc, ← groupBreak b p.cura acc.isSome with
    | some v, true => return some { pt := p, vals := [(0, v)], after := ⟨p.cura, 0, 0, 0⟩ }
    | _, _ =>
      let x ← if o = .cnt then pure 0 else readRow a p.cura
      return some { pt := p, vals := [], after := ⟨p.cura + 1, 0, 1, o.next d a acc x⟩ }
  else
    match acc with
    | some v => return some { pt := p, vals := [(0, v)], after := ⟨p.cura, 0, 2, 0⟩ }
    | none =>
      if b.isNone ∧ p.cura = 0 then return some { pt := p, vals := [(0, o.empty a)], after := ⟨0, 0, 2, 0⟩ }
      else return none

/-- `cagg` in either form (R262): B is none for the whole column. -/
def aggBody (w : Word) (f : ClF) (o : Agg) (grouped : Bool) (s : State) : Res :=
  s.run w do
    let d := s.hart.col f.d
    let a := s.hart.col f.a
    let b := if grouped then some (s.hart.col f.b) else none
    let keys : List Named := if grouped then [(f.b, s.hart.col f.b)] else []
    let cont := ownCont 0x7A f
    colIssue w [(f.d, d)] ((f.a, a) :: keys) (o.typed d a) cont [] [] true
    let n := match b with
      | some b => min a.len b.len
      | none => a.len
    appendBody w f cont [(f.d, d)] .start id (nextGroup o d a b n) (steps := n + 1)

/-- R262, KIND 0. -/
def execCaggCnt (f : ClF) (s : State) : Res := aggBody (encCl 0x7A 0 f) f .cnt true s
/-- R262, R263, KIND 1. -/
def execCaggSum (f : ClF) (s : State) : Res := aggBody (encCl 0x7A 0 f) f .sum true s
/-- R262, KIND 2. -/
def execCaggMin (f : ClF) (s : State) : Res := aggBody (encCl 0x7A 0 f) f .min true s
/-- R262, KIND 3. -/
def execCaggMax (f : ClF) (s : State) : Res := aggBody (encCl 0x7A 0 f) f .max true s
/-- R262, KIND 8. -/
def execCaggCntWhole (f : ClF) (s : State) : Res := aggBody (encCl 0x7A 0 f) f .cnt false s
/-- R262, R263, KIND 9. -/
def execCaggSumWhole (f : ClF) (s : State) : Res := aggBody (encCl 0x7A 0 f) f .sum false s
/-- R262, KIND 10. -/
def execCaggMinWhole (f : ClF) (s : State) : Res := aggBody (encCl 0x7A 0 f) f .min false s
/-- R262, KIND 11. -/
def execCaggMaxWhole (f : ClF) (s : State) : Res := aggBody (encCl 0x7A 0 f) f .max false s

/-! ## Sorting, distinct keys, top-k (R264) -/

/-- Merges two runs of (row, key), the left one first among equal keys; fuel is the sum of their lengths. -/
def mergeRuns (before : Nat → Nat → Bool) : Nat → List (Nat × Nat) → List (Nat × Nat) → List (Nat × Nat)
  | 0, xs, ys => xs ++ ys
  | _ + 1, [], ys => ys
  | _ + 1, xs, [] => xs
  | fuel + 1, x :: xs, y :: ys =>
    if before y.2 x.2 then y :: mergeRuns before fuel (x :: xs) ys
    else x :: mergeRuns before fuel xs (y :: ys)

/-- One round of merging neighbouring runs. -/
def mergePairs (before : Nat → Nat → Bool) : List (List (Nat × Nat)) → List (List (Nat × Nat))
  | a :: b :: t => mergeRuns before (a.length + b.length) a b :: mergePairs before t
  | l => l

/-- Rounds of merging; fuel bounds their number. -/
def mergeAll (before : Nat → Nat → Bool) : Nat → List (List (Nat × Nat)) → List (Nat × Nat)
  | 0, l => l.flatten
  | fuel + 1, l => mergeAll before fuel (mergePairs before l)

/-- Rows in korder, stable. -/
def sortRows (before : Nat → Nat → Bool) (keys : List Nat) : List (Nat × Nat) :=
  mergeAll before (keys.length.log2 + 2) ((keys.zipIdx.map fun x => (x.2, x.1)).map fun x => [x])

/-- The lowest row of each distinct key, of rows in korder. -/
def dropRepeats (eq : Nat → Nat → Bool) : Option Nat → List (Nat × Nat) → List (Nat × Nat)
  | _, [] => []
  | none, x :: t => x :: dropRepeats eq (some x.2) t
  | some k, x :: t => if eq x.2 k then dropRepeats eq (some k) t else x :: dropRepeats eq (some x.2) t

/-- The row at a rank. -/
def rankRow (order : List Nat) (p : Point) : M (Option Row) :=
  pure ((order[p.cura]?).map fun i => { pt := p, vals := [(0, i)], after := { p with cura := p.cura + 1 } })

/-- Rows read as far as a precise fault, which comes with its answer. -/
def tryRows (m : M (List Nat)) : M (Except Stop (List Nat)) :=
  tryCatch (do let l ← m; return .ok l) fun e =>
    match e with
    | .trap _ _ _ _ => pure (.error e)
    | e => throw e

/-- What `csort`, `cuniq` and `ctopk` share: all of A is read, and ranks are emitted. `k` is the count of `ctopk`. A precise fault of a
read lands where the ranks go on, as one of the append body's own does (R243). -/
def rankBody (op : BitVec 8) (f : ClF) (desc uniq : Bool) (k : Option Nat) (s : State) : Res :=
  let w := encCl op 0 f
  s.run w do
    let d := s.hart.col f.d
    let a := s.hart.col f.a
    let cont := ownCont op.toNat f
    colIssue w [(f.d, d)] [(f.a, a)] d.pos cont [] [] true
    let aux := if d.pend || d.midop then d.aux else k.getD 0
    let next : Point → M (Option Row) := match ← tryRows (readRows a 0 a.len) with
      | .error e => fun _ => throw e
      | .ok keys =>
        let sorted := sortRows (keyBefore a.ew a.ty desc) keys
        let kept := if uniq then dropRepeats (keyEq a.ew a.ty) none sorted else sorted
        rankRow (if k.isSome then (kept.map (·.1)).take aux else kept.map (·.1))
    appendBody w f cont [(f.d, d)] ⟨0, 0, 0, aux⟩ id next

/-- R264, ascending. -/
def execCsort (f : ClF) (s : State) : Res := rankBody 0x7B f false false none s
/-- R264, descending. -/
def execCsortDesc (f : ClF) (s : State) : Res := rankBody 0x7B f true false none s
/-- R264. -/
def execCuniq (f : ClF) (s : State) : Res := rankBody 0x7C f false true none s
/-- R264, largest. -/
def execCtopk (f : ClF) (s : State) : Res := rankBody 0x7D f true false (some (s.rg f.b).toNat) s
/-- R264, smallest. -/
def execCtopkMin (f : ClF) (s : State) : Res := rankBody 0x7D f false false (some (s.rg f.b).toNat) s

end Sys2Proof.Machine
end

