-- ==== Sys2Proof/Machine/VFloat.lean ====
section
/-! DEFINITION. Vector floating instructions, compares and conversions (07 R172 to R180). -/
namespace Sys2Proof.Machine

/-- Functions of 07 Table 7.4 that round read RM; `vfmin` and `vfmax` do not (R172). -/
def fltRounds (fn : Nat) : Bool := fn != 4 && fn != 5

/-- One element of 07 Table 7.4. -/
def fltFn (fm : Fmt) (fn : Nat) (r : Rnd) (a b c : Nat) : Nat :=
  if fn = 4 then fm.pick false a b else if fn = 5 then fm.pick true a b else fm.arith r fn a b c

/-- The body of R173 with a second operand b(e); `vb` names its register when it has one. -/
def fltBody (o : Op) (w : Word) (f : VvF) (fn : Nat) (vb : Option (BitVec 5)) (b : Vec → Nat → Nat) : M Unit := do
  let ew := widthOf f.ew
  let fm := fmtOf f.ew f.ty
  vecIssue o w ([f.d.toNat, f.a.toNat] ++ (vb.map (·.toNat)).toList ++ (if fn = 3 then [f.c.toNat] else [])) [ew]
  let m ← if fltRounds fn then rmMode w f.rm else pure .rne
  let s ← get
  let h := s.hart
  let es := h.vec.active f.msk f.mn
  consume f.a.toNat ew es
  match vb with
  | some r => consume r.toNat ew es
  | none => pure ()
  if fn = 3 then consume f.c.toNat ew es
  vecDone fun v => v.writeElems f.d ew (es.map fun e =>
    (e, fltFn fm fn (h.rndAt m e) (v.elem f.a.toNat e ew) (b v e) (if fn = 3 then v.elem f.c.toNat e ew else 0)))

/-- OP 0x24: b from VR(B). -/
def fltVv (o : Op) (fn : Nat) (f : VvF) (s : State) : Res :=
  let w := encVv 0x24 (BitVec.ofNat 6 fn) f
  s.run w (fltBody o w f fn (some f.b) fun v e => v.elem f.b.toNat e (widthOf f.ew))

/-- OP 0x2C: b is the low bits of GR(B). -/
def fltVs (o : Op) (fn : Nat) (f : VvF) (s : State) : Res :=
  let w := encVv 0x2C (BitVec.ofNat 6 fn) f
  s.run w (fltBody o w f fn none fun _ _ => (s.rg f.b).toNat % 2 ^ widthOf f.ew)

/-- R173, R174: function 0x00 of 07 Table 7.4. -/
def execVfaddVv (f : VvF) (s : State) : Res := fltVv .vfaddVv 0x00 f s
/-- R173, R174: function 0x00 of 07 Table 7.4. -/
def execVfaddVs (f : VvF) (s : State) : Res := fltVs .vfaddVs 0x00 f s
/-- R173, R174: function 0x01 of 07 Table 7.4. -/
def execVfsubVv (f : VvF) (s : State) : Res := fltVv .vfsubVv 0x01 f s
/-- R173, R174: function 0x01 of 07 Table 7.4. -/
def execVfsubVs (f : VvF) (s : State) : Res := fltVs .vfsubVs 0x01 f s
/-- R173, R174: function 0x02 of 07 Table 7.4. -/
def execVfmulVv (f : VvF) (s : State) : Res := fltVv .vfmulVv 0x02 f s
/-- R173, R174: function 0x02 of 07 Table 7.4. -/
def execVfmulVs (f : VvF) (s : State) : Res := fltVs .vfmulVs 0x02 f s
/-- R173, R174: function 0x03 of 07 Table 7.4. -/
def execVfmaVv (f : VvF) (s : State) : Res := fltVv .vfmaVv 0x03 f s
/-- R173, R174: function 0x03 of 07 Table 7.4. -/
def execVfmaVs (f : VvF) (s : State) : Res := fltVs .vfmaVs 0x03 f s
/-- R173, R174: function 0x04 of 07 Table 7.4. -/
def execVfminVv (f : VvF) (s : State) : Res := fltVv .vfminVv 0x04 f s
/-- R173, R174: function 0x04 of 07 Table 7.4. -/
def execVfminVs (f : VvF) (s : State) : Res := fltVs .vfminVs 0x04 f s
/-- R173, R174: function 0x05 of 07 Table 7.4. -/
def execVfmaxVv (f : VvF) (s : State) : Res := fltVv .vfmaxVv 0x05 f s
/-- R173, R174: function 0x05 of 07 Table 7.4. -/
def execVfmaxVs (f : VvF) (s : State) : Res := fltVs .vfmaxVs 0x05 f s
/-- R173, R174: function 0x06 of 07 Table 7.4. -/
def execVfdivVv (f : VvF) (s : State) : Res := fltVv .vfdivVv 0x06 f s
/-- R173, R174: function 0x06 of 07 Table 7.4. -/
def execVfdivVs (f : VvF) (s : State) : Res := fltVs .vfdivVs 0x06 f s

/-- A unary function of each active element. -/
def mapBody (o : Op) (w : Word) (f : VvF) (g : Nat → Nat → Nat) : M Unit := do
  let ew := widthOf f.ew
  vecIssue o w [f.d.toNat, f.a.toNat] [ew]
  let s ← get
  let es := s.hart.vec.active f.msk f.mn
  consume f.a.toNat ew es
  vecDone fun v => v.writeElems f.d ew (es.map fun e => (e, g e (v.elem f.a.toNat e ew)))

/-- A unary function under a rounding mode; the mode is judged at issue (R111). -/
def roundedMap (o : Op) (w : Word) (f : VvF) (g : Rnd → Nat → Nat) : M Unit := do
  let s ← get
  if Legal.usesF64 o w && !s.hasF64 then raise causeAbsent w
  let m ← rmMode w f.rm
  mapBody o w f fun e x => g (s.hart.rndAt m e) x

/-- OP 0x25, functions 0 to 4. -/
def fltUnary (o : Op) (fn : Nat) (f : VvF) (s : State) : Res :=
  let w := encVv 0x25 (BitVec.ofNat 6 fn) f
  s.run w (roundedMap o w f fun r x => (fmtOf f.ew f.ty).unary r fn x)

/-- R175. -/
def execVfsqrt (f : VvF) (s : State) : Res := fltUnary .vfsqrt 0 f s
/-- R175. -/
def execVfrcp (f : VvF) (s : State) : Res := fltUnary .vfrcp 1 f s
/-- R175. -/
def execVfrsq (f : VvF) (s : State) : Res := fltUnary .vfrsq 2 f s
/-- R175. -/
def execVfexp2 (f : VvF) (s : State) : Res := fltUnary .vfexp2 3 f s
/-- R175. -/
def execVflog2 (f : VvF) (s : State) : Res := fltUnary .vflog2 4 f s
/-- R177. -/
def execVfclass (f : VvF) (s : State) : Res :=
  let w := encVv 0x25 5 f
  s.run w (mapBody .vfclass w f fun _ x => 2 ^ (fmtOf f.ew f.ty).classBit x)
/-- R176. -/
def execVfround (f : VvF) (s : State) : Res :=
  let w := encVv 0x25 6 f
  s.run w (roundedMap .vfround w f fun r x => (fmtOf f.ew f.ty).toIntegral r x)

/-- R178. -/
def execVfcmp (f : VvF) (s : State) : Res :=
  let w := encVv 0x26 0 f
  s.run w do
    let ew := widthOf f.ew
    let fm := fmtOf f.ew f.ty
    vecIssue .vfcmp w [f.a.toNat, f.b.toNat] [ew]
    let s ← get
    let es := s.hart.vec.active f.msk f.mn
    consume f.a.toNat ew es
    consume f.b.toNat ew es
    vecDone fun v => v.writeMask (f.d.setWidth 3) (es.map fun e =>
      (e, Val.cond (f.imm.toNat % 16) (fm.val (v.elem f.a.toNat e ew)) (fm.val (v.elem f.b.toNat e ew))))

/-- A conversion of each active element under the word's mode. -/
def roundedConvert (o : Op) (w : Word) (f : VvF) (g : Rnd → Nat → Nat) : M Unit := do
  let s ← get
  if Legal.usesF64 o w && !s.hasF64 then raise causeAbsent w
  let m ← rmMode w f.rm
  convertBody o w f (widthOf (Legal.srcEw f)) (widthOf f.ew) fun e x => g (s.hart.rndAt m e) x

/-- R179. -/
def execVfcvt (f : VvF) (s : State) : Res :=
  let w := encVv 0x26 1 f
  s.run w (roundedConvert .vfcvt w f fun r x =>
    convertFloat (fmtOf f.ew f.ty) (fmtOf (Legal.srcEw f) (Legal.srcTy f)) r (f.sat == 1) x)

/-- R180. -/
def execVficvt (f : VvF) (s : State) : Res :=
  let w := encVv 0x26 2 f
  let ws := widthOf (Legal.srcEw f)
  let wd := widthOf f.ew
  s.run w (roundedConvert .vficvt w f fun r x =>
    if Legal.isInt f.ty then
      let b := intBounds wd (f.ty == 1)
      cut wd (((fmtOf (Legal.srcEw f) (Legal.srcTy f)).val x).toInt r b.1 b.2)
    else (fmtOf f.ew f.ty).round r false (Val.ofInt (readInt (Legal.srcTy f) ws x) 0))

end Sys2Proof.Machine
end

