-- ==== Sys2Proof/Machine/VPerm.lean ====
section
/-! DEFINITION. Moves, slides, gathers, compress, expand and iota (08 R184 to R187). -/
namespace Sys2Proof.Machine

/-- R182: a VSTART inside the vector traps ILLEGAL. The check follows `vecIssue`, so that the lane under check has moved on (DESIGN
CHOICE, log 65). -/
def startAtZero (w : Word) : M Unit := do
  let s ← get
  if 0 < s.hart.vec.vstart ∧ s.hart.vec.vstart < s.hart.vec.vl then raise causeIllegal w

/-- R184. R62 is applied to va, though the instruction reads one element of it (DEDUCED, log 68). -/
def execVmvx (f : VvF) (s : State) : Res :=
  let w := encVv 0x40 0 f
  s.run w do
    let ew := widthOf f.ew
    vecIssue .vmvx w [f.a.toNat] [ew]
    let s ← get
    let v := s.hart.vec
    let idx := (s.rg f.b).toNat
    let inside := decide (idx < v.vlmax / ew)
    if inside then consume f.a.toNat ew [idx]
    let x := if inside then v.elem f.a.toNat idx ew else 0
    change fun s => s.setG f.d (if f.ty = 1 then wordOf (sint ew x) else BitVec.ofNat 64 x)
    vecDone id

/-- R185: element 0 alone. -/
def execVmvs (f : VvF) (s : State) : Res :=
  let w := encVv 0x40 1 f
  s.run w do
    let ew := widthOf f.ew
    vecIssue .vmvs w [f.d.toNat] [ew]
    let s ← get
    let es := (s.hart.vec.active f.msk f.mn).filter (· == 0)
    vecDone fun v => v.writeElems f.d ew (es.map fun e => (e, (s.rg f.a).toNat))

/-- R185: every active element. -/
def execVbc (f : VvF) (s : State) : Res :=
  let w := encVv 0x40 2 f
  s.run w do
    let ew := widthOf f.ew
    vecIssue .vbc w [f.d.toNat] [ew]
    let s ← get
    let es := s.hart.vec.active f.msk f.mn
    vecDone fun v => v.writeElems f.d ew (es.map fun e => (e, (s.rg f.a).toNat))

/-- Writes D at some active elements from elements of A, or 0 (R186). -/
def gatherBody (f : VvF) (src : Vec → Nat → Option Nat) (es : List Nat) : M Unit := do
  let ew := widthOf f.ew
  let s ← get
  let v := s.hart.vec
  consume f.a.toNat ew (es.filterMap (src v))
  vecDone fun v => v.writeElems f.d ew (es.map fun e =>
    (e, match src v e with
        | some i => v.elem f.a.toNat i ew
        | none => 0))

/-- R186: an active e below s is unchanged. -/
def execVslu (f : VvF) (s : State) : Res :=
  let w := encVv 0x41 0 f
  s.run w do
    vecIssue .vslu w [f.d.toNat, f.a.toNat] [widthOf f.ew]
    let n := (s.rg f.b).toNat
    gatherBody f (fun _ e => some (e - n)) ((s.hart.vec.active f.msk f.mn).filter fun e => decide (n ≤ e))

/-- R186. -/
def execVsld (f : VvF) (s : State) : Res :=
  let w := encVv 0x41 1 f
  s.run w do
    vecIssue .vsld w [f.d.toNat, f.a.toNat] [widthOf f.ew]
    let n := (s.rg f.b).toNat
    gatherBody f (fun v e => if e + n < v.vl then some (e + n) else none) (s.hart.vec.active f.msk f.mn)

/-- R186. -/
def execVperm (f : VvF) (s : State) : Res :=
  let w := encVv 0x41 2 f
  let ew := widthOf f.ew
  s.run w do
    vecIssue .vperm w [f.d.toNat, f.a.toNat, f.b.toNat] [ew]
    let es := s.hart.vec.active f.msk f.mn
    consume f.b.toNat ew es
    gatherBody f (fun v e => let i := v.elem f.b.toNat e ew; if i < v.vl then some i else none) es

/-- R187: active sources packed from element 0 up. -/
def execVcomp (f : VvF) (s : State) : Res :=
  let w := encVv 0x41 3 f
  let ew := widthOf f.ew
  s.run w do
    vecIssue .vcomp w [f.d.toNat, f.a.toNat] [ew]
    startAtZero w
    let es := s.hart.vec.active f.msk f.mn
    consume f.a.toNat ew es
    vecDone fun v => v.writeElems f.d ew (es.zipIdx.map fun p => (p.2, v.elem f.a.toNat p.1 ew))

/-- R187: the k-th source goes to the k-th active position. -/
def execVexp (f : VvF) (s : State) : Res :=
  let w := encVv 0x41 4 f
  let ew := widthOf f.ew
  s.run w do
    vecIssue .vexp w [f.d.toNat, f.a.toNat] [ew]
    startAtZero w
    let es := s.hart.vec.active f.msk f.mn
    consume f.a.toNat ew (List.range es.length)
    vecDone fun v => v.writeElems f.d ew (es.zipIdx.map fun p => (p.1, v.elem f.a.toNat p.2 ew))

/-- R187: va plus the number of active elements below e. -/
def execViota (f : VvF) (s : State) : Res :=
  let w := encVv 0x41 5 f
  let ew := widthOf f.ew
  s.run w do
    vecIssue .viota w [f.d.toNat, f.a.toNat] [ew]
    startAtZero w
    let es := s.hart.vec.active f.msk f.mn
    consume f.a.toNat ew es
    vecDone fun v => v.writeElems f.d ew (es.zipIdx.map fun p => (p.1, v.elem f.a.toNat p.1 ew + p.2))

end Sys2Proof.Machine
end

