-- ==== Sys2Proof/Machine/VReduce.lean ====
section
/-! DEFINITION. Reductions, group maxima, scans and mask logic (08 R188 to R196, 05 R127 to R129). -/
namespace Sys2Proof.Machine

/-! ## Order-free reductions -/

/-- VR(D, 0, w) := the reduction of the active elements, whenever VSTART < VL (R188). -/
def reduceBody (o : Op) (w : Word) (f : VvF) (g : List Nat → Nat) : M Unit := do
  let ew := widthOf f.ew
  vecIssue o w [f.d.toNat, f.a.toNat] [ew]
  let s ← get
  let v := s.hart.vec
  let es := v.active f.msk f.mn
  consume f.a.toNat ew es
  vecDone fun v =>
    if v.vstart < v.vl then v.writeElems f.d ew [(0, g (es.map fun e => v.elem f.a.toNat e ew))] else v

/-- The largest or smallest element, for integers (Table 8.3). -/
def extremeInt (ty : BitVec 3) (w : Nat) (largest : Bool) (xs : List Nat) : Nat :=
  let b := intBounds w (ty == 1)
  cut w (xs.foldl (fun acc x =>
    let y := readInt ty w x
    if largest then max acc y else min acc y) (if largest then b.1 else b.2))

/-- The largest or smallest element, for floats; a NaN result is canonical (R189). -/
def extremeFloat (fm : Fmt) (largest : Bool) : List Nat → Nat
  | [] => fm.round Rnd.rne false (.inf largest)
  | x :: t =>
    let r := t.foldl (fun acc y => fm.pick largest acc y) x
    if fm.val r = .nan then fm.nan else r

/-- Table 8.3: `vredmax` and `vredmin`. -/
def extreme (f : VvF) (largest : Bool) (xs : List Nat) : Nat :=
  if Legal.isInt f.ty then extremeInt f.ty (widthOf f.ew) largest xs else extremeFloat (fmtOf f.ew f.ty) largest xs

/-- R188, R189: the sum is exact, and saturated once. -/
def execVredsum (f : VvF) (s : State) : Res :=
  let w := encVv 0x42 0 f
  let ew := widthOf f.ew
  s.run w (reduceBody .vredsum w f fun xs =>
    let t := xs.foldl (fun (acc : Int) x => acc + readInt f.ty ew x) 0
    if f.sat = 1 then satInt f.ty ew t else cut ew t)
/-- R188. -/
def execVredmax (f : VvF) (s : State) : Res :=
  let w := encVv 0x42 1 f
  s.run w (reduceBody .vredmax w f (extreme f true))
/-- R188. -/
def execVredmin (f : VvF) (s : State) : Res :=
  let w := encVv 0x42 2 f
  s.run w (reduceBody .vredmin w f (extreme f false))
/-- R188. -/
def execVredand (f : VvF) (s : State) : Res :=
  let w := encVv 0x42 3 f
  s.run w (reduceBody .vredand w f fun xs => xs.foldl (· &&& ·) (2 ^ widthOf f.ew - 1))
/-- R188. -/
def execVredor (f : VvF) (s : State) : Res :=
  let w := encVv 0x42 4 f
  s.run w (reduceBody .vredor w f fun xs => xs.foldl (· ||| ·) 0)

/-! ## Floating sums -/

/-- An encoding with NaN made canonical (R104). -/
def Fmt.canonical (fm : Fmt) (x : Nat) : Nat := if fm.val x = .nan then fm.nan else x

/-- round(a + b, fmt, mode). -/
def Fmt.plus (fm : Fmt) (r : Rnd) (a b : Nat) : Nat := fm.arith r 0 a b 0

/-- A combination of two slots of the tree: absent slots drop out (R127). -/
def comb (fm : Fmt) (r : Rnd) (a b : Option Nat) : Option Nat :=
  match a, b with
  | some x, some y => some (fm.plus r x y)
  | some x, none => some x
  | none, y => y

/-- Levels of the pairwise tree of R127, node k of level L rounding with the index of R114. -/
def treeLevels (fm : Fmt) (h : Hart) (m : Mode) : Nat → Nat → List (Option Nat) → List (Option Nat)
  | 0, _, l => l
  | n + 1, level, l =>
    let at_ (k : Nat) : Rnd :=
      { mode := m, key := h.seed, idx := BitVec.ofNat 64 (wbits h.rmode 24 40) - 1 - BitVec.ofNat 64 (32 * (level - 1) + k) }
    treeLevels fm h m n (level + 1)
      ((List.range (l.length / 2)).map fun k => comb fm (at_ k) (l.getD (2 * k) none) (l.getD (2 * k + 1) none))

/-- Step 2 of R127 on 32 slots; +0 when every slot is absent. -/
def treeSum (fm : Fmt) (h : Hart) (m : Mode) (slots : List (Option Nat)) : Nat :=
  fm.canonical (((treeLevels fm h m 5 1 slots).headD none).getD 0)

/-- Step 1 of R127 for some elements (position, element index, encoding), rising (R114, R192). -/
def foldSlots (fm : Fmt) (h : Hart) (m : Mode) (slots : List (Option Nat)) (l : List (Nat × Nat × Nat)) :
    List (Option Nat) :=
  l.foldl (fun acc p =>
    let i := p.1 % 32
    let x := fm.canonical p.2.2
    acc.set i (match acc.getD i none with
      | some y => some (fm.plus (h.rndAt m p.2.1) y x)
      | none => some x)) slots

/-- R129: some binary combination of the present elements, freely chosen; its stochastic indices are free too (R114). The
combination of none is +0, which no rule gives (DESIGN CHOICE, log 61). -/
def freeSum (fm : Fmt) (h : Hart) (m : Mode) : Nat → Nat → List Nat → Nat × Nat
  | 0, t, l => (fm.canonical (l.headD 0), t)
  | _, t, [] => (0, t)
  | _, t, [x] => (fm.canonical x, t)
  | fuel + 1, t, l =>
    let i := (Config.freeReduction t).toNat % l.length
    let l1 := l.eraseIdx i
    let j := (Config.freeReduction (t + 1)).toNat % l1.length
    let z := fm.plus { mode := m, key := h.seed, idx := Config.freeReduction (t + 2) } (l.getD i 0) (l1.getD j 0)
    freeSum fm h m fuel (t + 3) (z :: l1.eraseIdx j)

/-- R190, FORM 00. -/
def execVfredsum (f : VvF) (s : State) : Res :=
  let w := encVv 0x42 5 f
  let ew := widthOf f.ew
  let fm := fmtOf f.ew f.ty
  s.run w do
    vecIssue .vfredsum w [f.d.toNat, f.a.toNat] [ew]
    let m ← rmMode w f.rm
    let s ← get
    let h := s.hart
    let es := h.vec.active f.msk f.mn
    consume f.a.toNat ew es
    if h.vec.vstart < h.vec.vl then
      let x e := h.vec.elem f.a.toNat e ew
      if h.canon then
        let r := treeSum fm h m (foldSlots fm h m (List.replicate 32 none) (es.map fun e => (e, e, x e)))
        vecDone fun v => v.writeElems f.d ew [(0, r)]
      else
        let r := freeSum fm h m es.length s.tick (es.map x)
        change fun s => { s with tick := r.2 }
        vecDone fun v => v.writeElems f.d ew [(0, r.1)]
    else vecDone id

/-! ## The carry group -/

/-- The 2,560 bits of a carry group (R191). -/
def Vec.carry (v : Vec) (n : Nat) : Nat :=
  (List.range 5).foldl (fun acc k => acc + field (v.bits (n + k)) 0 512 * 2 ^ (512 * k)) 0

/-- POS and the slots of a carry group (Table 8.5). -/
def carrySlots (w c : Nat) : Nat × List (Option Nat) :=
  (field c 2080 5, (List.range 32).map fun i => if bitOf c (2048 + i) then some (field c (w * i) w) else none)

/-- The bits of a carry group c with its position and slots replaced: a slot that stays absent keeps its bits (R192). -/
def carryBits (w c pos : Nat) (slots : List (Option Nat)) : Nat :=
  slots.zipIdx.foldl (fun acc p =>
    match p.1 with
    | some x => acc + 2 ^ (2048 + p.2) + x % 2 ^ w * 2 ^ (w * p.2)
    | none => acc + field c (w * p.2) w * 2 ^ (w * p.2)) (pos % 32 * 2 ^ 2080)

/-- Writes a carry group: bits [511:0] of five registers (R191). -/
def Vec.writeCarry (v : Vec) (n : BitVec 5) (c : Nat) : Vec :=
  (List.range 5).foldl (fun v k => v.write (n + BitVec.ofNat 5 k) [(0, 512, field c (512 * k) 512)]) v

/-- The registers of a carry group. -/
def carryRegs (n : BitVec 5) : List Nat := (List.range 5).map (n.toNat + ·)

/-- No machine has the last register of the carry group (R191). -/
def carryBeyond (n : BitVec 5) : Bool := decide (27 < n.toNat)

/-- A carry group is consumed (R191). -/
def consumeCarry (n : BitVec 5) : M Unit := do
  let s ← get
  if (carryRegs n).any fun r => poisonHit (s.hart.vec.poison r) 0 512 then throw .poison

/-- R190 to R192, FORM 01. -/
def execVfredsumFold (f : VvF) (s : State) : Res :=
  let w := encVv 0x42 5 f
  let ew := widthOf f.ew
  let fm := fmtOf f.ew f.ty
  s.run w do
    encodingIllegal w (carryBeyond f.d || decide (f.d.toNat ≤ f.a.toNat ∧ f.a.toNat ≤ f.d.toNat + 4))
    vecIssue .vfredsumFold w (f.a.toNat :: carryRegs f.d) [ew]
    let m ← rmMode w f.rm
    consumeCarry f.d
    let s ← get
    let h := s.hart
    let v := h.vec
    if v.vstart < v.vl then
      let es := v.active f.msk f.mn
      consume f.a.toNat ew es
      let bits := v.carry f.d.toNat
      let c := carrySlots ew bits
      let slots := foldSlots fm h m c.2 (es.map fun e => (c.1 + e, e, v.elem f.a.toNat e ew))
      vecDone fun v => v.writeCarry f.d (carryBits ew bits (c.1 + v.vl) slots)
    else vecDone id

/-- R190 to R192, FORM 10. -/
def execVfredsumFin (f : VvF) (s : State) : Res :=
  let w := encVv 0x42 5 f
  let ew := widthOf f.ew
  let fm := fmtOf f.ew f.ty
  s.run w do
    encodingIllegal w (carryBeyond f.a)
    vecIssue .vfredsumFin w (f.d.toNat :: carryRegs f.a) [ew]
    let m ← rmMode w f.rm
    consumeCarry f.a
    let s ← get
    let h := s.hart
    if (h.vec.active f.msk f.mn).contains 0 then
      let r := treeSum fm h m (carrySlots ew (h.vec.carry f.a.toNat)).2
      vecDone fun v => v.writeElems f.d ew [(0, r)]
    else vecDone id

/-- R190 to R192, FORM 11. -/
def execVfredsumInit (f : VvF) (s : State) : Res :=
  let w := encVv 0x42 5 f
  s.run w do
    encodingIllegal w (carryBeyond f.d)
    vecIssue .vfredsumInit w (carryRegs f.d) []
    vecDone fun v => if v.vstart < v.vl then v.writeCarry f.d 0 else v

/-! ## Group maxima and scans -/

/-- One group's maximum (R193), from its active elements. -/
def groupMax (f : VvF) (w : Nat) (xs : List Nat) : Nat :=
  let abs := bitOf f.imm.toNat 0
  let val x : Int := let y := readInt f.ty w x; if abs then y.natAbs else y
  match xs with
  | [] => if f.ty = 0 ∨ abs then 0 else cut w (-(2 ^ (w - 1) : Nat))
  | x :: t => cut w (t.foldl (fun acc y => max acc (val y)) (val x))

/-- R193. -/
def execVgmax (f : VvF) (s : State) : Res :=
  let w := encVv 0x42 6 f
  let ew := widthOf f.ew
  s.run w do
    vecIssue .vgmax w [f.d.toNat, f.a.toNat] [ew]
    startAtZero w
    let s ← get
    let es := s.hart.vec.active f.msk f.mn
    consume f.a.toNat ew es
    vecDone fun v =>
      if v.vstart < v.vl then
        v.writeElems f.d ew ((List.range ((v.vl + 31) / 32)).map fun j =>
          (j, groupMax f ew ((es.filter fun e => e / 32 == j).map fun e => v.elem f.a.toNat e ew)))
      else v

/-- The running sums of R194 over active elements (element, encoding): what each writes. -/
def scanFrom (add : Nat → Nat → Nat → Nat) (first : Nat → Nat) (excl : Bool) : Option Nat → List (Nat × Nat) → List (Nat × Nat)
  | _, [] => []
  | run, (e, x) :: t =>
    let next :=
      match run with
      | some r => add e r x
      | none => first x
    (e, if excl then run.getD 0 else next) :: scanFrom add first excl (some next) t

/-- R194. -/
def execVscan (f : VvF) (s : State) : Res :=
  let w := encVv 0x42 7 f
  let ew := widthOf f.ew
  let fm := fmtOf f.ew f.ty
  let excl := bitOf f.imm.toNat 0
  s.run w do
    vecIssue .vscan w [f.d.toNat, f.a.toNat] [ew]
    startAtZero w
    let m ← if Legal.isInt f.ty then pure .rne else rmMode w f.rm
    let s ← get
    let h := s.hart
    let es := h.vec.active f.msk f.mn
    consume f.a.toNat ew es
    let xs := es.map fun e => (e, h.vec.elem f.a.toNat e ew)
    let sums :=
      if Legal.isInt f.ty then
        scanFrom (fun _ r x =>
          if f.sat = 1 then satInt f.ty ew (readInt f.ty ew r + readInt f.ty ew x) else (r + x) % 2 ^ ew) id excl none xs
      else scanFrom (fun e r x => fm.plus (h.rndAt m e) r x) fm.canonical excl none xs
    vecDone fun v => v.writeElems f.d ew sums

/-! ## Masks -/

/-- R195: a mask instruction on the active positions. -/
def maskBody (o : Op) (w : Word) (f : VvF) (g : Bool → Bool → Bool) : M Unit := do
  vecIssue o w [] []
  let s ← get
  let v := s.hart.vec
  let a := v.mr (f.a.toNat % 8)
  let b := v.mr (f.b.toNat % 8)
  let es := v.active f.msk f.mn
  vecDone fun v => v.writeMask (f.d.setWidth 3) (es.map fun e => (e, g (bitOf a e) (bitOf b e)))

/-- R195. -/
def execMand (f : VvF) (s : State) : Res :=
  let w := encVv 0x43 0 f
  s.run w (maskBody .mand w f fun a b => a && b)
/-- R195. -/
def execMor (f : VvF) (s : State) : Res :=
  let w := encVv 0x43 1 f
  s.run w (maskBody .mor w f fun a b => a || b)
/-- R195. -/
def execMxor (f : VvF) (s : State) : Res :=
  let w := encVv 0x43 2 f
  s.run w (maskBody .mxor w f fun a b => a != b)
/-- R195. -/
def execMandn (f : VvF) (s : State) : Res :=
  let w := encVv 0x43 3 f
  s.run w (maskBody .mandn w f fun a b => a && !b)
/-- R195. -/
def execMnot (f : VvF) (s : State) : Res :=
  let w := encVv 0x43 4 f
  s.run w (maskBody .mnot w f fun a _ => !a)

/-- The active elements whose bit of MR(A) is 1. -/
def Vec.chosen (v : Vec) (f : VvF) : List Nat :=
  let a := v.mr (f.a.toNat % 8)
  (v.active f.msk f.mn).filter fun e => bitOf a e

/-- R196. -/
def execMpopc (f : VvF) (s : State) : Res :=
  let w := encVv 0x43 5 f
  s.run w do
    vecIssue .mpopc w [] []
    change fun s => s.setG f.d (BitVec.ofNat 64 (s.hart.vec.chosen f).length)
    vecDone id
/-- R196. -/
def execMfirst (f : VvF) (s : State) : Res :=
  let w := encVv 0x43 6 f
  s.run w do
    vecIssue .mfirst w [] []
    change fun s => s.setG f.d
      (match s.hart.vec.chosen f with
       | e :: _ => BitVec.ofNat 64 e
       | [] => BitVec.allOnes 64)
    vecDone id

end Sys2Proof.Machine
end

