-- ==== Sys2Proof/Machine/VBlock.lean ====
section
/-! DEFINITION. `vqblk`, `vdqblk` and `vsacc` (08 R197 to R200). -/
namespace Sys2Proof.Machine

/-- R198. -/
def execVqblk (f : VvF) (s : State) : Res :=
  let w := encVv 0x44 0 f
  let ws := widthOf (Legal.srcEw f)
  let fm := fmtOf (Legal.srcEw f) (Legal.srcTy f)
  s.run w do
    vecIssue .vqblk w [f.d.toNat, f.a.toNat, f.b.toNat] [ws, 4]
    let s ← get
    let v := s.hart.vec
    if v.vlmax < v.vl / 32 * 16 then raise causeIllegal w
    startAtZero w
    if f.d = f.b ∨ v.vl % 32 ≠ 0 then raise causeIllegal w
    if v.vstart < v.vl then
      consume f.a.toNat ws (List.range v.vl)
      let blocks := (List.range (v.vl / 32)).map fun j =>
        quantise ((List.range 32).map fun i => fm.val (v.elem f.a.toNat (32 * j + i) ws))
      vecDone fun v =>
        (v.writeElems f.b 16 (blocks.zipIdx.map fun p => (p.2, p.1.1))).writeElems f.d 4
          (blocks.zipIdx.flatMap fun p => p.1.2.zipIdx.map fun c => (32 * p.2 + c.2, c.1))
    else vecDone id

/-- R199. -/
def execVdqblk (f : VvF) (s : State) : Res :=
  let w := encVv 0x44 1 f
  let wd := widthOf f.ew
  let fm := fmtOf f.ew f.ty
  s.run w do
    vecIssue .vdqblk w [f.d.toNat, f.a.toNat, f.b.toNat] [wd, 4]
    let s ← get
    let h := s.hart
    let v := h.vec
    if v.vlmax < (v.vl + 31) / 32 * 16 ∨ f.d = f.b then raise causeIllegal w
    let m ← rmMode w f.rm
    let es := v.active f.msk f.mn
    consume f.a.toNat 4 es
    consume f.b.toNat 16 (es.map (· / 32))
    vecDone fun v => v.writeElems f.d wd (es.map fun e =>
      (e, fm.round (h.rndAt m e) false (blockVal (v.elem f.a.toNat e 4) (v.elem f.b.toNat (e / 32) 16))))

/-- R200. -/
def execVsacc (f : VvF) (s : State) : Res :=
  let w := encVv 0x44 2 f
  let wd := widthOf f.ew
  let ws := widthOf (Legal.srcEw f)
  let fm := fmtOf f.ew f.ty
  s.run w do
    encodingIllegal w (f.d == f.b)
    vecIssue .vsacc w [f.d.toNat, f.a.toNat, f.b.toNat] [wd, ws]
    let m ← rmMode w f.rm
    let s ← get
    let h := s.hart
    let es := h.vec.active f.msk f.mn
    consume f.a.toNat ws es
    consume f.b.toNat ws es
    consume f.d.toNat wd es
    let unit : Int := if ws = 32 then -4 else -20
    vecDone fun v => v.writeElems f.d wd (es.filterMap fun e =>
      let p := sint ws (v.elem f.a.toNat e ws)
      let sc := v.elem f.b.toNat e ws
      let p' := if p = -(2 ^ (ws - 1) : Nat) then none else some p
      (scaleAcc fm (h.rndAt m e) (v.elem f.d.toNat e wd) p' unit (field sc 0 9) (field sc 9 9)).map fun x => (e, x))

end Sys2Proof.Machine
end

