-- ==== Sys2Proof/Machine/Dispatch.lean ====
section
/-! DEFINITION. The dispatch: one arm per constructor of `Instr`, each one call of its meaning. -/
namespace Sys2Proof.Machine

/-- The outcome of an instruction of the acting sequencer, or of an event of the device (04 Table 4.6). -/
def exec (i : Instr) (s : State) : Host.Outcome State Fault Refusal :=
  match i with
  | .add f => Sys2Proof.Machine.execAdd f s
  | .sub f => Sys2Proof.Machine.execSub f s
  | .mul f => Sys2Proof.Machine.execMul f s
  | .mulh f => Sys2Proof.Machine.execMulh f s
  | .mulhn f => Sys2Proof.Machine.execMulhn f s
  | .div f => Sys2Proof.Machine.execDiv f s
  | .divn f => Sys2Proof.Machine.execDivn f s
  | .rem f => Sys2Proof.Machine.execRem f s
  | .remn f => Sys2Proof.Machine.execRemn f s
  | .and f => Sys2Proof.Machine.execAnd f s
  | .or f => Sys2Proof.Machine.execOr f s
  | .xor f => Sys2Proof.Machine.execXor f s
  | .andn f => Sys2Proof.Machine.execAndn f s
  | .shl f => Sys2Proof.Machine.execShl f s
  | .shr f => Sys2Proof.Machine.execShr f s
  | .sra f => Sys2Proof.Machine.execSra f s
  | .rotl f => Sys2Proof.Machine.execRotl f s
  | .min f => Sys2Proof.Machine.execMin f s
  | .max f => Sys2Proof.Machine.execMax f s
  | .minn f => Sys2Proof.Machine.execMinn f s
  | .maxn f => Sys2Proof.Machine.execMaxn f s
  | .sel f => Sys2Proof.Machine.execSel f s
  | .fshl f => Sys2Proof.Machine.execFshl f s
  | .fshr f => Sys2Proof.Machine.execFshr f s
  | .addi f => Sys2Proof.Machine.execAddi f s
  | .andi f => Sys2Proof.Machine.execAndi f s
  | .ori f => Sys2Proof.Machine.execOri f s
  | .xori f => Sys2Proof.Machine.execXori f s
  | .shli f => Sys2Proof.Machine.execShli f s
  | .shri f => Sys2Proof.Machine.execShri f s
  | .srai f => Sys2Proof.Machine.execSrai f s
  | .rotli f => Sys2Proof.Machine.execRotli f s
  | .bext f => Sys2Proof.Machine.execBext f s
  | .bins f => Sys2Proof.Machine.execBins f s
  | .clz f => Sys2Proof.Machine.execClz f s
  | .ctz f => Sys2Proof.Machine.execCtz f s
  | .popc f => Sys2Proof.Machine.execPopc f s
  | .rdls f => Sys2Proof.Machine.execRdls f s
  | .setc cc f => Sys2Proof.Machine.execSetc cc f s
  | .li f => Sys2Proof.Machine.execLi f s
  | .lih f => Sys2Proof.Machine.execLih f s
  | .pcadd f => Sys2Proof.Machine.execPcadd f s
  | .ld sz f => Sys2Proof.Machine.execLd sz f s
  | .st sz f => Sys2Proof.Machine.execSt sz f s
  | .ldOrdered f => Sys2Proof.Machine.execLdOrdered f s
  | .stOrdered f => Sys2Proof.Machine.execStOrdered f s
  | .bc cc f => Sys2Proof.Machine.execBc cc f s
  | .j f => Sys2Proof.Machine.execJ f s
  | .jl f => Sys2Proof.Machine.execJl f s
  | .jr f => Sys2Proof.Machine.execJr f s
  | .loop f => Sys2Proof.Machine.execLoop f s
  | .lbrk f => Sys2Proof.Machine.execLbrk f s
  | .nop f => Sys2Proof.Machine.execNop f s
  | .vaddVv f => Sys2Proof.Machine.execVaddVv f s
  | .vaddVs f => Sys2Proof.Machine.execVaddVs f s
  | .vaddVi f => Sys2Proof.Machine.execVaddVi f s
  | .vsubVv f => Sys2Proof.Machine.execVsubVv f s
  | .vsubVs f => Sys2Proof.Machine.execVsubVs f s
  | .vsubVi f => Sys2Proof.Machine.execVsubVi f s
  | .vmulVv f => Sys2Proof.Machine.execVmulVv f s
  | .vmulVs f => Sys2Proof.Machine.execVmulVs f s
  | .vmulVi f => Sys2Proof.Machine.execVmulVi f s
  | .vmulhVv f => Sys2Proof.Machine.execVmulhVv f s
  | .vmulhVs f => Sys2Proof.Machine.execVmulhVs f s
  | .vmulhVi f => Sys2Proof.Machine.execVmulhVi f s
  | .vmacVv f => Sys2Proof.Machine.execVmacVv f s
  | .vmacVs f => Sys2Proof.Machine.execVmacVs f s
  | .vmacVi f => Sys2Proof.Machine.execVmacVi f s
  | .vaddsVv f => Sys2Proof.Machine.execVaddsVv f s
  | .vaddsVs f => Sys2Proof.Machine.execVaddsVs f s
  | .vaddsVi f => Sys2Proof.Machine.execVaddsVi f s
  | .vsubsVv f => Sys2Proof.Machine.execVsubsVv f s
  | .vsubsVs f => Sys2Proof.Machine.execVsubsVs f s
  | .vsubsVi f => Sys2Proof.Machine.execVsubsVi f s
  | .vavgVv f => Sys2Proof.Machine.execVavgVv f s
  | .vavgVs f => Sys2Proof.Machine.execVavgVs f s
  | .vavgVi f => Sys2Proof.Machine.execVavgVi f s
  | .vabsdVv f => Sys2Proof.Machine.execVabsdVv f s
  | .vabsdVs f => Sys2Proof.Machine.execVabsdVs f s
  | .vabsdVi f => Sys2Proof.Machine.execVabsdVi f s
  | .vminVv f => Sys2Proof.Machine.execVminVv f s
  | .vminVs f => Sys2Proof.Machine.execVminVs f s
  | .vminVi f => Sys2Proof.Machine.execVminVi f s
  | .vmaxVv f => Sys2Proof.Machine.execVmaxVv f s
  | .vmaxVs f => Sys2Proof.Machine.execVmaxVs f s
  | .vmaxVi f => Sys2Proof.Machine.execVmaxVi f s
  | .vandVv f => Sys2Proof.Machine.execVandVv f s
  | .vandVs f => Sys2Proof.Machine.execVandVs f s
  | .vandVi f => Sys2Proof.Machine.execVandVi f s
  | .vorVv f => Sys2Proof.Machine.execVorVv f s
  | .vorVs f => Sys2Proof.Machine.execVorVs f s
  | .vorVi f => Sys2Proof.Machine.execVorVi f s
  | .vxorVv f => Sys2Proof.Machine.execVxorVv f s
  | .vxorVs f => Sys2Proof.Machine.execVxorVs f s
  | .vxorVi f => Sys2Proof.Machine.execVxorVi f s
  | .vshlVv f => Sys2Proof.Machine.execVshlVv f s
  | .vshlVs f => Sys2Proof.Machine.execVshlVs f s
  | .vshlVi f => Sys2Proof.Machine.execVshlVi f s
  | .vshrVv f => Sys2Proof.Machine.execVshrVv f s
  | .vshrVs f => Sys2Proof.Machine.execVshrVs f s
  | .vshrVi f => Sys2Proof.Machine.execVshrVi f s
  | .vsraVv f => Sys2Proof.Machine.execVsraVv f s
  | .vsraVs f => Sys2Proof.Machine.execVsraVs f s
  | .vsraVi f => Sys2Proof.Machine.execVsraVi f s
  | .vfshlVv f => Sys2Proof.Machine.execVfshlVv f s
  | .vfshlVs f => Sys2Proof.Machine.execVfshlVs f s
  | .vfshlVi f => Sys2Proof.Machine.execVfshlVi f s
  | .vfshrVv f => Sys2Proof.Machine.execVfshrVv f s
  | .vfshrVs f => Sys2Proof.Machine.execVfshrVs f s
  | .vfshrVi f => Sys2Proof.Machine.execVfshrVi f s
  | .vclz f => Sys2Proof.Machine.execVclz f s
  | .vpopc f => Sys2Proof.Machine.execVpopc f s
  | .vcmp f => Sys2Proof.Machine.execVcmp f s
  | .vsel f => Sys2Proof.Machine.execVsel f s
  | .vwid f => Sys2Proof.Machine.execVwid f s
  | .vnar f => Sys2Proof.Machine.execVnar f s
  | .vpxu f => Sys2Proof.Machine.execVpxu f s
  | .vpxp f => Sys2Proof.Machine.execVpxp f s
  | .vfaddVv f => Sys2Proof.Machine.execVfaddVv f s
  | .vfaddVs f => Sys2Proof.Machine.execVfaddVs f s
  | .vfsubVv f => Sys2Proof.Machine.execVfsubVv f s
  | .vfsubVs f => Sys2Proof.Machine.execVfsubVs f s
  | .vfmulVv f => Sys2Proof.Machine.execVfmulVv f s
  | .vfmulVs f => Sys2Proof.Machine.execVfmulVs f s
  | .vfmaVv f => Sys2Proof.Machine.execVfmaVv f s
  | .vfmaVs f => Sys2Proof.Machine.execVfmaVs f s
  | .vfminVv f => Sys2Proof.Machine.execVfminVv f s
  | .vfminVs f => Sys2Proof.Machine.execVfminVs f s
  | .vfmaxVv f => Sys2Proof.Machine.execVfmaxVv f s
  | .vfmaxVs f => Sys2Proof.Machine.execVfmaxVs f s
  | .vfdivVv f => Sys2Proof.Machine.execVfdivVv f s
  | .vfdivVs f => Sys2Proof.Machine.execVfdivVs f s
  | .vfsqrt f => Sys2Proof.Machine.execVfsqrt f s
  | .vfrcp f => Sys2Proof.Machine.execVfrcp f s
  | .vfrsq f => Sys2Proof.Machine.execVfrsq f s
  | .vfexp2 f => Sys2Proof.Machine.execVfexp2 f s
  | .vflog2 f => Sys2Proof.Machine.execVflog2 f s
  | .vfclass f => Sys2Proof.Machine.execVfclass f s
  | .vfround f => Sys2Proof.Machine.execVfround f s
  | .vfcmp f => Sys2Proof.Machine.execVfcmp f s
  | .vfcvt f => Sys2Proof.Machine.execVfcvt f s
  | .vficvt f => Sys2Proof.Machine.execVficvt f s
  | .vmvx f => Sys2Proof.Machine.execVmvx f s
  | .vmvs f => Sys2Proof.Machine.execVmvs f s
  | .vbc f => Sys2Proof.Machine.execVbc f s
  | .vslu f => Sys2Proof.Machine.execVslu f s
  | .vsld f => Sys2Proof.Machine.execVsld f s
  | .vperm f => Sys2Proof.Machine.execVperm f s
  | .vcomp f => Sys2Proof.Machine.execVcomp f s
  | .vexp f => Sys2Proof.Machine.execVexp f s
  | .viota f => Sys2Proof.Machine.execViota f s
  | .vredsum f => Sys2Proof.Machine.execVredsum f s
  | .vredmax f => Sys2Proof.Machine.execVredmax f s
  | .vredmin f => Sys2Proof.Machine.execVredmin f s
  | .vredand f => Sys2Proof.Machine.execVredand f s
  | .vredor f => Sys2Proof.Machine.execVredor f s
  | .vfredsum f => Sys2Proof.Machine.execVfredsum f s
  | .vfredsumFold f => Sys2Proof.Machine.execVfredsumFold f s
  | .vfredsumFin f => Sys2Proof.Machine.execVfredsumFin f s
  | .vfredsumInit f => Sys2Proof.Machine.execVfredsumInit f s
  | .vgmax f => Sys2Proof.Machine.execVgmax f s
  | .vscan f => Sys2Proof.Machine.execVscan f s
  | .mand f => Sys2Proof.Machine.execMand f s
  | .mor f => Sys2Proof.Machine.execMor f s
  | .mxor f => Sys2Proof.Machine.execMxor f s
  | .mandn f => Sys2Proof.Machine.execMandn f s
  | .mnot f => Sys2Proof.Machine.execMnot f s
  | .mpopc f => Sys2Proof.Machine.execMpopc f s
  | .mfirst f => Sys2Proof.Machine.execMfirst f s
  | .vqblk f => Sys2Proof.Machine.execVqblk f s
  | .vdqblk f => Sys2Proof.Machine.execVdqblk f s
  | .vsacc f => Sys2Proof.Machine.execVsacc f s
  | .vld f => Sys2Proof.Machine.execVld f s
  | .vldff f => Sys2Proof.Machine.execVldff f s
  | .vlds f => Sys2Proof.Machine.execVlds f s
  | .vldx f => Sys2Proof.Machine.execVldx f s
  | .vldseg fn f => Sys2Proof.Machine.execVldseg fn f s
  | .vldscUnit f => Sys2Proof.Machine.execVldscUnit f s
  | .vldscStrided f => Sys2Proof.Machine.execVldscStrided f s
  | .vldscIndexed f => Sys2Proof.Machine.execVldscIndexed f s
  | .vst f => Sys2Proof.Machine.execVst f s
  | .vsts f => Sys2Proof.Machine.execVsts f s
  | .vstx f => Sys2Proof.Machine.execVstx f s
  | .vstseg fn f => Sys2Proof.Machine.execVstseg fn f s
  | .vstbm f => Sys2Proof.Machine.execVstbm f s
  | .vstscUnit f => Sys2Proof.Machine.execVstscUnit f s
  | .vstscStrided f => Sys2Proof.Machine.execVstscStrided f s
  | .vstscIndexed f => Sys2Proof.Machine.execVstscIndexed f s
  | .amoSwap f => Sys2Proof.Machine.execAmoSwap f s
  | .amoCas f => Sys2Proof.Machine.execAmoCas f s
  | .amoAdd f => Sys2Proof.Machine.execAmoAdd f s
  | .amoAnd f => Sys2Proof.Machine.execAmoAnd f s
  | .amoOr f => Sys2Proof.Machine.execAmoOr f s
  | .amoXor f => Sys2Proof.Machine.execAmoXor f s
  | .amoMin f => Sys2Proof.Machine.execAmoMin f s
  | .amoMax f => Sys2Proof.Machine.execAmoMax f s
  | .amoMinn f => Sys2Proof.Machine.execAmoMinn f s
  | .amoMaxn f => Sys2Proof.Machine.execAmoMaxn f s
  | .vamoSwap f => Sys2Proof.Machine.execVamoSwap f s
  | .vamoCas f => Sys2Proof.Machine.execVamoCas f s
  | .vamoAdd f => Sys2Proof.Machine.execVamoAdd f s
  | .vamoAnd f => Sys2Proof.Machine.execVamoAnd f s
  | .vamoOr f => Sys2Proof.Machine.execVamoOr f s
  | .vamoXor f => Sys2Proof.Machine.execVamoXor f s
  | .vamoMin f => Sys2Proof.Machine.execVamoMin f s
  | .vamoMax f => Sys2Proof.Machine.execVamoMax f s
  | .vamoMinn f => Sys2Proof.Machine.execVamoMinn f s
  | .vamoMaxn f => Sys2Proof.Machine.execVamoMaxn f s
  | .vsadd f => Sys2Proof.Machine.execVsadd f s
  | .scatterAddPerform n => Sys2Proof.Machine.execScatterAddPerform n s
  | .vwait f => Sys2Proof.Machine.execVwait f s
  | .fence f => Sys2Proof.Machine.execFence f s
  | .probe f => Sys2Proof.Machine.execProbe f s
  | .binit f => Sys2Proof.Machine.execBinit f s
  | .arrive f => Sys2Proof.Machine.execArrive f s
  | .bwait f => Sys2Proof.Machine.execBwait f s
  | .barrierWaitWake n => Sys2Proof.Machine.execBarrierWaitWake n s
  | .sld sz f => Sys2Proof.Machine.execSld sz f s
  | .sst sz f => Sys2Proof.Machine.execSst sz f s
  | .strn f => Sys2Proof.Machine.execStrn f s
  | .stbl f => Sys2Proof.Machine.execStbl f s
  | .sbind f => Sys2Proof.Machine.execSbind f s
  | .sunbind f => Sys2Proof.Machine.execSunbind f s
  | .sqry f => Sys2Proof.Machine.execSqry f s
  | .parkRejudge line => Sys2Proof.Machine.execParkRejudge line s
  | .parkLimit n => Sys2Proof.Machine.execParkLimit n s
  | .cdef f => Sys2Proof.Machine.execCdef f s
  | .cld f => Sys2Proof.Machine.execCld f s
  | .cst f => Sys2Proof.Machine.execCst f s
  | .clen f => Sys2Proof.Machine.execClen f s
  | .cpend f => Sys2Proof.Machine.execCpend f s
  | .cclr f => Sys2Proof.Machine.execCclr f s
  | .cselScalar f => Sys2Proof.Machine.execCselScalar f s
  | .cselColumn f => Sys2Proof.Machine.execCselColumn f s
  | .cselList f => Sys2Proof.Machine.execCselList f s
  | .cprj f => Sys2Proof.Machine.execCprj f s
  | .cjoinInner f => Sys2Proof.Machine.execCjoinInner f s
  | .cjoinSemi f => Sys2Proof.Machine.execCjoinSemi f s
  | .cjoinAnti f => Sys2Proof.Machine.execCjoinAnti f s
  | .cgrp f => Sys2Proof.Machine.execCgrp f s
  | .caggCnt f => Sys2Proof.Machine.execCaggCnt f s
  | .caggSum f => Sys2Proof.Machine.execCaggSum f s
  | .caggMin f => Sys2Proof.Machine.execCaggMin f s
  | .caggMax f => Sys2Proof.Machine.execCaggMax f s
  | .caggCntWhole f => Sys2Proof.Machine.execCaggCntWhole f s
  | .caggSumWhole f => Sys2Proof.Machine.execCaggSumWhole f s
  | .caggMinWhole f => Sys2Proof.Machine.execCaggMinWhole f s
  | .caggMaxWhole f => Sys2Proof.Machine.execCaggMaxWhole f s
  | .csort f => Sys2Proof.Machine.execCsort f s
  | .csortDesc f => Sys2Proof.Machine.execCsortDesc f s
  | .cuniq f => Sys2Proof.Machine.execCuniq f s
  | .ctopk f => Sys2Proof.Machine.execCtopk f s
  | .ctopkMin f => Sys2Proof.Machine.execCtopkMin f s
  | .tenq f => Sys2Proof.Machine.execTenq f s
  | .tqry f => Sys2Proof.Machine.execTqry f s
  | .tcancel f => Sys2Proof.Machine.execTcancel f s
  | .batch f => Sys2Proof.Machine.execBatch f s
  | .publ f => Sys2Proof.Machine.execPubl f s
  | .xtbl f => Sys2Proof.Machine.execXtbl f s
  | .csrr f => Sys2Proof.Machine.execCsrr f s
  | .csrw f => Sys2Proof.Machine.execCsrw f s
  | .csrs f => Sys2Proof.Machine.execCsrs f s
  | .csrc f => Sys2Proof.Machine.execCsrc f s
  | .trap f => Sys2Proof.Machine.execTrap f s
  | .rft f => Sys2Proof.Machine.execRft f s
  | .isync f => Sys2Proof.Machine.execIsync f s
  | .halt f => Sys2Proof.Machine.execHalt f s
  | .brk f => Sys2Proof.Machine.execBrk f s
  | .tlbinvPage f => Sys2Proof.Machine.execTlbinvPage f s
  | .tlbinvAll f => Sys2Proof.Machine.execTlbinvAll f s
  | .vsave f => Sys2Proof.Machine.execVsave f s
  | .vrest f => Sys2Proof.Machine.execVrest f s
  | .launch f => Sys2Proof.Machine.execLaunch f s
  | .yield f => Sys2Proof.Machine.execYield f s
  | .exit f => Sys2Proof.Machine.execExit f s
  | .chputOpen f => Sys2Proof.Machine.execChputOpen f s
  | .chputClose f => Sys2Proof.Machine.execChputClose f s
  | .chgetOpen f => Sys2Proof.Machine.execChgetOpen f s
  | .chgetClose f => Sys2Proof.Machine.execChgetClose f s
  | .wmbind f => Sys2Proof.Machine.execWmbind f s
  | .wmpub f => Sys2Proof.Machine.execWmpub f s
  | .watermarkWaitWake n => Sys2Proof.Machine.execWatermarkWaitWake n s
  | .setvl f => Sys2Proof.Machine.execSetvl f s
  | .vcfg f => Sys2Proof.Machine.execVcfg f s
  | .breakpointMatch n => Sys2Proof.Machine.execBreakpointMatch n s
  | .checkLaneMismatch n => Sys2Proof.Machine.execCheckLaneMismatch n s
  | .contextEnd mcheck => Sys2Proof.Machine.execContextEnd mcheck s
  | .vfirst => Sys2Proof.Machine.execVfirst s
  | .preempt q => Sys2Proof.Machine.execPreempt q s
  | .preemptGraceExpiry q => Sys2Proof.Machine.execPreemptGraceExpiry q s
  | .switchIn n q => Sys2Proof.Machine.execSwitchIn n q s
  | .instanceStart serial stage q => Sys2Proof.Machine.execInstanceStart serial stage q s
  | .launchEnd serial => Sys2Proof.Machine.execLaunchEnd serial s
  | .launchAging serial => Sys2Proof.Machine.execLaunchAging serial s
  | .quantumExpiry q => Sys2Proof.Machine.execQuantumExpiry q s
  | .laneRepartition core => Sys2Proof.Machine.execLaneRepartition core s
  | .laneGrant q => Sys2Proof.Machine.execLaneGrant q s
  | .repartitionTimeout q => Sys2Proof.Machine.execRepartitionTimeout q s
  | .pcapAdjust core up => Sys2Proof.Machine.execPcapAdjust core up s
  | .taskWaitEntry h => Sys2Proof.Machine.execTaskWaitEntry h s
  | .taskIssue cluster => Sys2Proof.Machine.execTaskIssue cluster s
  | .taskAging h => Sys2Proof.Machine.execTaskAging h s
  | .taskResume cluster => Sys2Proof.Machine.execTaskResume cluster s
  | .taskDone h => Sys2Proof.Machine.execTaskDone h s
  | .lda h => Sys2Proof.Machine.execLda h s
  | .ldb h => Sys2Proof.Machine.execLdb h s
  | .mma h => Sys2Proof.Machine.execMma h s
  | .sacc h => Sys2Proof.Machine.execSacc h s
  | .acvt h => Sys2Proof.Machine.execAcvt h s
  | .zero h => Sys2Proof.Machine.execZero h s
  | .spmask h => Sys2Proof.Machine.execSpmask h s
  | .trn h => Sys2Proof.Machine.execTrn h s
  | .copy id => Sys2Proof.Machine.execCopy id s
  | .fill id => Sys2Proof.Machine.execFill id s
  | .cvt id => Sys2Proof.Machine.execCvt id s
  | .decode id => Sys2Proof.Machine.execDecode id s
  | .encode id => Sys2Proof.Machine.execEncode id s
  | .xformUnpack id => Sys2Proof.Machine.execXformUnpack id s
  | .xformRun id => Sys2Proof.Machine.execXformRun id s
  | .storrd id => Sys2Proof.Machine.execStorrd id s
  | .nvmeCompletion id => Sys2Proof.Machine.execNvmeCompletion id s
  | .storrdTimeout id => Sys2Proof.Machine.execStorrdTimeout id s
  | .commandComplete id => Sys2Proof.Machine.execCommandComplete id s
  | .migrationStart ctx va => Sys2Proof.Machine.execMigrationStart ctx va s
  | .migrationPublish n => Sys2Proof.Machine.execMigrationPublish n s
  | .lineWriteback line => Sys2Proof.Machine.execLineWriteback line s
  | .scrubRead line => Sys2Proof.Machine.execScrubRead line s
  | .meshLinkRetry die link attempts => Sys2Proof.Machine.execMeshLinkRetry die link attempts s
  | .errinjDramCell v => Sys2Proof.Machine.execErrinjDramCell v s
  | .errinjBusOnce v => Sys2Proof.Machine.execErrinjBusOnce v s
  | .errinjBusStuck v => Sys2Proof.Machine.execErrinjBusStuck v s
  | .errbankStatRead die bank => Sys2Proof.Machine.execErrbankStatRead die bank s
  | .errbankClear die bank => Sys2Proof.Machine.execErrbankClear die bank s
  | .wmarkRead => Sys2Proof.Machine.execWmarkRead s
  | .registerWrite t v => Sys2Proof.Machine.execRegisterWrite t v s
  | .flitReceive port flit => Sys2Proof.Machine.execFlitReceive port flit s
  | .linkDown port => Sys2Proof.Machine.execLinkDown port s
  | .rd port => Sys2Proof.Machine.execRd port s
  | .wr port => Sys2Proof.Machine.execWr port s
  | .atomicRemote port => Sys2Proof.Machine.execAtomicRemote port s
  | .sa port => Sys2Proof.Machine.execSa port s
  | .sadd port => Sys2Proof.Machine.execSadd port s
  | .rsp port => Sys2Proof.Machine.execRsp port s
  | .ack port => Sys2Proof.Machine.execAck port s
  | .wdr port => Sys2Proof.Machine.execWdr port s
  | .routeMove dst cls => Sys2Proof.Machine.execRouteMove dst cls s
  | .hostMemRequest r => Sys2Proof.Machine.execHostMemRequest r s
  | .peerApertureWrite id off data => Sys2Proof.Machine.execPeerApertureWrite id off data s
  | .createReq fn => Sys2Proof.Machine.execCreateReq fn s
  | .settvl fn => Sys2Proof.Machine.execSettvl fn s
  | .suspend fn => Sys2Proof.Machine.execSuspend fn s
  | .resume fn => Sys2Proof.Machine.execResume fn s
  | .setbp fn => Sys2Proof.Machine.execSetbp fn s
  | .teardown fn => Sys2Proof.Machine.execTeardown fn s
  | .attest fn => Sys2Proof.Machine.execAttest fn s
  | .winmap fn => Sys2Proof.Machine.execWinmap fn s
  | .exportReq fn => Sys2Proof.Machine.execExportReq fn s
  | .pwrset fn => Sys2Proof.Machine.execPwrset fn s
  | .pwrget fn => Sys2Proof.Machine.execPwrget fn s
  | .qctlWrite fn q v => Sys2Proof.Machine.execQctlWrite fn q v s
  | .hostqTailWrite fn q v => Sys2Proof.Machine.execHostqTailWrite fn q v s
  | .hostqEntry fn q => Sys2Proof.Machine.execHostqEntry fn q s
  | .hostqSwitchOut fn q => Sys2Proof.Machine.execHostqSwitchOut fn q s
  | .hostqSwitchIn fn q => Sys2Proof.Machine.execHostqSwitchIn fn q s
  | .thermWrite v => Sys2Proof.Machine.execThermWrite v s
  | .thermalThrottle die temp => Sys2Proof.Machine.execThermalThrottle die temp s
  | .thermalTrip die => Sys2Proof.Machine.execThermalTrip die s
  | .evtRead => Sys2Proof.Machine.execEvtRead s
  | .deviceNumberWrite v => Sys2Proof.Machine.execDeviceNumberWrite v s
  | .mgmtBlockWrite ix v => Sys2Proof.Machine.execMgmtBlockWrite ix v s
  | .mgmtBlockRead ix => Sys2Proof.Machine.execMgmtBlockRead ix s
  | .coldReset => Sys2Proof.Machine.execColdReset s
  | .functionLevelReset fn => Sys2Proof.Machine.execFunctionLevelReset fn s
  | .lifeCycleChange token => Sys2Proof.Machine.execLifeCycleChange token s
  | .serviceFirmwareFault => Sys2Proof.Machine.execServiceFirmwareFault s
  | .nonInstructionWord w => Sys2Proof.Machine.execNonInstructionWord w s
  | .fetchFault => Sys2Proof.Machine.execFetchFault s
  | .linkRetrain port => Sys2Proof.Machine.execLinkRetrain port s
  | .destinationMarkClear dev => Sys2Proof.Machine.execDestinationMarkClear dev s
  | .frameReassign frame tenant => Sys2Proof.Machine.execFrameReassign frame tenant s

end Sys2Proof.Machine
end

