-- ==== Sys2Proof/Machine/Runner.lean ====
section
/-! DEFINITION. Running a decoded word. -/
set_option Elab.async false
namespace Sys2Proof.Machine

/-- The meaning of the instruction that a word of an operation spells, for evaluation. -/
def runOp (o : Op) (w : Word) (s : State) : Res :=
  match o with
  | .add => execAdd (rrOf w) s
  | .sub => execSub (rrOf w) s
  | .mul => execMul (rrOf w) s
  | .mulh => execMulh (rrOf w) s
  | .mulhn => execMulhn (rrOf w) s
  | .div => execDiv (rrOf w) s
  | .divn => execDivn (rrOf w) s
  | .rem => execRem (rrOf w) s
  | .remn => execRemn (rrOf w) s
  | .and => execAnd (rrOf w) s
  | .or => execOr (rrOf w) s
  | .xor => execXor (rrOf w) s
  | .andn => execAndn (rrOf w) s
  | .shl => execShl (rrOf w) s
  | .shr => execShr (rrOf w) s
  | .sra => execSra (rrOf w) s
  | .rotl => execRotl (rrOf w) s
  | .min => execMin (rrOf w) s
  | .max => execMax (rrOf w) s
  | .minn => execMinn (rrOf w) s
  | .maxn => execMaxn (rrOf w) s
  | .sel => execSel (rrOf w) s
  | .fshl => execFshl (rrOf w) s
  | .fshr => execFshr (rrOf w) s
  | .addi => execAddi (riOf w) s
  | .andi => execAndi (riOf w) s
  | .ori => execOri (riOf w) s
  | .xori => execXori (riOf w) s
  | .shli => execShli (riOf w) s
  | .shri => execShri (riOf w) s
  | .srai => execSrai (riOf w) s
  | .rotli => execRotli (riOf w) s
  | .bext => execBext (riOf w) s
  | .bins => execBins (riOf w) s
  | .clz => execClz (rrOf w) s
  | .ctz => execCtz (rrOf w) s
  | .popc => execPopc (rrOf w) s
  | .rdls => execRdls (rrOf w) s
  | .setc => execSetc (w.extractLsb' 50 3) (rrOf w) s
  | .li => execLi (liOf w) s
  | .lih => execLih (liOf w) s
  | .pcadd => execPcadd (riOf w) s
  | .ld => execLd (w.extractLsb' 50 2) (riOf w) s
  | .st => execSt (w.extractLsb' 50 2) (riOf w) s
  | .ldOrdered => execLdOrdered (vmOf w) s
  | .stOrdered => execStOrdered (vmOf w) s
  | .bc => execBc (w.extractLsb' 50 3) (brOf w) s
  | .j => execJ (brOf w) s
  | .jl => execJl (brOf w) s
  | .jr => execJr (rrOf w) s
  | .loop => execLoop (brOf w) s
  | .lbrk => execLbrk (rrOf w) s
  | .nop => execNop (rrOf w) s
  | .vaddVv => execVaddVv (vvOf w) s
  | .vaddVs => execVaddVs (vvOf w) s
  | .vaddVi => execVaddVi (vvOf w) s
  | .vsubVv => execVsubVv (vvOf w) s
  | .vsubVs => execVsubVs (vvOf w) s
  | .vsubVi => execVsubVi (vvOf w) s
  | .vmulVv => execVmulVv (vvOf w) s
  | .vmulVs => execVmulVs (vvOf w) s
  | .vmulVi => execVmulVi (vvOf w) s
  | .vmulhVv => execVmulhVv (vvOf w) s
  | .vmulhVs => execVmulhVs (vvOf w) s
  | .vmulhVi => execVmulhVi (vvOf w) s
  | .vmacVv => execVmacVv (vvOf w) s
  | .vmacVs => execVmacVs (vvOf w) s
  | .vmacVi => execVmacVi (vvOf w) s
  | .vaddsVv => execVaddsVv (vvOf w) s
  | .vaddsVs => execVaddsVs (vvOf w) s
  | .vaddsVi => execVaddsVi (vvOf w) s
  | .vsubsVv => execVsubsVv (vvOf w) s
  | .vsubsVs => execVsubsVs (vvOf w) s
  | .vsubsVi => execVsubsVi (vvOf w) s
  | .vavgVv => execVavgVv (vvOf w) s
  | .vavgVs => execVavgVs (vvOf w) s
  | .vavgVi => execVavgVi (vvOf w) s
  | .vabsdVv => execVabsdVv (vvOf w) s
  | .vabsdVs => execVabsdVs (vvOf w) s
  | .vabsdVi => execVabsdVi (vvOf w) s
  | .vminVv => execVminVv (vvOf w) s
  | .vminVs => execVminVs (vvOf w) s
  | .vminVi => execVminVi (vvOf w) s
  | .vmaxVv => execVmaxVv (vvOf w) s
  | .vmaxVs => execVmaxVs (vvOf w) s
  | .vmaxVi => execVmaxVi (vvOf w) s
  | .vandVv => execVandVv (vvOf w) s
  | .vandVs => execVandVs (vvOf w) s
  | .vandVi => execVandVi (vvOf w) s
  | .vorVv => execVorVv (vvOf w) s
  | .vorVs => execVorVs (vvOf w) s
  | .vorVi => execVorVi (vvOf w) s
  | .vxorVv => execVxorVv (vvOf w) s
  | .vxorVs => execVxorVs (vvOf w) s
  | .vxorVi => execVxorVi (vvOf w) s
  | .vshlVv => execVshlVv (vvOf w) s
  | .vshlVs => execVshlVs (vvOf w) s
  | .vshlVi => execVshlVi (vvOf w) s
  | .vshrVv => execVshrVv (vvOf w) s
  | .vshrVs => execVshrVs (vvOf w) s
  | .vshrVi => execVshrVi (vvOf w) s
  | .vsraVv => execVsraVv (vvOf w) s
  | .vsraVs => execVsraVs (vvOf w) s
  | .vsraVi => execVsraVi (vvOf w) s
  | .vfshlVv => execVfshlVv (vvOf w) s
  | .vfshlVs => execVfshlVs (vvOf w) s
  | .vfshlVi => execVfshlVi (vvOf w) s
  | .vfshrVv => execVfshrVv (vvOf w) s
  | .vfshrVs => execVfshrVs (vvOf w) s
  | .vfshrVi => execVfshrVi (vvOf w) s
  | .vclz => execVclz (vvOf w) s
  | .vpopc => execVpopc (vvOf w) s
  | .vcmp => execVcmp (vvOf w) s
  | .vsel => execVsel (vvOf w) s
  | .vwid => execVwid (vvOf w) s
  | .vnar => execVnar (vvOf w) s
  | .vpxu => execVpxu (vvOf w) s
  | .vpxp => execVpxp (vvOf w) s
  | .vfaddVv => execVfaddVv (vvOf w) s
  | .vfaddVs => execVfaddVs (vvOf w) s
  | .vfsubVv => execVfsubVv (vvOf w) s
  | .vfsubVs => execVfsubVs (vvOf w) s
  | .vfmulVv => execVfmulVv (vvOf w) s
  | .vfmulVs => execVfmulVs (vvOf w) s
  | .vfmaVv => execVfmaVv (vvOf w) s
  | .vfmaVs => execVfmaVs (vvOf w) s
  | .vfminVv => execVfminVv (vvOf w) s
  | .vfminVs => execVfminVs (vvOf w) s
  | .vfmaxVv => execVfmaxVv (vvOf w) s
  | .vfmaxVs => execVfmaxVs (vvOf w) s
  | .vfdivVv => execVfdivVv (vvOf w) s
  | .vfdivVs => execVfdivVs (vvOf w) s
  | .vfsqrt => execVfsqrt (vvOf w) s
  | .vfrcp => execVfrcp (vvOf w) s
  | .vfrsq => execVfrsq (vvOf w) s
  | .vfexp2 => execVfexp2 (vvOf w) s
  | .vflog2 => execVflog2 (vvOf w) s
  | .vfclass => execVfclass (vvOf w) s
  | .vfround => execVfround (vvOf w) s
  | .vfcmp => execVfcmp (vvOf w) s
  | .vfcvt => execVfcvt (vvOf w) s
  | .vficvt => execVficvt (vvOf w) s
  | .vmvx => execVmvx (vvOf w) s
  | .vmvs => execVmvs (vvOf w) s
  | .vbc => execVbc (vvOf w) s
  | .vslu => execVslu (vvOf w) s
  | .vsld => execVsld (vvOf w) s
  | .vperm => execVperm (vvOf w) s
  | .vcomp => execVcomp (vvOf w) s
  | .vexp => execVexp (vvOf w) s
  | .viota => execViota (vvOf w) s
  | .vredsum => execVredsum (vvOf w) s
  | .vredmax => execVredmax (vvOf w) s
  | .vredmin => execVredmin (vvOf w) s
  | .vredand => execVredand (vvOf w) s
  | .vredor => execVredor (vvOf w) s
  | .vfredsum => execVfredsum (vvOf w) s
  | .vfredsumFold => execVfredsumFold (vvOf w) s
  | .vfredsumFin => execVfredsumFin (vvOf w) s
  | .vfredsumInit => execVfredsumInit (vvOf w) s
  | .vgmax => execVgmax (vvOf w) s
  | .vscan => execVscan (vvOf w) s
  | .mand => execMand (vvOf w) s
  | .mor => execMor (vvOf w) s
  | .mxor => execMxor (vvOf w) s
  | .mandn => execMandn (vvOf w) s
  | .mnot => execMnot (vvOf w) s
  | .mpopc => execMpopc (vvOf w) s
  | .mfirst => execMfirst (vvOf w) s
  | .vqblk => execVqblk (vvOf w) s
  | .vdqblk => execVdqblk (vvOf w) s
  | .vsacc => execVsacc (vvOf w) s
  | .vld => execVld (vmOf w) s
  | .vldff => execVldff (vmOf w) s
  | .vlds => execVlds (vmOf w) s
  | .vldx => execVldx (vmOf w) s
  | .vldseg => execVldseg (w.extractLsb' 50 6) (vmOf w) s
  | .vldscUnit => execVldscUnit (vmOf w) s
  | .vldscStrided => execVldscStrided (vmOf w) s
  | .vldscIndexed => execVldscIndexed (vmOf w) s
  | .vst => execVst (vmOf w) s
  | .vsts => execVsts (vmOf w) s
  | .vstx => execVstx (vmOf w) s
  | .vstseg => execVstseg (w.extractLsb' 50 6) (vmOf w) s
  | .vstbm => execVstbm (vmOf w) s
  | .vstscUnit => execVstscUnit (vmOf w) s
  | .vstscStrided => execVstscStrided (vmOf w) s
  | .vstscIndexed => execVstscIndexed (vmOf w) s
  | .amoSwap => execAmoSwap (vmOf w) s
  | .amoCas => execAmoCas (vmOf w) s
  | .amoAdd => execAmoAdd (vmOf w) s
  | .amoAnd => execAmoAnd (vmOf w) s
  | .amoOr => execAmoOr (vmOf w) s
  | .amoXor => execAmoXor (vmOf w) s
  | .amoMin => execAmoMin (vmOf w) s
  | .amoMax => execAmoMax (vmOf w) s
  | .amoMinn => execAmoMinn (vmOf w) s
  | .amoMaxn => execAmoMaxn (vmOf w) s
  | .vamoSwap => execVamoSwap (vmOf w) s
  | .vamoCas => execVamoCas (vmOf w) s
  | .vamoAdd => execVamoAdd (vmOf w) s
  | .vamoAnd => execVamoAnd (vmOf w) s
  | .vamoOr => execVamoOr (vmOf w) s
  | .vamoXor => execVamoXor (vmOf w) s
  | .vamoMin => execVamoMin (vmOf w) s
  | .vamoMax => execVamoMax (vmOf w) s
  | .vamoMinn => execVamoMinn (vmOf w) s
  | .vamoMaxn => execVamoMaxn (vmOf w) s
  | .vsadd => execVsadd (vmOf w) s
  | .vwait => execVwait (rrOf w) s
  | .fence => execFence (vmOf w) s
  | .probe => execProbe (vmOf w) s
  | .binit => execBinit (rrOf w) s
  | .arrive => execArrive (rrOf w) s
  | .bwait => execBwait (rrOf w) s
  | .sld => execSld (w.extractLsb' 50 2) (sgOf w) s
  | .sst => execSst (w.extractLsb' 50 2) (sgOf w) s
  | .strn => execStrn (sgOf w) s
  | .stbl => execStbl (riOf w) s
  | .sbind => execSbind (riOf w) s
  | .sunbind => execSunbind (riOf w) s
  | .sqry => execSqry (sgOf w) s
  | .cdef => execCdef (clOf w) s
  | .cld => execCld (clOf w) s
  | .cst => execCst (clOf w) s
  | .clen => execClen (clOf w) s
  | .cpend => execCpend (clOf w) s
  | .cclr => execCclr (clOf w) s
  | .cselScalar => execCselScalar (clOf w) s
  | .cselColumn => execCselColumn (clOf w) s
  | .cselList => execCselList (clOf w) s
  | .cprj => execCprj (clOf w) s
  | .cjoinInner => execCjoinInner (clOf w) s
  | .cjoinSemi => execCjoinSemi (clOf w) s
  | .cjoinAnti => execCjoinAnti (clOf w) s
  | .cgrp => execCgrp (clOf w) s
  | .caggCnt => execCaggCnt (clOf w) s
  | .caggSum => execCaggSum (clOf w) s
  | .caggMin => execCaggMin (clOf w) s
  | .caggMax => execCaggMax (clOf w) s
  | .caggCntWhole => execCaggCntWhole (clOf w) s
  | .caggSumWhole => execCaggSumWhole (clOf w) s
  | .caggMinWhole => execCaggMinWhole (clOf w) s
  | .caggMaxWhole => execCaggMaxWhole (clOf w) s
  | .csort => execCsort (clOf w) s
  | .csortDesc => execCsortDesc (clOf w) s
  | .cuniq => execCuniq (clOf w) s
  | .ctopk => execCtopk (clOf w) s
  | .ctopkMin => execCtopkMin (clOf w) s
  | .tenq => execTenq (rrOf w) s
  | .tqry => execTqry (rrOf w) s
  | .tcancel => execTcancel (rrOf w) s
  | .batch => execBatch (btOf w) s
  | .publ => execPubl (rrOf w) s
  | .xtbl => execXtbl (riOf w) s
  | .csrr => execCsrr (syOf w) s
  | .csrw => execCsrw (syOf w) s
  | .csrs => execCsrs (syOf w) s
  | .csrc => execCsrc (syOf w) s
  | .trap => execTrap (syOf w) s
  | .rft => execRft (syOf w) s
  | .isync => execIsync (syOf w) s
  | .halt => execHalt (syOf w) s
  | .brk => execBrk (syOf w) s
  | .tlbinvPage => execTlbinvPage (syOf w) s
  | .tlbinvAll => execTlbinvAll (syOf w) s
  | .vsave => execVsave (syOf w) s
  | .vrest => execVrest (syOf w) s
  | .launch => execLaunch (rrOf w) s
  | .yield => execYield (rrOf w) s
  | .exit => execExit (rrOf w) s
  | .chputOpen => execChputOpen (rrOf w) s
  | .chputClose => execChputClose (rrOf w) s
  | .chgetOpen => execChgetOpen (rrOf w) s
  | .chgetClose => execChgetClose (rrOf w) s
  | .wmbind => execWmbind (rrOf w) s
  | .wmpub => execWmpub (rrOf w) s
  | .setvl => execSetvl (vvOf w) s
  | .vcfg => execVcfg (vvOf w) s

/-- `exec` of the instruction that a word spells as an operation (04 Table 4.6). -/
noncomputable def runDecoded (o : Op) (w : Word) (s : State) : Res := exec (o.toInstr w) s

/-- `runDecoded` is evaluated as `runOp`. -/
@[csimp] theorem runDecoded_eq_runOp : @runDecoded = @runOp := by
  funext o w s
  cases o <;> rfl

end Sys2Proof.Machine
end

