-- ==== Sys2Proof/Machine/Turn.lean ====
section
/-! DEFINITION. One turn of a sequencer, and which events can happen. -/
namespace Sys2Proof.Machine

/-- A fetched word of the acting sequencer: rejected by its cause (R98), preceded by VFIRST (R442), or executed. -/
def State.runWord (s : State) (w : Word) : Res :=
  match decodeOp w with
  | .error _ => execNonInstructionWord w { s with rix := 0 }
  | .ok o =>
    if touchesVec w && s.hart.needsVfirst then execVfirst { s with rix := 0 }
    else runDecoded (s.resolve o w) w s

/-- One turn of the acting sequencer: nothing without an instance or while it is parked; a landing; a breakpoint; else
the instruction at the PC. -/
def State.turn (s : State) : Res :=
  if !s.hart.live then .next s
  else if s.landsNow then .next s.landPreempt
  else if s.withdrawDue then .next (s.withdraw true fun r => r.agent == s.agent)
  else if s.parked then .next s
  else
    match s.hart.held, s.matchingBp with
    | some w, _ => s.runWord w
    | none, some (n, _) => execBreakpointMatch n s
    | none, none =>
      match fetchWord { s with rix := 0 } with
      | (.error _, _) => execFetchFault { s with rix := 0 }
      | (.ok w, s1) => s1.runWord w

/-- The package serves nothing but its management port: it waits for cold reset (R466, R482, R514), it is in recovery
(R467), it is SCRAPPED (24 Table 24.5), or a reset or a wipe is under way (R470). -/
def State.mgmtOnly (s : State) : Bool := s.stopped || s.mgmt.recovery || s.mgmt.life == 3 || s.mgmt.boot != .ready

/-- Step 5 of a cold reset may be under way: service firmware writes the alternate-route tables (R515). -/
def State.writesRoutes (s : State) : Bool := s.mgmt.boot == .reset && !(s.stopped || s.mgmt.recovery || s.mgmt.life == 3)

/-- The event can happen: it is no instruction word, and a package that serves only its management port meets only a cold
reset, that port's accesses and what its dies read (R514), or in a cold reset the writing of the routes (DESIGN CHOICE, log 10). -/
def State.eventAllowed (s : State) (i : Instr) : Bool :=
  match i with
  | .coldReset | .evtRead | .mgmtBlockRead _ | .mgmtBlockWrite _ _ | .thermWrite _ | .deviceNumberWrite _
  | .thermalThrottle _ _ | .thermalTrip _ => true
  | .registerWrite (.route _ _) _ => !s.mgmtOnly || s.writesRoutes
  | i => i.op.isNone && !s.mgmtOnly

/-- A configuration request at the host port: answered, with Request Retry Status while a reset or a wipe is under way, and not at all
by a package that serves only its management port (R470, R515). -/
def State.answerConfig (s : State) (fn : Nat) : State :=
  if s.hostRefuses then s.emit (.hostRetry fn) else if s.mgmtOnly then s else s.emit (.hostConfig fn)

/-- An event that cannot happen: a host's memory request during a reset or a wipe is answered with Completer Abort (R470), anything
else has no effect. -/
def State.refuseEvent (s : State) (i : Instr) : State :=
  match i with
  | .hostMemRequest r => if s.hostRefuses then s.emit (.hostAbort r.fn) else s
  | _ => s

end Sys2Proof.Machine
end

