-- ==== Sys2Proof/Machine/Upset.lean ====
section
/-! DEFINITION. Errors that physics brings, and what the package makes of them (25 R472 to R478, R482, 09 R228, 17 R370).
An error whose place does not exist, or is not at work, is met by no access and changes nothing. -/
namespace Sys2Proof.Machine

/-- A record of an error that is neither a swap nor an access's own. -/
def errRecord (ctx owner orig unit subu line : Nat) (pois : Bool) : ErrRec :=
  { ctx, pois, swap := false, spare := false, owner, orig, unit, subu, nsym := 0, line }

/-- The pin group carries data on the channel: one that a spare replaces carries nothing, and a spare carries what it replaces
(R477); a spare in use is a pin group as the others are, which the other spare may replace (DEDUCED, log 35). -/
def Channel.carries (c : Channel) (g : Nat) : Bool :=
  (decide (g < 20) || (g == 20 && c.spare20.isSome) || (g == 21 && c.spare21.isSome)) && !c.replaced g

/-- R476: the attempts of one transfer, each with the pin groups that fail in it; the first in which no group that carries data
fails is done. Attempt 5 is made on the new map. -/
def State.vbusUpset (s : State) (line orig : Nat) (fails : List (List Nat)) : State :=
  let chan := chanNo line
  let c := s.chanOf chan
  let bad := ((fails.take 4).map fun l => l.filter c.carries).takeWhile fun l => !l.isEmpty
  let first := (bad.headD []).headD 0
  let fifth := match c.swap first with
    | some (c', _) => (fails.getD 4 []).all fun g => !c'.carries g
    | none => true
  if !inDram line || c.failed || bad.isEmpty then s
  else if bad.length < 4 then s.logVbus line first bad.length false false noCtx orig
  else if bad.any fun l => l.any (· != first) then s.failChannel chan (some line) noCtx orig 3
  else s.swapGroup line first fifth noCtx orig

/-- The core that a line of SRAM is in. -/
def sramCore (line : Nat) : Option Nat :=
  match homeOf (64 * line) with
  | .sram c => some c
  | _ => none

/-- R475, SRAM: a single-bit error is corrected; a double-bit error of a data word poisons the line. -/
def State.sramUpset (s : State) (line word orig : Nat) (double : Bool) : State :=
  match sramCore line with
  | none => s
  | some c =>
    let s1 := if double then s.setPois line true else s
    s1.logError (dieOf c) bankSram (!double) (errRecord noCtx (s.frameTenant (64 * line)) orig (c % 64) word line double)

/-- R475, metadata of a bound SRAM line, a chute's control line among them (R401): the binding context ends with MCHECK. -/
def State.sramMetaUpset (s : State) (line orig : Nat) : State :=
  match sramCore line, s.boundCtx line with
  | some c, some ctx =>
    (s.logError (dieOf c) bankSram false (errRecord ctx (s.frameTenant (64 * line)) orig (c % 64) 8 line true)).endOnce ctx
  | _, _ => s

/-- The context whose vector state a sequencer's storage holds. -/
def Hart.storageCtx (h : Hart) : Nat :=
  match h.owner with
  | some o => o.1
  | none => h.ctx

/-- R475, vector registers: a single-bit error of a group is corrected, a double-bit error sets the group's poison bit. -/
def State.vrfUpset (s : State) (core sq reg group : Nat) (double : Bool) : State :=
  let h := s.hartAt core sq
  if coreCount ≤ core ∨ 4 ≤ sq ∨ 32 ≤ reg ∨ 1024 ≤ group then s
  else
    let p := h.vec.pois[reg]?.getD 0
    let s1 :=
      if double then
        s.putHart { h with vec := { h.vec with pois := h.vec.pois.setIfInBounds reg (p ||| BitVec.twoPow 1024 group) } }
      else s
    s1.logError (dieOf core) bankVrf (!double) (errRecord h.storageCtx (s.ctxOf h.storageCtx).tenant 0 (core % 64) reg 0 double)

/-- R475: an uncorrectable error in a scalar, mask, column or loop-stack store ends the context with MCHECK. -/
def State.seqUpset (s : State) (core sq subu : Nat) : State :=
  let h := s.hartAt core sq
  if !h.live then s
  else
    (s.logError (dieOf core) bankVrf false (errRecord h.ctx (s.ctxOf h.ctx).tenant 0 (core % 64) subu 0 true)).endContext h.ctx
      (imprecise causeMcheck) 0 (some (core, sq, h.pc))

/-- R228: a mismatch that a retry does not repeat is logged as corrected; a third one fails the task with MCHECK. -/
def State.matrixUpset (s : State) (h : Word) (core subu n : Nat) : State :=
  match s.taskOf h with
  | none => s
  | some t =>
    if t.state ≠ .running ∨ clusterNo core ≠ t.clus ∨ n = 0 then s
    else
      let r := errRecord t.ctx (s.ctxOf t.ctx).tenant 1 (core % 64) subu 0 false
      if n ≤ 2 then s.logError (dieOf core) bankMtx true r
      else (s.logError (dieOf core) bankMtx false r).failTaskFree t 7 t.snext

/-- A unit of a command has failed at work on it: a transducer run writes WCNT yet, of what it has written (R385), and then, as any
other command now, its status (R370). -/
def State.breakCmd (s : State) (c : Cmd) (cause : Nat) (faddr : Word) : State :=
  let s1 := s.settle c.who.agent
  if c.isRun then
    let c1 : Cmd := { c with begun := true, fate := some (cause, faddr) }
    s1.setCmd (if c.tallied then c1 else ({ c1 with left := [] } : Cmd).written)
  else s1.failCmd c (taskCause true cause) faddr

/-- R370: the same of a conversion unit of an engine; the record's line and the failing address are free values. -/
def State.converterUpset (s : State) (id subu n : Nat) : State :=
  match s.cmds.find? fun c => c.id == id with
  | none => s
  | some c =>
    if c.phase ≠ .work ∨ n = 0 then s
    else
      let r := errRecord c.ctx (s.ctxOf c.ctx).tenant 1 (c.core % 64) subu (s.freeWord.toNat % 2 ^ 46) false
      if n ≤ 2 then s.nextTick.logError (dieOf c.core) bankEng true r
      else
        let s1 := s.nextTick.logError (dieOf c.core) bankEng false r
        s1.nextTick.breakCmd c causeMcheck s1.freeWord

/-- What an error makes of the package (DESIGN CHOICE, log 35). -/
def State.upset (s : State) : Upset → State
  | .dramCell line err =>
    if inDram line then
      { s with reliab := { s.reliab with
          errors := Table.put 0 line (Table.get 0 line s.reliab.errors ^^^ err) s.reliab.errors } }
    else s
  | .vbus line orig fails => s.vbusUpset line orig fails
  | .sramBit line word orig => s.sramUpset line word orig false
  | .sramWord line word orig => s.sramUpset line word orig true
  | .sramMeta line orig => s.sramMetaUpset line orig
  | .vrfBit core sq reg => s.vrfUpset core sq reg 0 false
  | .vrfGroup core sq reg group => s.vrfUpset core sq reg group true
  | .seqStore core sq subu => s.seqUpset core sq subu
  | .matrix h core subu n => s.matrixUpset h core subu n
  | .converter id subu n => s.converterUpset id subu n

end Sys2Proof.Machine
end

