-- ==== Sys2Proof/Machine/Step.lean ====
section
/-! DEFINITION. One step of the package. -/
namespace Sys2Proof.Machine

/-- One step: a parked access that can be performed now goes first (R347); then the next input, a sequencer's turn, an
event or an error; or else a turn of the acting sequencer. -/
def step (s : State) : Host.Outcome State Fault Refusal :=
  match s.firstReady with
  | some n => .next (s.performPark n)
  | none =>
    match s.inputs with
    | .turn c q :: t => .next ({ s with inputs := t }.focus c q)
    | .event i :: t => if s.eventAllowed i then exec i { s with inputs := t } else .next ({ s with inputs := t }.refuseEvent i)
    | .upset u :: t => .next (if s.mgmtOnly then { s with inputs := t } else State.upset { s with inputs := t } u)
    | .bar0Read fn off :: t =>
      .next (if s.hostRefuses then { s with inputs := t }.emit (.hostAbort fn)
        else if s.mgmtOnly then { s with inputs := t } else { s with inputs := t }.answerBar0 fn off)
    | .hostConfig fn :: t => .next ({ s with inputs := t }.answerConfig fn)
    | .smbus addr read bytes :: t => execSmbus addr read bytes { s with inputs := t }
    | .booted :: t => .next { s with inputs := t }.booted
    | [] => if s.stopped then .next s else s.turn

/-! ## A word at the next fetch -/

/-- The isolation entry of the context that `withFetchWord` makes when the acting sequencer can fetch nothing: context 0,
supervisor level, tenant 0, TVL 65,536, its page table at 0x8000. -/
def fetchCtx : Ctx :=
  { Ctx.none with
    w0 := 0xC010000000000000, w1 := 0x8000, w2 := 0x400000, w3 := 1, w4 := 0xFFFFFFFF, blocks := [0] }

/-- The instance that it places: its PC is 0x20000, and its vector storage is its own. -/
def fetchHart (core sq : Nat) : Hart :=
  { Hart.reset core sq with live := true, level := .supervisor, pc := 0x20000, tvl := 65536, owner := some (0, ⟨0, 0, 0⟩) }

/-- The state with context 0 made, one 16 GiB page mapping it onto die 0, and its instance at work on the acting
sequencer. -/
def State.withProgramContext (s : State) : State :=
  let h := s.hart
  let s1 := (s.dropSeq h.core h.sq).setCtx 0 fetchCtx
  let s2 := (s1.writeWord 0x8000 0x10001).writeWord 0x10000 0x3C3
  { s2 with hart := fetchHart h.core h.sq, parks := [], inputs := [], stopped := false, rix := 0 }

/-- The next step would fetch at the acting sequencer's PC, which it may fetch from local memory. -/
def State.fetchable (s : State) : Option (List Part) :=
  if s.firstReady.isNone && s.inputs.isEmpty && !s.stopped && s.hart.live && !s.landsNow && !s.withdrawDue && !s.parked && s.hart.held.isNone && s.matchingBp.isNone && !s.hart.needsVfirst
  then
    match s.checkAccess s.hart.ctx s.hart.level .fetch false true s.hart.pc.toNat 8 with
    | .ok ps => if ps.any Part.isRemote then none else some ps
    | .error _ => none
  else none

/-- The state with an instruction's bytes at the place of the next fetch; where the sequencer has no program, context 0
is made and placed first (DESIGN CHOICE, log 15). -/
def State.withFetchWord (s : State) (nbits w : Nat) : State :=
  let bs := toBytes (w % 2 ^ nbits) 8
  match s.fetchable with
  | some ps => s.writeParts ps bs
  | none => s.withProgramContext.writePhys 0x20000 bs

end Sys2Proof.Machine
end

