-- ==== Sys2Proof/Safety.lean ====
section
/-! DEFINITION. The terms in which statements about a step are made: what an instruction leaves unchanged, when a vector
instruction is issued, which elements it writes, and the invariants of the package. -/
set_option Elab.async false
namespace Sys2Proof.Machine

/-! ## Frames -/

/-- The acting sequencer differs at most in its g registers, its loop stack, its PC and the marks of its place in the
program. -/
def Hart.sameButScalar (h k : Hart) : Prop :=
  k = { h with
    g := k.g, loops := k.loops, pc := k.pc, waiting := k.waiting, atPoint := k.atPoint, mayYield := k.mayYield
    skipBp := k.skipBp, held := k.held }

/-- Nothing outside the acting sequencer differs: all of memory, every other sequencer, every other agent. -/
def State.sameButHart (s t : State) : Prop := t = { s with hart := t.hart }

/-- GR(d) is v (g0 stays 0), every other g register, every other register of the sequencer, every byte of memory and the
rest of the package are as before. -/
def ScalarFrame (s t : State) (d : BitVec 5) (v : Word) : Prop :=
  s.sameButHart t ∧ s.hart.sameButScalar t.hart ∧ ∀ r, t.rg r = if r = 0 then 0 else if r = d then v else s.rg r

/-- The instruction is not the last of a loop body: the innermost loop does not end at the PC (06 R149). -/
def State.plainPc (s : State) : Prop :=
  ∀ e ∈ s.hart.loops.head?, ¬ (e.last.setWidth 64 = s.hart.pc ∧ e.h = s.hart.handling)

/-- Control goes on as from any instruction that is no transfer of control (06 R149): the PC and the loop stack are those that a
`nop` in its place leaves, at a loop's end too. -/
def FallsThrough (s t : State) : Prop := t.hart.pc = s.advance.hart.pc ∧ t.hart.loops = s.advance.hart.loops

/-- A completed instruction that writes GR(d). -/
def Writes (i : Instr) (s : State) (d : BitVec 5) (v : Word) : Prop :=
  ∃ t, exec i s = .next t ∧ ScalarFrame s t d v ∧ FallsThrough s t

/-- A completed transfer of control to `pc`, with GR(d) written. -/
def Jumps (i : Instr) (s : State) (pc : Word) (d : BitVec 5) (v : Word) : Prop :=
  ∃ t, exec i s = .next t ∧ ScalarFrame s t d v ∧ t.hart.pc = pc ∧ t.hart.loops = s.hart.loops

/-! ## Traps -/

/-- The acting sequencer can be given a trap: a handler is set and no trap is being handled (22 R430, R431). -/
def State.canTrap (s : State) : Prop := s.hart.handling = false ∧ s.hart.tvecBase ≠ 0

/-- Nothing outside the acting sequencer differs, but that the answers of its own remote accesses are done with (26 R497). -/
def State.sameButSeq (s t : State) : Prop :=
  t = { s with hart := t.hart, remotes := t.remotes, rix := t.rix, flights := t.flights }

/-- A trap is delivered (22 R430): CODE, SUB, EPC and TVAL as given, PLEV the level before, HND set and SKIP and IMPR clear;
supervisor level, the PC at TVEC.BASE; every g, vector, mask and column register, the loop stack and all memory as before. -/
def TrapTaken (s t : State) (code sub : Nat) (epc tval : Word) : Prop :=
  s.sameButSeq t
  ∧ t.hart = { s.hart with
      cause := t.hart.cause, epc := epc, tval := tval, level := .supervisor, pc := s.hart.tvecBase
      waiting := false, atPoint := false, mayYield := false, skipBp := false, held := none }
  ∧ wbits t.hart.cause 0 8 = code ∧ wbits t.hart.cause 32 16 = sub
  ∧ bitOf t.hart.cause.toNat 60 = (s.hart.level == .supervisor) ∧ bitOf t.hart.cause.toNat 58 = true
  ∧ bitOf t.hart.cause.toNat 59 = false ∧ bitOf t.hart.cause.toNat 63 = false

/-- The instruction traps at its own address, with TVAL as given (22 Table 22.1). -/
def TrapsHere (i : Instr) (s : State) (code : Nat) (tval : Word) : Prop :=
  ∃ t, exec i s = .next t ∧ TrapTaken s t code 0 (s.hart.pc &&& 0xFFFFFFFFFFFFFFF8#64) tval

/-! ## Instructions of the acting sequencer that may use remote answers -/

/-- GR(d) is v, and nothing else of the package differs but the place in the program. -/
def SeqFrame (s t : State) (d : BitVec 5) (v : Word) : Prop :=
  s.sameButSeq t ∧ s.hart.sameButScalar t.hart ∧ ∀ r, t.rg r = if r = 0 then 0 else if r = d then v else s.rg r

/-- A completed instruction that writes GR(d) alone. -/
def SeqWrites (i : Instr) (s : State) (d : BitVec 5) (v : Word) : Prop :=
  ∃ t, exec i s = .next t ∧ SeqFrame s t d v ∧ FallsThrough s t

/-- The system register can be reached by an instruction of the acting sequencer (03 R64). -/
def State.csrOpen (s : State) (n : Nat) : Prop :=
  csrListed n = true ∧ (csrSupervisor n = true → s.hart.level = .supervisor)

/-! ## Vector instructions -/

/-- Element e is active (02 R4): at VSTART or after, below VL, and its bit of the governing mask, inverted where MN = 1, is 1. -/
def Vec.acts (v : Vec) (msk : BitVec 3) (mn : BitVec 1) (e : Nat) : Bool :=
  decide (v.vstart ≤ e) && decide (e < v.vl) && (bitOf (v.mr msk.toNat) e != (mn == 1))

/-- A vector word is issued (03 R61, R62): every register that it names exists, and VL elements of each width fit. -/
def State.VecReady (s : State) (regs widths : List Nat) : Prop :=
  (∀ r ∈ regs, r < regCount s.hart.vec.nreg) ∧ ∀ w ∈ widths, s.hart.vec.vl * w ≤ s.hart.vec.vlmax

/-- The elements of a register that an instruction consumes lie in no poisoned group (07 R159). -/
def Vec.Clean (v : Vec) (n w : Nat) (used : Nat → Bool) : Prop :=
  ∀ e, used e = true → poisonHit (v.poison n) (w * e) w = false

/-- The acting sequencer differs at most in its vector side, its loop stack, its PC and the marks of its place in the
program. -/
def Hart.sameButVec (h k : Hart) : Prop :=
  k = { h with
    vec := k.vec, loops := k.loops, pc := k.pc, waiting := k.waiting, atPoint := k.atPoint, mayYield := k.mayYield
    skipBp := k.skipBp, held := k.held }

/-- Outside the acting sequencer only the lane under check has moved on (01 R15). -/
def State.sameButLane (s t : State) : Prop :=
  t = { s.nextLane with hart := t.hart, remotes := t.remotes, rix := t.rix, flights := t.flights }

/-- The vector side after an instruction: VSTART is 0; VL, VTYPE, VLMAX and the register count stand; of the vector and mask
registers only those listed differ; a poison bit may only become 0; and HWM stands where no vector register is listed. -/
def Vec.sameBut (v u : Vec) (regs masks : List Nat) : Prop :=
  u = { v with v := u.v, pois := u.pois, m := u.m, hwm := u.hwm, vstart := 0 }
  ∧ (∀ r, r ∉ regs → u.bits r = v.bits r ∧ u.poison r = v.poison r)
  ∧ (∀ k, k ∉ masks → u.mr k = v.mr k)
  ∧ (∀ r j, (u.poison r).testBit j = true → (v.poison r).testBit j = true)
  ∧ (regs = [] → u.hwm = v.hwm)

/-- A vector instruction has completed: the vector side alone differs, by the registers listed, and no g register and no
byte of memory. -/
def VecStep (s t : State) (regs masks : List Nat) : Prop :=
  s.sameButLane t ∧ s.hart.sameButVec t.hart ∧ FallsThrough s t ∧ s.hart.vec.sameBut t.hart.vec regs masks

/-- A completed vector instruction that writes the active elements of vector register d with the low w bits of their values,
and leaves the others. -/
def VecWrites (i : Instr) (s : State) (d : BitVec 5) (w : Nat) (act : Nat → Bool) (val : Nat → Nat) : Prop :=
  ∃ t, exec i s = .next t ∧ VecStep s t [d.toNat] []
    ∧ ∀ e, w * (e + 1) ≤ 65536 →
      t.hart.vec.elem d.toNat e w = if act e then val e % 2 ^ w else s.hart.vec.elem d.toNat e w

/-- A completed vector instruction that writes the active bits of mask register d, of which m0 keeps its ones (04 R84). -/
def MaskWrites (i : Instr) (s : State) (d : BitVec 3) (act : Nat → Bool) (val : Nat → Bool) : Prop :=
  ∃ t, exec i s = .next t ∧ VecStep s t [] [d.toNat]
    ∧ ∀ e, e < 16384 →
      bitOf (t.hart.vec.mr d.toNat) e = if d = 0 then true else if act e then val e else bitOf (s.hart.vec.mr d.toNat) e

/-- A completed vector instruction that writes GR(d), and of the vector side VSTART alone. -/
def VecToScalar (i : Instr) (s : State) (d : BitVec 5) (v : Word) : Prop :=
  ∃ t, exec i s = .next t ∧ s.sameButLane t ∧ FallsThrough s t
    ∧ (∀ r, t.rg r = if r = 0 then 0 else if r = d then v else s.rg r)
    ∧ t.hart = { s.hart with
        g := t.hart.g, vec := { s.hart.vec with vstart := 0 }, loops := t.hart.loops, pc := t.hart.pc
        waiting := t.hart.waiting, atPoint := t.hart.atPoint, mayYield := t.hart.mayYield, skipBp := t.hart.skipBp
        held := t.hart.held }

/-- The rounding mode of an RM field now: DYN takes MODE of RMODE (05 R111). -/
def State.modeNow (s : State) (rm : BitVec 3) : Option Mode := modeOf (if rm = 6 then wbits s.hart.rmode 0 3 else rm.toNat)

/-- The three encodings of an integer function (07 R161): b from a vector register, GR(B) or IMM16, c where `third` says so;
each completes on clean sources and writes fn TY w a b c into the active elements. -/
def IntForms (vv vs vi : VvF → Instr) (third : Bool) (fn : BitVec 3 → Nat → Nat → Nat → Nat → Nat) : Prop :=
  ∀ (f : VvF) (s : State),
    let v := s.hart.vec
    let w := widthOf f.ew
    let act := v.acts f.msk f.mn
    let a e := v.elem f.a.toNat e w
    let c e := if third then v.elem f.c.toNat e w else 0
    let regs := [f.d.toNat, f.a.toNat] ++ if third then [f.c.toNat] else []
    v.Clean f.a.toNat w act → (third = true → v.Clean f.c.toNat w act) →
    (s.VecReady (f.b.toNat :: regs) [w] → v.Clean f.b.toNat w act →
        VecWrites (vv f) s f.d w act fun e => fn f.ty w (a e) (v.elem f.b.toNat e w) (c e))
    ∧ (s.VecReady regs [w] →
        (VecWrites (vs f) s f.d w act fun e => fn f.ty w (a e) ((s.rg f.b).toNat % 2 ^ w) (c e))
        ∧ VecWrites (vi f) s f.d w act fun e => fn f.ty w (a e) (BitVec.ofInt w f.imm.toInt).toNat (c e))

/-- The two encodings of a floating function (07 R172): b from a vector register or the low bits of GR(B), c where `third`
says so; each completes on clean sources and writes fn of the format, the rounding of its element, a, b and c. -/
def FloatForms (vv vs : VvF → Instr) (third rounds : Bool) (fn : Fmt → Rnd → Nat → Nat → Nat → Nat) : Prop :=
  ∀ (f : VvF) (s : State) (m : Mode),
    let v := s.hart.vec
    let w := widthOf f.ew
    let fm := fmtOf f.ew f.ty
    let act := v.acts f.msk f.mn
    let a e := v.elem f.a.toNat e w
    let c e := if third then v.elem f.c.toNat e w else 0
    let regs := [f.d.toNat, f.a.toNat] ++ if third then [f.c.toNat] else []
    (f.ew = 3 → f.ty = 2 → s.hasF64 = true) → (rounds = true → s.modeNow f.rm = some m) →
    v.Clean f.a.toNat w act → (third = true → v.Clean f.c.toNat w act) →
    (s.VecReady (f.b.toNat :: regs) [w] → v.Clean f.b.toNat w act →
        VecWrites (vv f) s f.d w act fun e => fn fm (s.hart.rndAt m e) (a e) (v.elem f.b.toNat e w) (c e))
    ∧ (s.VecReady regs [w] →
        VecWrites (vs f) s f.d w act fun e => fn fm (s.hart.rndAt m e) (a e) ((s.rg f.b).toNat % 2 ^ w) (c e))

/-- A unary instruction on clean sources: fn of the source element, which has width ws, into an element of width wd. -/
def Unary (i : Instr) (f : VvF) (s : State) (ws wd : Nat) (fn : Nat → Nat → Nat) : Prop :=
  s.VecReady [f.d.toNat, f.a.toNat] [ws, wd] → s.hart.vec.Clean f.a.toNat ws (s.hart.vec.acts f.msk f.mn) →
  VecWrites i s f.d wd (s.hart.vec.acts f.msk f.mn) fun e => fn e (s.hart.vec.elem f.a.toNat e ws)

/-- x is a result of some binary combination of the values of a list: of two or more, some two give way to their rounded sum,
under whatever index that rounding takes (05 R129, R114). -/
inductive SumsTo (fm : Fmt) (h : Hart) (m : Mode) : List Nat → Nat → Prop
  | one (x : Nat) : SumsTo fm h m [x] x
  | add (l : List Nat) (x y : Nat) (rest : List Nat) (idx : Word) (z : Nat) : l.Perm (x :: y :: rest) →
      SumsTo fm h m (fm.plus { mode := m, key := h.seed, idx } x y :: rest) z → SumsTo fm h m l z

/-- A vector instruction reaches its effect only with VSTART at 0 or beyond the vector (08 R182). -/
def Vec.fromZero (v : Vec) : Prop := ¬ (0 < v.vstart ∧ v.vstart < v.vl)

/-- The RW bits of the registers that software writes and that hold no W1C bit, below the error banks (03 Table 3.4, 05, 16,
22 Tables 22.2 to 22.4, 22.8). -/
def csrRwBits : List (Nat × Word) :=
  [(0x07, 0x80000000001F1FFF), (0x10, 0xFFFFFFFFFF000017), (0x11, 0xFFFFFFFFFFFFFFFF), (0x40, 0x0000FFFFFFFFFFFF),
    (0x100, 0x7800FFFF000000FF), (0x101, 0xFFFFFFFFFFFFFFF8), (0x102, 0x01FFFFFFFFFFFFF8), (0x103, 0xFFFFFFFFFFFFFFFF)]

/-! ## Accesses that are performed at once -/

/-- The tables with one entry per number are in canonical form: memory, the metadata of lines, the contexts, the cores and the
owners of frames. -/
def State.Canonical (s : State) : Prop :=
  Memory.wf s.mem = true ∧ Table.wf Meta.zero s.lineMeta = true ∧ Table.wf Ctx.none s.ctxs = true
    ∧ Table.wf Core.reset s.cores = true ∧ Table.wf 0 s.frames = true

/-- Nothing stands between an access of this state and memory: no scatter-addition under way, no error in memory's symbols,
no channel failed or watched, no injection armed, no line fresh from a host, no access waiting for another device. -/
def State.quiet (s : State) : Prop :=
  s.adds = [] ∧ s.reliab.errors = [] ∧ bitOf s.reliab.errinj.toNat 63 = false ∧ s.reliab.stuck = none
    ∧ s.reliab.chans = [] ∧ s.reliab.fresh = [] ∧ s.flights = []

/-- The tables are in canonical form, and nothing stands between an access and memory. -/
def State.calm (s : State) : Prop := s.Canonical ∧ s.quiet

/-- The operations of one instruction pass every check of 15 R317, on local pieces of pages that do not migrate and that hold
no poisoned line; l pairs each with its physical pieces. -/
def OpsPass (s : State) (w : Who) (ops : List MemOp) (l : List (MemOp × List Part)) : Prop :=
  s.checkOps (s.walksFor w.ctx ops []) w ops 0 = .ok l
  ∧ ∀ x ∈ l, ∀ p ∈ x.2, p.isRemote = false ∧ p.mig = false ∧ s.poisoned p.pa p.len = false

/-- An instruction that accesses memory changes, outside the acting sequencer, only memory's bytes and the metadata of its
lines, the count of ordered accesses, and what has gone out on the host's link. -/
def State.sameButMem (s t : State) : Prop :=
  t = { s with
    hart := t.hart, mem := t.mem, lineMeta := t.lineMeta, remotes := t.remotes, rix := t.rix, flights := t.flights
    ticket := t.ticket, out := t.out }

/-- What some operations of the acting sequencer put on the host's link (26 R503): for each piece in host memory a CXL.cache request
in a context of tenant 0, else a PCIe request with the Requester ID of the tenant's function. -/
def State.asks (s : State) (l : List (MemOp × List Part)) : List Out :=
  l.flatMap fun x => x.2.filterMap fun p =>
    match homeOf p.pa with
    | .host => some (.hostRequest (if s.tenant = 0 then none else some s.tenant) x.1.act.writes (p.pa - 0x4000000000000))
    | _ => none

/-- Outside the given places, memory is as it was but that the leaf entries of the accesses have A set, and D where they write
(13 R275). -/
def SameBytesBut (s t : State) (l : List (MemOp × List Part)) (places : List (Nat × Nat)) : Prop :=
  ∀ a, (∀ e ∈ places, a < e.1 ∨ e.1 + e.2 ≤ a) → Memory.read t.mem a = Memory.read (s.markOps l).mem a

/-- The bytes that the pieces of an access hold. -/
def State.bytesAt (s : State) (ps : List Part) : List Byte := ps.flatMap fun p => s.readPhys p.pa p.len

/-- Two pieces have no byte in common. -/
def Part.apart (p q : Part) : Prop := p.pa + p.len ≤ q.pa ∨ q.pa + q.len ≤ p.pa

/-- The pieces of an access hold some bytes, where a later piece of it has not written over an earlier one. -/
def State.Holds (t : State) (ps : List Part) (bs : List Byte) : Prop :=
  ∀ pre p post, ps = pre ++ p :: post → (∀ q ∈ post, p.apart q) → ∀ i, i < p.len → ∀ b,
    bs[(pre.map (·.len)).foldr (· + ·) 0 + i]? = some b → Memory.read t.mem (p.pa + i) = b

/-- The places, as address and length, that some operations write. -/
def placesOf (l : List (MemOp × List Part)) : List (Nat × Nat) :=
  (l.filter fun x => x.1.act.writes).flatMap fun x => x.2.map fun p => (p.pa, p.len)

/-- Every store of an instruction stands in memory, unless a later operation of it writes there too. -/
def State.HoldsAll (t : State) (l : List (MemOp × List Part)) : Prop :=
  ∀ pre o ps post bs, l = pre ++ (o, ps) :: post → o.act = .store bs → (∀ p ∈ ps, ∀ x ∈ post, ∀ q ∈ x.2, p.apart q) →
    t.Holds ps bs

/-- Some loads are performed at once and leave no trace: they pass, their leaf entries have A set, none reaches host memory, whose
accesses go out on the host's link (26 R503), and the operations read `vals`. -/
def State.Reads (s : State) (w : Who) (ops : List MemOp) (vals : List (List Byte)) : Prop :=
  ∃ l, OpsPass s w ops l ∧ s.markOps l = s ∧ vals = (l.map fun x => s.bytesAt x.2)
    ∧ ∀ x ∈ l, ∀ p ∈ x.2, homeOf p.pa ≠ .host

/-- A scalar instruction that accesses memory has completed: GR(d) is v, its operations l have marked their pages and written
only their own places, and of the acting sequencer nothing else differs but the place in the program. -/
def ScalarMemStep (s t : State) (d : BitVec 5) (v : Word) (l : List (MemOp × List Part)) : Prop :=
  s.sameButMem t ∧ s.hart.sameButScalar t.hart ∧ FallsThrough s t ∧ SameBytesBut s t l (placesOf l)
  ∧ (∀ r, t.rg r = if r = 0 then 0 else if r = d then v else s.rg r)
  ∧ t.ticket = s.ticket + (l.filter fun x => x.1.ord == 4).length ∧ t.out = s.out ++ s.asks l
  ∧ (placesOf l = [] → t.lineMeta = s.lineMeta)

/-- A vector memory instruction has completed: its operations l have marked their pages and written only their own places, and
of the acting sequencer the vector side differs, by the registers listed. -/
def VecMemStep (s t : State) (regs : List Nat) (l : List (MemOp × List Part)) : Prop :=
  s.nextLane.sameButMem t ∧ s.hart.sameButVec t.hart ∧ FallsThrough s t ∧ SameBytesBut s t l (placesOf l)
  ∧ s.hart.vec.sameBut t.hart.vec regs []
  ∧ t.ticket = s.ticket + (l.filter fun x => x.1.ord == 4).length ∧ t.out = s.out ++ s.asks l
  ∧ (placesOf l = [] → t.lineMeta = s.lineMeta)

/-! ## Column registers (10, 11) -/

/-- Every row of a column can be read at once, and row i reads x i. -/
def State.Column (s : State) (d : Desc) (x : Nat → Nat) : Prop :=
  ∀ i, i < d.len → ∃ b, s.Reads s.me [d.rowOp i true .load] [b] ∧ ofBytes b = x i

/-- A column instruction passes the checks of R249 but those of types: every register is defined, no destination meets a
source or another destination, a continuation that is held is the instruction's own, a lane group is held, and `f64` columns
have their arithmetic. -/
def State.ColIssues (s : State) (dests srcs : List Named) (cont : Nat) (f64 : Bool) : Prop :=
  (∀ x ∈ dests ++ srcs, x.2.isDef = true) ∧ destsMeet dests srcs = false
  ∧ (∀ x ∈ dests, x.2.pend = true ∨ x.2.midop = true → x.2.cont = cont)
  ∧ (∀ x ∈ dests, ∀ y ∈ dests, x.2.contFields = y.2.contFields)
  ∧ s.hart.group.isSome = true ∧ (f64 = true → (∃ x ∈ dests ++ srcs, x.2.isF64 = true) → s.hasF64 = true)

/-- The acting sequencer differs at most in its g and column registers, its loop stack, its PC and the marks of its place. -/
def Hart.sameButCols (h k : Hart) : Prop :=
  k = { h with
    g := k.g, cols := k.cols, loops := k.loops, pc := k.pc, waiting := k.waiting, atPoint := k.atPoint
    mayYield := k.mayYield, skipBp := k.skipBp, held := k.held }

/-- A result-producing column instruction completes (R253): of the rows of its stream, from the point that its destination
holds, those that fit are appended; PEND, the continuation and the cursor stand when one does not fit; LREG counts the rows of
the execution, and VSTART becomes 0 for `cst` alone. -/
def AppendsRows (i : Instr) (s : State) (f : ClF) (cont : Nat) (dests : List Named) (start : Point)
    (stream : Point → List Row) : Prop :=
  let ds := dests.map (·.2)
  let d0 := ds.headD (Desc.ofBits 0)
  let r := fitRows (ds.map (·.bound)) (ds.map (·.len)) (stream (if d0.pend ∨ d0.midop then d0.point else start))
  let added (k : Nat) := (r.1.map fun x => (x.1.vals.filter fun v => v.1 == k).length).foldl (· + ·) 0
  ∀ l, OpsPass s s.me (rowStores ds r.1) l →
    ∃ t, exec i s = .next t ∧ s.sameButMem t ∧ FallsThrough s t ∧ SameBytesBut s t l (placesOf l) ∧ t.HoldsAll l
      ∧ t.ticket = s.ticket ∧ t.out = s.out ++ s.asks l
      ∧ { s.hart with vec := t.hart.vec }.sameButCols t.hart
      ∧ t.hart.vec = (if i = .cst f then { s.hart.vec with vstart := 0 } else s.hart.vec)
      ∧ (∀ q, t.rg q = if q = 0 then 0 else if q = f.lreg then
          BitVec.ofNat 64 ((if d0.midop then d0.run else 0) + added 0) else s.rg q)
      ∧ (∀ n, (∀ x ∈ dests, x.1 ≠ n) → t.hart.col n = s.hart.col n)
      ∧ ∀ (k : Nat) (x : Named), dests[k]? = some x →
          let p := (r.2.head?.map (·.pt)).getD .start
          t.hart.col x.1 = Desc.ofBits (Desc.bits { x.2 with
            len := x.2.len + added k, pend := !r.2.isEmpty, midop := false, run := 0
            cont := if r.2.isEmpty then 0 else cont, phase := p.phase, cura := p.cura, curb := p.curb, aux := p.aux })

/-- The rows j of a list for which g gives a value, from cursor c on. -/
def pickRows (g : Nat → Option Nat) : Nat → List Nat → List Row
  | _, [] => []
  | c, j :: t =>
    match g j with
    | some v => ⟨⟨c, 0, 0, 0⟩, [(0, v)], ⟨j + 1, 0, 0, 0⟩⟩ :: pickRows g (j + 1) t
    | none => pickRows g c t

/-- The stream of the rows j < n for which g gives a value (R258, R259, R260). -/
def pickStream (g : Nat → Option Nat) (n : Nat) (p : Point) : List Row := pickRows g p.cura ((List.range n).drop p.cura)

/-- The pairs (l, r) that a relation holds of, in ascending order of l and then r (R260). -/
def pairStream (rel : Nat → Nat → Bool) (m n : Nat) (p : Point) : List Row :=
  ((List.range m).drop p.cura).flatMap fun l =>
    ((List.range n).filter fun r => (decide (p.cura < l) || decide (p.curb ≤ r)) && rel l r).map fun r =>
      ⟨⟨l, r, 0, 0⟩, [(0, l), (1, r)], ⟨l, r + 1, 0, 0⟩⟩

/-- Rows with the number of their run, after k runs, and the position of each that starts one (R261). -/
def runRows (starts : Nat → Bool) : Nat → List Nat → List Row
  | _, [] => []
  | k, i :: t =>
    let n := k + if starts i then 1 else 0
    ⟨⟨i, 0, 0, k⟩, (0, n - 1) :: (if starts i then [(1, i)] else []), ⟨i + 1, 0, 0, n⟩⟩ :: runRows starts n t

/-- The groups of the rows that a list names, from a point on: each row is taken into the group that is open, at a point where
a commit may fall, and the group is emitted before the row that starts the next, or at the end (R262). -/
def groupRows (next : Option Nat → Nat → Nat) (starts : Nat → Bool) : Point → List Nat → List Row
  | p, [] => if p.phase = 1 then [⟨p, [(0, p.aux)], ⟨p.cura, 0, 2, 0⟩⟩] else []
  | p, i :: t =>
    let fresh : Point := ⟨i + 1, 0, 1, next none i⟩
    if p.phase ≠ 1 then ⟨p, [], fresh⟩ :: groupRows next starts fresh t
    else if starts i then ⟨p, [(0, p.aux)], ⟨i, 0, 0, 0⟩⟩ :: ⟨⟨i, 0, 0, 0⟩, [], fresh⟩ :: groupRows next starts fresh t
    else
      let more : Point := ⟨i + 1, 0, 1, next (some p.aux) i⟩
      ⟨p, [], more⟩ :: groupRows next starts more t

/-- The rows of a list, by rank (R264). -/
def rankStream (order : List Nat) (p : Point) : List Row :=
  ((List.range order.length).drop p.cura).map fun k =>
    ⟨{ p with cura := k }, [(0, order.getD k 0)], { p with cura := k + 1 }⟩

/-- The rows 0 to n − 1 in korder, equal keys in ascending row order (R252). -/
def Ordered (before : Nat → Nat → Bool) (x : Nat → Nat) (n : Nat) (order : List Nat) : Prop :=
  order.Perm (List.range n)
  ∧ order.Pairwise fun i j => before (x j) (x i) = false ∧ (before (x i) (x j) = false → i < j)

/-! ## Tile tasks (09) -/

/-- A store passes its checks, on local pieces of pages that do not migrate. -/
def State.Posts (s : State) (w : Who) (o : MemOp) (ps : List Part) : Prop := OpsPass s w [o] [(o, ps)]

/-- The store of a task's or a host queue's status: an ordinary one (09 R204, 26 R505). -/
def statusStore (va : Nat) (bs : List Byte) : MemOp :=
  { va := (va : Int), n := bs.length, align := false, strict := true, act := .store bs, ord := 0, scope := 1 }

/-- The store of a command's status words, with a release side at `.sys` (17 R366). -/
def resultStore (va : Nat) (bs : List Byte) : MemOp := { statusStore va bs with ord := 2, scope := 7 }

/-- A store has been done: its bytes stand, and every other byte is as before but that the leaf entries have A and D set. -/
def Posted (s t : State) (ps : List Part) (bs : List Byte) : Prop :=
  t.Holds ps bs ∧ ∀ a, (∀ p ∈ ps, a < p.pa ∨ p.pa + p.len ≤ a) →
    Memory.read t.mem a = Memory.read (s.markParts true ps).mem a

/-- Outside memory, the metadata of its lines, the tasks of the schedulers and what has gone out nothing differs. -/
def State.sameButTasks (s t : State) : Prop :=
  t = { s with
    mem := t.mem, lineMeta := t.lineMeta, tasks := t.tasks, clusters := t.clusters, parks := t.parks
    remotes := t.remotes, rix := t.rix, flights := t.flights, out := t.out }

/-- A task that owes no write enters a state: its STATUS is written at offset 16 of its record (09 R204, R222), it takes the
place of its handle, and nothing else differs. -/
def TaskEnters (i : Instr) (s : State) (t u : Task) : Prop :=
  ∀ ps, s.Posts u.who (statusStore (u.addr + 16) (toBytes u.status.toNat 8)) ps →
    ∃ v, exec i s = .next v ∧ s.sameButTasks v ∧ Posted s v ps (toBytes u.status.toNat 8)
      ∧ v.tasks = s.tasks.map (fun x => if x.h = u.h then { u with owes := [], shown := t.status } else x) ∧ v.parks = s.parks

/-- A task of no signals that owes no write enters a final state and leaves its scheduler: STATUS is written, and the log holds
its status. `more` is what else holds then. -/
def TaskEnds (i : Instr) (s : State) (u : Task) (more : State → Prop) : Prop :=
  ∀ ps, s.Posts u.who (statusStore (u.addr + 16) (toBytes u.status.toNat 8)) ps →
    ∃ t, exec i s = .next t ∧ Posted s t ps (toBytes u.status.toNat 8) ∧ more t
      ∧ t.tasks = s.tasks.filter (fun x => x.h ≠ u.h)
      ∧ t.clusters = (s.setCluster u.clus { s.clusterOf u.clus with
          log := trimLog u.ctx 1024 ((u.ctx, u.h, u.status) :: (s.clusterOf u.clus).log) }).clusters

/-- The next step of the task with handle h, which is RUNNING and not parked, owes no write and has no request pending, has its
code. -/
def State.AtStep (s : State) (t : Task) (h : Word) (code : Nat) : Prop :=
  s.taskOf h = some t ∧ t.state = .running ∧ s.taskParked h = false ∧ t.owes = [] ∧ t.cancelReq = false
    ∧ t.suspendReq = false ∧ t.snext < tkSteps t.image ∧ wbits (tkStep t.image t.snext 0) 56 8 = code

/-- A step of a task has completed: the task is u, at the position after it, and of the rest of the package only the answers of
the task's own remote accesses differ. -/
def TaskSteps (i : Instr) (s : State) (h : Word) (u : Task) : Prop :=
  ∃ t, exec i s = .next t ∧ t = { s with tasks := t.tasks, remotes := t.remotes, rix := t.rix, flights := t.flights }
    ∧ t.tasks = s.tasks.map fun x => if x.h = h then u.advance else x

/-- The rows of the panel that step i of a task loads with iteration index k, read at once (09 R207 to R209). -/
def State.PanelRows (s : State) (t : Task) (i k : Nat) (rows : List LatchRow) : Prop :=
  let w := tkStep t.image i
  let fmt := wbits (w 0) 52 4
  let b := t.panel i k
  let op (va : Int) (n : Nat) : MemOp := { va, n, align := false, strict := false, act := .load, ord := 0, scope := 1 }
  let gather := wbits (w 0) 49 1 = 1
  if wbits (w 0) 48 1 = 1 then
    let maps := unpackBits 32 64 (t.slot (wbits (w 0) 56 8 == 2) (wbits (w 0) 50 2)).maps.toNat
    let total := (maps.map fun m => popBits m 32).foldl (· + ·) 0
    let n := if fmt = 0 then 128 + (total + 1) / 2 else if fmt ≤ 2 then 128 + total else total * elemBytes fmt
    let width := if fmt = 0 then 4 else if fmt ≤ 2 then 8 else 8 * elemBytes fmt
    b % rowAlign fmt = 0 ∧ ∃ bs, (if n = 0 then bs = [] else s.Reads t.who [op b n] [bs])
      ∧ rows = sparseRows (fun r => if fmt ≤ 2 then field (ofBytes bs) (16 * r) 16 else 0)
          (fun p => field (if fmt ≤ 2 then ofBytes bs / 2 ^ 1024 else ofBytes bs) (width * p) width) maps 0 0
  else
    0 ≤ b ∧ b < 2 ^ 57 ∧ rows.length = 64
    ∧ ∀ r, r < 64 → ∃ n : Nat,
        (gather → ∃ g, s.Reads t.who [op ((wbits (w 2) 0 57 + 4 * r : Nat) : Int) 4] [g] ∧ n = ofBytes g)
        ∧ (¬ gather → n = r)
        ∧ if gather ∧ n = 0xFFFFFFFF then rows[r]? = some zeroRow
          else
            let a := b + (n * wbits (w 3) 0 32 : Nat)
            a % rowAlign fmt = 0 ∧ ∃ bs, s.Reads t.who [op a (rowBytes fmt)] [bs] ∧ rows[r]? = some (denseRow fmt bs)

/-- Element (r, c) of a tile (09 R205). -/
def tileElem (x : BitVec 196608) (r c : Nat) : Nat := field x.toNat (48 * (64 * r + c)) 48

/-- Row r of a latch slot: its header or scale word and its 32 encodings (09 R205). -/
def LatchSlot.row (l : LatchSlot) (r : Nat) : LatchRow :=
  (field l.scales.toNat (16 * r) 16, (List.range 32).map fun p => field l.vals.toNat (32 * (32 * r + p)) 32)

/-! ## Engine commands (17) -/

/-- Every piece of some bytes at an address can be read at once by an agent. -/
def State.Readable (s : State) (w : Who) (va : Nat) (bs : List Byte) : Prop :=
  ∀ o n, 0 < n → o + n ≤ bs.length →
    s.Reads w [{ va := (va + o : Nat), n, align := false, strict := false, act := .load, ord := 0, scope := 1 }] [(bs.drop o).take n]

/-- A command in flight, of a kind, whose accesses are to come. -/
def State.AtWork (s : State) (c : Cmd) (id kind : Nat) : Prop :=
  s.cmdOf id = some c ∧ c.phase = .work ∧ cwKind c.w = kind ∧ c.begun = false

/-- A command's event reads its source and goes on to its writes: the lines of those in order are to come, and COUNT is known;
where no source meets a destination, and every write is aligned as its kind asks (17 R371, R372, R378). -/
def Carries (i : Instr) (s : State) (c : Cmd) (w : Work) : Prop :=
  s.overlaps c.ctx w = false → (∀ x ∈ w.writes, x.va % x.align = 0) →
    let c1 := { c with begun := true, left := w.writes.flatMap LineStore.lines, count := w.count, fate := none, loose := none }
    exec i s = .next (((s.settle c.who.agent).setCmd c1).writeLines c1 c1.left)

/-- The store of a line of a command's writes. -/
def LineStore.op (x : LineStore) : MemOp :=
  { va := (x.va : Int), n := x.bytes.length, align := false, strict := true, act := .store x.bytes, ord := 0, scope := 1 }

/-- Some blocks are what the whole of a stream decodes to, after the blocks `done`, newest first (17 R379, R382). -/
def decodesTo : List Byte → List Tile → List Tile → Prop
  | bs, _, [] => bs = []
  | bs, done, t :: ts =>
    let h := ofBytes (bs.take 8)
    8 + padded (hdPlen h) ≤ bs.length ∧ headerSound h = true
    ∧ decodeRecord h ((bs.drop 8).take (padded (hdPlen h))) done = some t
    ∧ decodesTo (bs.drop (8 + padded (hdPlen h))) (t :: done) ts

/-- The records of some blocks, after the blocks `done`, newest first (17 R381). -/
def recordsOf : List Tile → List Tile → List Byte
  | _, [] => []
  | done, t :: ts => encodeBlock t done ++ recordsOf ((t :: done).take 64) ts

/-! ## Other devices and the host (26) -/

/-- The packet at the head of a port is the next request of its window, with nothing held there, from a window that an export
opens to an existing context (26 R496, R498). -/
def State.Request (s : State) (port type ctx : Nat) (p : Packet) : Prop :=
  ∃ bs, (s.portOf port).headPacket = some bs ∧ Packet.parse bs = p ∧ p.type = type ∧ p.tc ≤ 1
    ∧ (∀ w ∈ s.fabric.dst, w.recv = [])
    ∧ (let w := s.dstWin p.src p.tc
       w.next = p.seq ∧ w.held = [] ∧ w.withdrawn = [] ∧ w.cache.lookup p.seq = none)
    ∧ s.exportCtx p.src p.win = some ctx ∧ (s.ctxOf ctx).valid = true

/-- The request has been served: its window has moved on, and its response, where it has one, is kept in the result cache. -/
def Served (s t : State) (p : Packet) (payload : Option (List Byte)) : Prop :=
  (t.dstWin p.src p.tc).next = (p.seq + 1) % 65536
  ∧ ∀ bs, payload = some bs → (t.dstWin p.src p.tc).cache.lookup p.seq = some (s.rspPacket p 0 bs).bytes

/-- A tenant's mailbox holds a request with a code for a context, words 1 to 7 as given (26 R504). -/
def State.Asked (s : State) (fn code ctx : Nat) (ws : List Word) : Prop :=
  fn < 32 ∧ ctx < 4096 ∧ (s.funcOf fn).busy = true ∧ (s.funcOf fn).mbreq = BitVec.ofNat 64 (code * 2 ^ 56 + ctx * 2 ^ 32) :: ws

/-- The request has its answer: DONE is set and BUSY clear, and word 0 of MBRSP holds the code and whether it was refused. -/
def Answered (t : State) (fn code : Nat) (ok : Bool) : Prop :=
  (t.funcOf fn).done = true ∧ (t.funcOf fn).busy = false
  ∧ (t.funcOf fn).mbrsp.head? = some (BitVec.ofNat 64 (code * 2 ^ 56 + if ok then 0 else 1))

/-! ## Landings -/

/-- The acting instance leaves its sequencer at `pc` (22 R438), where its block can be written: the scalar registers stand in
the block of its context, the lane group is released, the vector state stays under its owner's tag, and the instance waits
among those switched out, halted or not. -/
def Lands (s t : State) (halted miditer : Bool) (pc cause : Word) : Prop :=
  let h := s.hart
  ∀ v, s.ctxWrite h.ctx .supervisor ((s.ctxOf h.ctx).save + 282688 * h.blk)
      (h.scalarBlock
        { fatal := false, halted, miditer, lazily := h.owner == some (h.ctx, h.inst), pc, cause, epc := h.epc, tval := h.tval })
      = some v →
    t.mem = v.mem ∧ t.hart.live = false ∧ t.hart.group = none ∧ t.hart.vec = h.vec ∧ t.hart.owner = h.owner
    ∧ ∃ x, t.saved = s.saved ++ [x] ∧ x.ctx = h.ctx ∧ x.inst = h.inst ∧ x.blk = h.blk ∧ x.halted = halted ∧ x.slots = h.slots
      ∧ x.skipBp = h.skipBp

/-! ## The package's step -/

/-- The next step is an instruction of the acting sequencer: nothing else is ready, and it is neither parked, nor at a landing,
nor at a breakpoint, nor waiting for another device. -/
def State.AtFetch (s : State) : Prop :=
  s.firstReady = none ∧ s.inputs = [] ∧ s.stopped = false ∧ s.hart.live = true ∧ s.landsNow = false ∧ s.withdrawDue = false
    ∧ s.parked = false ∧ s.hart.held = none ∧ s.matchingBp = none

/-- The instruction that a decoded word stands for: of a chute word, bit 8 of GR(A) tells open and close apart (21 R414). -/
noncomputable def State.instrOf (s : State) (i : Instr) : Instr :=
  match i with
  | .chputOpen f => if bitOf (s.rg f.a).toNat 8 then .chputClose f else .chputOpen f
  | .chgetOpen f => if bitOf (s.rg f.a).toNat 8 then .chgetClose f else .chgetOpen f
  | i => i

end Sys2Proof.Machine
end

