-- ==== Sys2Proof/WellFormed.lean ====
section
/-! DEFINITION. Well-formed instructions: what every check of 04 Table 4.7 that reads the word alone accepts. -/
namespace Sys2Proof

/-- An instruction whose reserved fields are zero, whose codes, register numbers and immediates are legal, and whose
type combination is implemented (Table 4.7 steps 3 to 5). An event of the device has no word, and is well formed. -/
def Instr.wf (i : Instr) : Bool :=
  match i.op, Sys2Proof.encode i with
  | some o, some w => Legal.rsvdOk o w && Legal.codeOk o w && Legal.comboOk o w
  | _, _ => true

end Sys2Proof
end

