-- ==== Sys2Proof/Certificates/Slice0/Obligations.lean ====
section
/-! DEFINITION. The statements about the package, family by family of 04 Table 4.6. -/
set_option Elab.async false
open Sys2Proof Sys2Proof.Machine

/-! ## Scalar instructions (06) -/

/-- R132, 06 Table 6.1: every function of OP 0x01 but the divisions and the forms of three sources completes in every state,
GR(D) is the result of the table, and nothing else changes but the PC. -/
def Obligations.RegisterArithmetic : Prop :=
  ∀ (f : RrF) (s : State),
    let a := s.rg f.a
    let b := s.rg f.b
    let n := b.toNat % 64
    Writes (.add f) s f.d (BitVec.ofNat 64 (a.toNat + b.toNat))
    ∧ Writes (.sub f) s f.d (BitVec.ofInt 64 (a.toInt - b.toInt))
    ∧ Writes (.mul f) s f.d (BitVec.ofInt 64 (a.toInt * b.toInt))
    ∧ Writes (.mulh f) s f.d ((a.signExtend 128 * b.signExtend 128).extractLsb' 64 64)
    ∧ Writes (.mulhn f) s f.d ((a.setWidth 128 * b.setWidth 128).extractLsb' 64 64)
    ∧ Writes (.and f) s f.d (a &&& b)
    ∧ Writes (.or f) s f.d (a ||| b)
    ∧ Writes (.xor f) s f.d (a ^^^ b)
    ∧ Writes (.andn f) s f.d (a &&& ~~~b)
    ∧ Writes (.shl f) s f.d (BitVec.ofNat 64 (a.toNat * 2 ^ n))
    ∧ Writes (.shr f) s f.d (BitVec.ofNat 64 (a.toNat / 2 ^ n))
    ∧ Writes (.sra f) s f.d (BitVec.ofInt 64 (a.toInt / 2 ^ n))
    ∧ Writes (.rotl f) s f.d (BitVec.ofNat 64 (a.toNat * 2 ^ n + a.toNat / 2 ^ (64 - n)))
    ∧ Writes (.min f) s f.d (if a.toInt ≤ b.toInt then a else b)
    ∧ Writes (.max f) s f.d (if b.toInt ≤ a.toInt then a else b)
    ∧ Writes (.minn f) s f.d (if a.toNat ≤ b.toNat then a else b)
    ∧ Writes (.maxn f) s f.d (if b.toNat ≤ a.toNat then a else b)

/-- R133: division rounds toward zero, the remainder takes the sign of the dividend, a divisor of zero and the signed overflow
give their fixed results, and a = trunc(q x b + r, 64) for the quotient and the remainder of the same operands. -/
def Obligations.Division : Prop :=
  (∀ (f : RrF) (s : State),
    let a := s.rg f.a
    let b := s.rg f.b
    Writes (.div f) s f.d
      (if b = 0 then BitVec.allOnes 64 else if a = BitVec.intMin 64 ∧ b = -1 then BitVec.intMin 64
       else BitVec.ofInt 64 (a.toInt.tdiv b.toInt))
    ∧ Writes (.divn f) s f.d (if b = 0 then BitVec.allOnes 64 else BitVec.ofNat 64 (a.toNat / b.toNat))
    ∧ Writes (.rem f) s f.d
      (if b = 0 then a else if a = BitVec.intMin 64 ∧ b = -1 then 0 else BitVec.ofInt 64 (a.toInt.tmod b.toInt))
    ∧ Writes (.remn f) s f.d (if b = 0 then a else BitVec.ofNat 64 (a.toNat % b.toNat)))
  ∧ ∀ a b : Word, divWord a b * b + remWord a b = a ∧ divnWord a b * b + remnWord a b = a

/-- R134: `sel` chooses by GR(C); the funnel shifts give the upper and the lower half of a:b shifted by GR(C)[5:0]. -/
def Obligations.ThreeSourceForms : Prop :=
  ∀ (f : RrF) (s : State),
    let a := s.rg f.a
    let b := s.rg f.b
    let c := s.rg f.c
    let n := c.toNat % 64
    Writes (.sel f) s f.d (if c = 0 then b else a)
    ∧ Writes (.fshl f) s f.d (((a ++ b) <<< n).extractLsb' 64 64)
    ∧ Writes (.fshr f) s f.d (((a ++ b) >>> n).extractLsb' 0 64)

/-- R135, R140: the immediate forms of OP 0x02 (the shifts and rotates for their counts 0 to 63) and `pcadd` complete with the
results of 06 Table 6.3, where the immediate is sext(IMM35, 35), and change nothing else but the PC. -/
def Obligations.ImmediateArithmetic : Prop :=
  ∀ (f : RiF) (s : State),
    let a := s.rg f.a
    let i := BitVec.ofInt 64 f.imm.toInt
    Writes (.addi f) s f.d (a + i)
    ∧ Writes (.andi f) s f.d (a &&& i)
    ∧ Writes (.ori f) s f.d (a ||| i)
    ∧ Writes (.xori f) s f.d (a ^^^ i)
    ∧ Writes (.pcadd f) s f.d (s.hart.pc + i)
    ∧ ∀ n : Nat, n < 64 → f.imm = BitVec.ofNat 35 n →
      Writes (.shli f) s f.d (BitVec.ofNat 64 (a.toNat * 2 ^ n))
      ∧ Writes (.shri f) s f.d (BitVec.ofNat 64 (a.toNat / 2 ^ n))
      ∧ Writes (.srai f) s f.d (BitVec.ofInt 64 (a.toInt / 2 ^ n))
      ∧ Writes (.rotli f) s f.d (BitVec.ofNat 64 (a.toNat * 2 ^ n + a.toNat / 2 ^ (64 - n)))

/-- R136: for every legal position and length, bit i of the result of `bext` is bit pos + i of a below len and 0 from there
on; `bins` takes bit i of the result from a inside the field and from the old GR(D) outside it. R137: `clz` and `ctz` give the
number of zero bits above the highest and below the lowest 1 bit, 64 for 0; `popc` counts the 1 bits. -/
def Obligations.BitManipulation : Prop :=
  (∀ (f : RiF) (s : State) (pos len : Nat), 1 ≤ len → pos + len ≤ 64 → f.imm = BitVec.ofNat 35 (64 * len + pos) →
     (∃ v, Writes (.bext f) s f.d v ∧ ∀ i, i < 64 → v.getLsbD i = (decide (i < len) && (s.rg f.a).getLsbD (pos + i)))
     ∧ ∃ v, Writes (.bins f) s f.d v ∧ ∀ i, i < 64 → v.getLsbD i =
         (if pos ≤ i ∧ i < pos + len then (s.rg f.a).getLsbD (i - pos) else (s.rg f.d).getLsbD i))
  ∧ ∀ (f : RrF) (s : State),
      (∃ n : Nat, Writes (.clz f) s f.d (BitVec.ofNat 64 n) ∧ n ≤ 64 ∧ (s.rg f.a).toNat < 2 ^ (64 - n)
        ∧ (n < 64 → 2 ^ (63 - n) ≤ (s.rg f.a).toNat))
      ∧ (∃ n : Nat, Writes (.ctz f) s f.d (BitVec.ofNat 64 n) ∧ n ≤ 64 ∧ (s.rg f.a).toNat % 2 ^ n = 0
        ∧ (n < 64 → (s.rg f.a).getLsbD n = true))
      ∧ Writes (.popc f) s f.d (BitVec.ofNat 64 ((List.range 64).countP fun i => (s.rg f.a).getLsbD i))

/-- R138, R139, R147, 04 Table 4.5: `setc` writes 1 when its condition holds between a and b and 0 when it does not; `li` and
`lih` build a word; `rdls` reads INDEX of an entry of the loop stack, 0 from LDEPTH on; `nop` changes nothing but the PC. -/
def Obligations.ConditionsAndConstants : Prop :=
  ∀ s : State,
    (∀ f : RrF,
      let a := s.rg f.a
      let b := s.rg f.b
      Writes (.setc 0 f) s f.d (if a = b then 1 else 0)
      ∧ Writes (.setc 1 f) s f.d (if a ≠ b then 1 else 0)
      ∧ Writes (.setc 2 f) s f.d (if a.toInt < b.toInt then 1 else 0)
      ∧ Writes (.setc 3 f) s f.d (if b.toInt ≤ a.toInt then 1 else 0)
      ∧ Writes (.setc 4 f) s f.d (if a.toNat < b.toNat then 1 else 0)
      ∧ Writes (.setc 5 f) s f.d (if b.toNat ≤ a.toNat then 1 else 0)
      ∧ Writes (.rdls f) s f.d
        (if h : f.a.toNat < s.hart.loops.length then (s.hart.loops[f.a.toNat]'h).index else 0)
      ∧ Writes (.nop f) s 0 0)
    ∧ ∀ f : LiF,
      Writes (.li f) s f.d (BitVec.ofInt 64 f.imm.toInt)
      ∧ (f.imm.toNat < 2 ^ 19 →
          Writes (.lih f) s f.d (BitVec.ofNat 64 (f.imm.toNat * 2 ^ 45 + (s.rg f.d).toNat % 2 ^ 45)))

/-! ## Control (06) -/

/-- R141, R142, R143: away from the last address of a loop body, `bc` goes to trunc(PC + 8 x sext(OFF35, 35), 64) when its
condition holds and to PC + 8 when it does not; `j` and `jl` go there always, and `jl` writes PC + 8; `jr` goes to GR(A) as it
stood, a multiple of 8, and writes PC + 8. Nothing else changes. -/
def Obligations.Branches : Prop :=
  ∀ s : State, s.plainPc →
    (∀ f : BrF,
      let t := BitVec.ofInt 64 ((s.hart.pc.toNat : Int) + 8 * f.off.toInt)
      let a := s.rg f.a
      let b := s.rg f.b
      let go (p : Bool) : Word := if p then t else s.hart.pc + 8
      Jumps (.bc 0 f) s (go (decide (a = b))) 0 0
      ∧ Jumps (.bc 1 f) s (go (decide (a ≠ b))) 0 0
      ∧ Jumps (.bc 2 f) s (go (decide (a.toInt < b.toInt))) 0 0
      ∧ Jumps (.bc 3 f) s (go (decide (b.toInt ≤ a.toInt))) 0 0
      ∧ Jumps (.bc 4 f) s (go (decide (a.toNat < b.toNat))) 0 0
      ∧ Jumps (.bc 5 f) s (go (decide (b.toNat ≤ a.toNat))) 0 0
      ∧ Jumps (.j f) s t 0 0
      ∧ Jumps (.jl f) s t f.d (s.hart.pc + 8))
    ∧ ∀ f : RrF, (s.rg f.a).toNat % 8 = 0 → Jumps (.jr f) s (s.rg f.a) f.d (s.hart.pc + 8)

/-- R143, R150, R430: with a handler set, `jr` to a target that is no multiple of 8 traps ALIGN with TVAL the target; a `bc`,
`j`, `jl`, `jr` or `loop` at the last address of the innermost loop body traps ILLEGAL with TVAL its word, whether or not its
condition holds. -/
def Obligations.TransferTraps : Prop :=
  ∀ s : State, s.canTrap →
    (s.plainPc → ∀ f : RrF, (s.rg f.a).toNat % 8 ≠ 0 → TrapsHere (.jr f) s 7 (s.rg f.a))
    ∧ (¬ s.plainPc →
        (∀ (cc : BitVec 3) (f : BrF) (w : Word), encode (.bc cc f) = some w → TrapsHere (.bc cc f) s 1 w)
        ∧ (∀ (f : BrF) (w : Word), encode (.j f) = some w → TrapsHere (.j f) s 1 w)
        ∧ (∀ (f : BrF) (w : Word), encode (.jl f) = some w → TrapsHere (.jl f) s 1 w)
        ∧ (∀ (f : RrF) (w : Word), encode (.jr f) = some w → TrapsHere (.jr f) s 1 w)
        ∧ ∀ (f : BrF) (w : Word), encode (.loop f) = some w → TrapsHere (.loop f) s 1 w)

/-- R148: away from the last address of a body, `loop` with GR(A) = 0 goes past the body and pushes nothing; else, with fewer
than six entries and a body that ends no later than the innermost loop of the same handling state, it pushes an entry with
INDEX 0 and goes on at PC + 8. With six entries, or with a body that ends later than that loop, it traps ILLEGAL. -/
def Obligations.LoopPushes : Prop :=
  ∀ (f : BrF) (s : State), s.plainPc → s.hart.pc.toNat + 8 * f.off.toNat < 2 ^ 57 →
    let last := s.hart.pc + BitVec.ofNat 64 (8 * f.off.toNat)
    (s.rg f.a = 0 → Jumps (.loop f) s (last + 8) 0 0)
    ∧ (s.rg f.a ≠ 0 → s.hart.loops.length < 6 →
        (∀ e ∈ s.hart.loops.find? (fun e => e.h == s.hart.handling), last.toNat ≤ e.last.toNat) →
        ∃ t, exec (.loop f) s = .next t ∧ ScalarFrame s t 0 0 ∧ t.hart.pc = s.hart.pc + 8
          ∧ t.hart.loops =
            { h := s.hart.handling, last := last.setWidth 57, first := (s.hart.pc + 8).setWidth 57, count := s.rg f.a
              index := 0 } :: s.hart.loops)
    ∧ (s.rg f.a ≠ 0 → s.canTrap →
        (6 ≤ s.hart.loops.length
          ∨ ∃ e ∈ s.hart.loops.find? (fun e => e.h == s.hart.handling), e.last.toNat < last.toNat) →
        ∀ w, encode (.loop f) = some w → TrapsHere (.loop f) s 1 w)

/-- R149, the loop-end step at the PC, as a `nop` takes it: where the innermost loop does not end, or there is none, PC + 8;
where it ends and has iterations left, FIRST with INDEX one more; where it is finished, its entry is popped and the step goes
on with the entry below. The statements of this file say of every instruction that is no transfer of control that it goes on
as a `nop` in its place. R151: `lbrk` leaves the innermost loop of the present handling state and applies the loop-end step at
that loop's LAST to the entries below; without such a loop it traps ILLEGAL. -/
def Obligations.LoopEnds : Prop :=
  (∀ (s : State) (f : RrF), exec (.nop f) s = .next s.advance
     ∧ (s.hart.loops = [] → s.advance.hart.pc = s.hart.pc + 8 ∧ s.advance.hart.loops = []))
  ∧ (∀ (s : State) (f : RrF) (e : Loop) (l : List Loop), s.hart.loops = e :: l →
     (¬ (e.last.setWidth 64 = s.hart.pc ∧ e.h = s.hart.handling) →
       ∃ t, exec (.nop f) s = .next t ∧ t.hart.pc = s.hart.pc + 8 ∧ t.hart.loops = e :: l)
     ∧ (e.last.setWidth 64 = s.hart.pc → e.h = s.hart.handling → e.index.toNat + 1 < e.count.toNat →
       ∃ t, exec (.nop f) s = .next t ∧ t.hart.pc = e.first.setWidth 64
         ∧ t.hart.loops = { e with index := BitVec.ofNat 64 (e.index.toNat + 1) } :: l)
     ∧ (e.last.setWidth 64 = s.hart.pc → e.h = s.hart.handling → e.count.toNat ≤ e.index.toNat + 1 →
       ∃ t t', exec (.nop f) s = .next t ∧ exec (.nop f) { s with hart := { s.hart with loops := l } } = .next t'
         ∧ t.hart.pc = t'.hart.pc ∧ t.hart.loops = t'.hart.loops))
  ∧ ∀ (f : RrF) (s : State),
      (∀ e l, s.hart.loops = e :: l → e.h = s.hart.handling →
        ∃ t, exec (.lbrk f) s = .next t ∧ ScalarFrame s t 0 0
          ∧ (t.hart.loops, t.hart.pc) =
            (match exec (.nop f) { s with hart := { s.hart with loops := l, pc := e.last.setWidth 64 } } with
             | .next u => (u.hart.loops, u.hart.pc)
             | _ => ([], 0)))
      ∧ ((∀ e ∈ s.hart.loops.head?, e.h ≠ s.hart.handling) → s.canTrap →
          ∀ w, encode (.lbrk f) = some w → TrapsHere (.lbrk f) s 1 w)

/-! ## System (03, 22) -/

/-- R448, R64, R58, R24, R25: `csrr` of a register that the level admits writes its value into GR(D) and changes nothing else;
the value is that of the register's place in the state, a field of the work identifier as WFMT cuts it, or what the part is.
CYCLE, WMARK and the error banks have rules of their own. Model's choice: when the LPART view is taken is log 18. -/
def Obligations.SystemRegisterReads : Prop :=
  ∀ (f : SyF) (s : State),
    let n := f.sreg.toNat
    let h := s.hart
    s.csrOpen n → n ∉ [0x41, 0x110] → (n < 0x800 ∨ 0xF00 ≤ n) →
    ∃ v, SeqWrites (.csrr f) s f.d v
      ∧ (n = 0x00 → v = BitVec.ofNat 64 h.vec.vl)
      ∧ (n = 0x01 → v = BitVec.ofNat 64 (8 * h.vec.ew.toNat + h.vec.ty.toNat))
      ∧ (n = 0x02 → v = BitVec.ofNat 64 h.vec.vstart)
      ∧ (n = 0x03 → v = h.vec.nreg.setWidth 64)
      ∧ (n = 0x04 → v = BitVec.ofNat 64 h.vec.vlmax)
      ∧ (n = 0x05 → v = BitVec.ofNat 64 h.gcap)
      ∧ (n = 0x06 → v = wset h.lpart 4 1 (if h.pend then 1 else 0))
      ∧ (n = 0x07 → v = h.vec.hwm)
      ∧ (n = 0x10 → v = h.rmode) ∧ (n = 0x11 → v = h.seed) ∧ (n = 0x20 → v = h.wid) ∧ (n = 0x21 → v = h.wfmt)
      ∧ (n = 0x22 → v = BitVec.ofNat 64 (2 ^ 13 * h.inst.stage + 2 ^ 8 * h.sq + h.core))
      ∧ (∀ i, i < 6 → n = 0x28 + i →
          let fields := wbits h.wfmt 42 3
          let below := ((List.range fields).filter fun k => decide (i < k)).map fun k => wbits h.wfmt (7 * k) 7
          v = if i < fields then BitVec.ofNat 64 (field h.wid.toNat (below.foldl (· + ·) 0) (wbits h.wfmt (7 * i) 7)) else 0)
      ∧ (n = 0x111 → v = s.evseqOf (dieOf h.core))
      ∧ (n = 0xFC0 → v = BitVec.ofNat 64 ((if s.part = 0 then 0x7160 else if s.part = 1 then 0x7152 else 0x7144) * 2 ^ 48
          + 2 ^ 40 + 4 * 2 ^ 32 + 64 * 2 ^ 24 + 4 * 2 ^ 20 + 64 * 2 ^ 12 + if s.part = 2 then 0x03F else 0xFFF))
      ∧ (n = 0xFC1 → v = BitVec.ofNat 64 (48 * 2 ^ 24 + 4 * 2 ^ 16 + (if s.part = 0 then 2 ^ 7 else 0) + 2 ^ 6
          + (if s.part = 2 then 0 else 2 ^ 5) + 2 ^ 4 + 2 ^ 3))
      ∧ (n = 0x30 → v = BitVec.ofNat 64 h.loops.length)
      ∧ (n = 0x40 → v = h.parklim)
      ∧ (n = 0x100 → v = h.cause) ∧ (n = 0x101 → v = h.epc) ∧ (n = 0x102 → v = h.tvec) ∧ (n = 0x103 → v = h.tval)
      ∧ (n = 0x104 → v = BitVec.ofNat 64 (2 ^ 16 * (s.ctxOf h.ctx).tenant + h.ctx))

/-- R448, R66: `csrw`, `csrs` and `csrc` write GR(A), old | GR(A) and old & ~GR(A) to the RW bits of the register alone, and
write the old value to GR(D); VSTART takes the low 17 bits; a register that is RO stands. No other register, no vector, mask
or column register and no byte of memory changes, but that the loop stack, and LDEPTH (0x30) with it, takes the loop-end step
(R149). -/
def Obligations.SystemRegisterWrites : Prop :=
  ∀ (f : SyF) (s : State) (i : Instr) (new : Word),
    let n := f.sreg.toNat
    let old := s.csrPlain n
    let a := s.rg f.a
    (i = .csrw f ∧ new = a ∨ i = .csrs f ∧ new = old ||| a ∨ i = .csrc f ∧ new = old &&& ~~~a) →
    s.csrOpen n → n ∉ [0x41, 0x110] → (n < 0x800 ∨ 0xF00 ≤ n) →
    ∃ t, exec i s = .next t ∧ s.sameButSeq t ∧ FallsThrough s t
      ∧ (∀ r, t.rg r = if r = 0 then 0 else if r = f.d then old else s.rg r)
      ∧ (∀ m, m ≠ n → m ≠ 0x30 → t.csrPlain m = s.csrPlain m)
      ∧ (n ≠ 0x30 → t.csrPlain n =
        (if n = 0x02 then new &&& 0x1FFFF
         else
           match csrRwBits.lookup n with
           | some mask => (old &&& ~~~mask) ||| (new &&& mask)
           | none => old))
      ∧ t.hart.vec.v = s.hart.vec.v ∧ t.hart.vec.m = s.hart.vec.m ∧ t.hart.vec.pois = s.hart.vec.pois
      ∧ { s.hart with
          vec := t.hart.vec, rmode := t.hart.rmode, seed := t.hart.seed, parklim := t.hart.parklim, cause := t.hart.cause
          epc := t.hart.epc, tvec := t.hart.tvec, tval := t.hart.tval }.sameButScalar t.hart

/-- R64, R429: with a handler set, an access to an unlisted number traps ILLEGAL, and at program level an access to a register
that is reserved to the supervisor, `rft`, `halt`, `tlbinv`, `vsave` and `vrest` trap PROT; TVAL is the word. Model's choice:
that PROT comes before other checks is log 38. -/
def Obligations.PrivilegeTraps : Prop :=
  ∀ (f : SyF) (s : State), s.canTrap →
    (csrListed f.sreg.toNat = false → ∀ i ∈ [Instr.csrr f, .csrw f, .csrs f, .csrc f], ∀ w, encode i = some w →
      TrapsHere i s 1 w)
    ∧ (s.hart.level = .program →
        (csrListed f.sreg.toNat = true → csrSupervisor f.sreg.toNat = true →
          ∀ i ∈ [Instr.csrr f, .csrw f, .csrs f, .csrc f], ∀ w, encode i = some w → TrapsHere i s 6 w)
        ∧ ∀ i ∈ [Instr.rft f, .halt f, .tlbinvPage f, .tlbinvAll f, .vsave f, .vrest f], ∀ w, encode i = some w →
          TrapsHere i s 6 w)

/-- R449, R430: with a handler set, `trap` completes and then raises TRAPI, and `brk` completes and then raises BRKPT, with
SUB the low 16 bits of the immediate, EPC the next PC after the completion (the one that a `nop` in its place would leave, by
R149), and TVAL the old GR(A), or the address of the `brk`. -/
def Obligations.TrapOnRequest : Prop :=
  ∀ (f : SyF) (s : State), s.canTrap →
    let u := s.advance
    (∃ t, exec (.trap f) s = .next t
      ∧ TrapTaken u t 16 (f.imm.toNat % 65536) (u.hart.pc &&& 0xFFFFFFFFFFFFFFF8#64) (s.rg f.a))
    ∧ ∃ t, exec (.brk f) s = .next t
      ∧ TrapTaken u t 15 (f.imm.toNat % 65536) (u.hart.pc &&& 0xFFFFFFFFFFFFFFF8#64) s.hart.pc

/-- R450, R153: `rft` at supervisor level while a trap is handled pops the loop entries with H = 1, sets the level to PLEV,
clears HND and SKIP and no other bit of CAUSE, goes to EPC and suppresses one breakpoint match where SKIP was set; the other
registers and memory stand. With HND = 0 and a handler set it traps ILLEGAL. -/
def Obligations.TrapReturn : Prop :=
  ∀ (f : SyF) (s : State), s.hart.level = .supervisor →
    (s.hart.handling = true →
      ∃ t, exec (.rft f) s = .next t ∧ s.sameButSeq t
        ∧ t.hart = { s.hart with
            loops := s.hart.loops.filter (fun e => e.h = false), cause := t.hart.cause, pc := s.hart.epc
            level := if bitOf s.hart.cause.toNat 60 then .supervisor else .program
            skipBp := bitOf s.hart.cause.toNat 59, waiting := false, atPoint := true, mayYield := false, held := none }
        ∧ ∀ i, i < 64 → t.hart.cause.getLsbD i = (s.hart.cause.getLsbD i && i != 58 && i != 59))
    ∧ (s.canTrap → ∀ w, encode (.rft f) = some w → TrapsHere (.rft f) s 1 w)

/-- R451, R453: with no scatter-addition under way, `isync` changes nothing but the PC, and so does `tlbinv` at supervisor
level, once no access of the context that is translated by the page of GR(A), or in mode 1 by any, has yet to be performed.
R452, R438: `halt` at supervisor level, with no scatter-addition of its own under way and a block that can be written,
completes and lands: the scalar registers are written to the block of the context, with HALTED = 1 and the next PC; the
instance leaves its sequencer and waits, halted, among the instances switched out; its lane group is released. Model's choice:
that these wait for pending scatter-additions only is log 11. -/
def Obligations.SynchronisingForms : Prop :=
  (∀ (f : SyF) (s : State), s.adds = [] →
     SeqWrites (.isync f) s 0 0
     ∧ (s.hart.level = .supervisor →
         (s.translated s.hart.ctx (fun va page => va / page == (s.rg f.a).toNat / page) = false →
           SeqWrites (.tlbinvPage f) s 0 0)
         ∧ (s.translated s.hart.ctx (fun _ _ => true) = false → SeqWrites (.tlbinvAll f) s 0 0)))
  ∧ ∀ (f : SyF) (s v : State), s.hart.level = .supervisor → s.adds = [] →
      let u := s.advance
      let own := u.hart.owner == some (u.hart.ctx, u.hart.inst)
      u.ctxWrite u.hart.ctx .supervisor ((u.ctxOf u.hart.ctx).save + 282688 * u.hart.blk)
        (u.hart.scalarBlock
          { fatal := false, halted := true, miditer := false, lazily := own, pc := u.hart.pc, cause := u.hart.cause
            epc := u.hart.epc, tval := u.hart.tval }) = some v →
      ∃ t, exec (.halt f) s = .next t ∧ t.mem = v.mem ∧ t.hart.live = false ∧ t.hart.group = none
        ∧ t.hart.vec = u.hart.vec ∧ t.hart.owner = u.hart.owner
        ∧ ∃ x, t.saved = s.saved ++ [x] ∧ x.ctx = s.hart.ctx ∧ x.inst = s.hart.inst ∧ x.blk = s.hart.blk ∧ x.halted = true

/-! ## Vector integer and pixel instructions (07) -/

/-- R161, R162, 07 Table 7.2: every function of the table, in its three encodings, writes trunc of its value into each active
element, and changes nothing else of the package but VSTART, HWM, poison bits of what it writes, and the PC. x reads an
element by its type, clamp is sat of the rule. Model's choice: what moves the lane under check on is log 65. -/
def Obligations.VectorInteger : Prop :=
  let x (ty : BitVec 3) (w v : Nat) : Int := if ty = 1 then (BitVec.ofNat w v).toInt else v
  let clamp (ty : BitVec 3) (w : Nat) (y : Int) : Int :=
    if ty = 1 then max (-(2 ^ (w - 1))) (min y (2 ^ (w - 1) - 1)) else max 0 (min y (2 ^ w - 1))
  let cut (w : Nat) (y : Int) : Nat := (BitVec.ofInt w y).toNat
  IntForms .vaddVv .vaddVs .vaddVi false (fun _ _ a b _ => a + b)
  ∧ IntForms .vsubVv .vsubVs .vsubVi false (fun _ w a b _ => cut w (a - b))
  ∧ IntForms .vmulVv .vmulVs .vmulVi false (fun _ _ a b _ => a * b)
  ∧ IntForms .vmulhVv .vmulhVs .vmulhVi false (fun ty w a b _ => cut w (x ty w a * x ty w b / 2 ^ w))
  ∧ IntForms .vmacVv .vmacVs .vmacVi true (fun _ _ a b c => a * b + c)
  ∧ IntForms .vaddsVv .vaddsVs .vaddsVi false (fun ty w a b _ => cut w (clamp ty w (x ty w a + x ty w b)))
  ∧ IntForms .vsubsVv .vsubsVs .vsubsVi false (fun ty w a b _ => cut w (clamp ty w (x ty w a - x ty w b)))
  ∧ IntForms .vavgVv .vavgVs .vavgVi false (fun ty w a b _ => cut w ((x ty w a + x ty w b + 1) / 2))
  ∧ IntForms .vabsdVv .vabsdVs .vabsdVi false (fun ty w a b _ => (x ty w a - x ty w b).natAbs)
  ∧ IntForms .vminVv .vminVs .vminVi false (fun ty w a b _ => if x ty w a ≤ x ty w b then a else b)
  ∧ IntForms .vmaxVv .vmaxVs .vmaxVi false (fun ty w a b _ => if x ty w b ≤ x ty w a then a else b)
  ∧ IntForms .vandVv .vandVs .vandVi false (fun _ _ a b _ => a &&& b)
  ∧ IntForms .vorVv .vorVs .vorVi false (fun _ _ a b _ => a ||| b)
  ∧ IntForms .vxorVv .vxorVs .vxorVi false (fun _ _ a b _ => a ^^^ b)
  ∧ IntForms .vshlVv .vshlVs .vshlVi false (fun _ w a b _ => a * 2 ^ (b % w))
  ∧ IntForms .vshrVv .vshrVs .vshrVi false (fun _ w a b _ => a / 2 ^ (b % w))
  ∧ IntForms .vsraVv .vsraVs .vsraVi false (fun _ w a b _ => cut w ((BitVec.ofNat w a).toInt / 2 ^ (b % w)))
  ∧ IntForms .vfshlVv .vfshlVs .vfshlVi true (fun _ w a b c => (a * 2 ^ w + b) * 2 ^ (c % w) / 2 ^ w)
  ∧ IntForms .vfshrVv .vfshrVs .vfshrVi true (fun _ w a b c => (a * 2 ^ w + b) / 2 ^ (c % w))

/-- R163, R166, R167: `vclz` counts the zero bits above the highest 1 bit, w for 0; `vpopc` counts the 1 bits; `vwid` and
`vnar` read the source in its own type, and `vnar` with SAT = 1 clamps it to the destination's. R164, 04 Table 4.5, R165:
`vcmp` writes the condition of each active pair into MR(D), of which m0 keeps its ones; `vsel` takes VR(A, e) where the
selector mask has a 1 and VR(B, e) where it has a 0, and consumes only what it takes. Model's choice: what moves the lane
under check on is log 65. -/
def Obligations.VectorIntegerUnary : Prop :=
  (∀ (f : VvF) (s : State),
     let w := widthOf f.ew
     let ws := widthOf (Legal.srcEw f)
     let x (a : Nat) : Int := if Legal.srcTy f = 1 then (BitVec.ofNat ws a).toInt else a
     let clamp (y : Int) : Int :=
       if f.ty = 1 then max (-(2 ^ (w - 1))) (min y (2 ^ (w - 1) - 1)) else max 0 (min y (2 ^ w - 1))
     Unary (.vclz f) f s w w (fun _ a => if a = 0 then w else w - 1 - a.log2)
     ∧ Unary (.vpopc f) f s w w (fun _ a => (List.range w).countP fun i => a.testBit i)
     ∧ Unary (.vwid f) f s ws w (fun _ a => (BitVec.ofInt w (x a)).toNat)
     ∧ Unary (.vnar f) f s ws w (fun _ a => (BitVec.ofInt w (if f.sat = 1 then clamp (x a) else x a)).toNat))
  ∧ ∀ (f : VvF) (s : State),
      let v := s.hart.vec
      let w := widthOf f.ew
      let act := v.acts f.msk f.mn
      let a e := v.elem f.a.toNat e w
      let b e := v.elem f.b.toNat e w
      let i e := (BitVec.ofNat w (a e)).toInt
      let j e := (BitVec.ofNat w (b e)).toInt
      let sel e := bitOf (v.mr (f.imm.toNat % 8)) e
      (s.VecReady [f.a.toNat, f.b.toNat] [w] → v.Clean f.a.toNat w act → v.Clean f.b.toNat w act →
        ∀ p ∈ [(0, fun e => decide (a e = b e)), (1, fun e => decide (a e ≠ b e)), (2, fun e => decide (i e < j e)),
            (3, fun e => decide (j e ≤ i e)), (4, fun e => decide (a e < b e)), (5, fun e => decide (b e ≤ a e)),
            (6, fun e => decide (i e ≤ j e)), (7, fun e => decide (j e < i e)), (8, fun e => decide (a e ≤ b e)),
            (9, fun e => decide (b e < a e))],
          f.imm.toNat = p.1 → MaskWrites (.vcmp f) s (f.d.setWidth 3) act p.2)
      ∧ (s.VecReady [f.d.toNat, f.a.toNat, f.b.toNat] [w] → v.Clean f.a.toNat w (fun e => act e && sel e) →
          v.Clean f.b.toNat w (fun e => act e && !sel e) →
          VecWrites (.vsel f) s f.d w act fun e => if sel e then a e else b e)

/-- R168 to R171: `vpxu` writes field(A, e), sign-extended for a signed type, into the active 16-bit elements; `vpxp` writes
each active element, clamped where SAT = 1, into field(D, e), and leaves the fields of the other elements. A field reads as b
bits from e x b on, or as stream bits, highest first, in the other order. Model's choice: what moves the lane under check on
is log 65. -/
def Obligations.PackedPixels : Prop :=
  ∀ (f : VvF) (s : State),
    let v := s.hart.vec
    let b := f.imm.toNat % 16
    let order := bitOf f.imm.toNat 4
    let act := v.acts f.msk f.mn
    let fieldOf (x e : Nat) : Nat :=
      if order then
        (List.range b).foldl (fun n i => 2 * n + (x.testBit (8 * ((b * e + i) / 8) + 7 - (b * e + i) % 8)).toNat) 0
      else field x (b * e) b
    b ∈ [10, 12, 14] → s.VecReady [f.d.toNat, f.a.toNat] [16] →
    ((∀ e, act e = true → poisonHit (v.poison f.a.toNat) (b * e) b = false) →
      VecWrites (.vpxu f) s f.d 16 act fun e =>
        let x := fieldOf (v.bits f.a.toNat) e
        if f.ty = 1 then (BitVec.ofInt 16 (BitVec.ofNat b x).toInt).toNat else x)
    ∧ (v.Clean f.a.toNat 16 act →
        ∃ t, exec (.vpxp f) s = .next t ∧ VecStep s t [f.d.toNat] []
          ∧ ∀ e, b * (e + 1) ≤ 65536 → fieldOf (t.hart.vec.bits f.d.toNat) e =
            if act e then
              let a := v.elem f.a.toNat e 16
              let y : Int := if f.ty = 1 then (BitVec.ofNat 16 a).toInt else a
              let z := if f.sat = 1 then
                  (if f.ty = 1 then max (-(2 ^ (b - 1))) (min y (2 ^ (b - 1) - 1)) else max 0 (min y (2 ^ b - 1)))
                else y
              (BitVec.ofInt b z).toNat
            else fieldOf (v.bits f.d.toNat) e)

/-! ## Vector floating instructions (07, 05) -/

/-- R172, R173, R174, R88, R111: the functions of 07 Table 7.4 complete for every pair of a type and a mode that the word and
RMODE give, and write the rounded exact result, or the operand that `vfmin` and `vfmax` pick, into each active element.
Model's choice: what moves the lane under check on is log 65. -/
def Obligations.VectorFloatBinary : Prop :=
  FloatForms .vfaddVv .vfaddVs false true (fun fm r a b _ => fm.round r false ((fm.val a).add (r.mode == .rdn) (fm.val b)))
  ∧ FloatForms .vfsubVv .vfsubVs false true
      (fun fm r a b _ => fm.round r false ((fm.val a).add (r.mode == .rdn) (fm.val b).neg))
  ∧ FloatForms .vfmulVv .vfmulVs false true (fun fm r a b _ => fm.round r false ((fm.val a).mul (fm.val b)))
  ∧ FloatForms .vfmaVv .vfmaVs true true
      (fun fm r a b c => fm.round r false (((fm.val a).mul (fm.val b)).add (r.mode == .rdn) (fm.val c)))
  ∧ FloatForms .vfminVv .vfminVs false false (fun fm _ a b _ =>
      if fm.val a = .nan ∧ fm.val b = .nan then fm.nan else if fm.val a = .nan then b else if fm.val b = .nan then a
      else if (fm.val b).below (fm.val a) then b else a)
  ∧ FloatForms .vfmaxVv .vfmaxVs false false (fun fm _ a b _ =>
      if fm.val a = .nan ∧ fm.val b = .nan then fm.nan else if fm.val a = .nan then b else if fm.val b = .nan then a
      else if (fm.val a).below (fm.val b) then b else a)
  ∧ FloatForms .vfdivVv .vfdivVs false true (fun fm r a b _ => fm.roundExact r false ((fm.val a).div (fm.val b)))

/-- R175, R176, R177, R179, R180: the unary functions, the rounding to an integral value and the conversions complete under
the mode of their word; `vfclass` writes the one bit of the class. R178: `vfcmp` writes the condition of each active pair of
values, −0 equal to +0, every ordered condition false and `ne` true where an operand is NaN. Model's choice: overflow to E4M3
is log 14; what moves the lane under check on is log 65. -/
def Obligations.VectorFloatUnary : Prop :=
  (∀ (f : VvF) (s : State) (m : Mode),
     let w := widthOf f.ew
     let ws := widthOf (Legal.srcEw f)
     let fm := fmtOf f.ew f.ty
     let src := fmtOf (Legal.srcEw f) (Legal.srcTy f)
     (f.ew = 3 → f.ty = 2 → s.hasF64 = true) →
     Unary (.vfclass f) f s w w (fun _ a => 2 ^ fm.classBit a)
     ∧ (s.modeNow f.rm = some m →
         Unary (.vfsqrt f) f s w w (fun e a => fm.roundExact (s.hart.rndAt m e) false (fm.val a).root)
         ∧ Unary (.vfrcp f) f s w w (fun e a => fm.roundExact (s.hart.rndAt m e) false (Val.div (.fin false 1 0) (fm.val a)))
         ∧ Unary (.vfrsq f) f s w w (fun e a => fm.roundExact (s.hart.rndAt m e) false (fm.val a).recipRoot)
         ∧ Unary (.vfexp2 f) f s w w (fun e a => fm.roundExact (s.hart.rndAt m e) false (fm.val a).pow2)
         ∧ Unary (.vflog2 f) f s w w (fun e a => fm.roundExact (s.hart.rndAt m e) false (fm.val a).logTwo)
         ∧ Unary (.vfround f) f s w w (fun e a => fm.toIntegral (s.hart.rndAt m e) a)
         ∧ ((Legal.srcEw f = 3 → Legal.srcTy f = 2 → s.hasF64 = true) →
             Unary (.vfcvt f) f s ws w (fun e a =>
               if src.val a = .nan then fm.nan
               else fm.round (s.hart.rndAt m e) (f.sat == 1 && fm.width == 8) (src.val a))
             ∧ (f.ty ∈ [(0 : BitVec 3), 1] → Unary (.vficvt f) f s ws w (fun e a =>
                 let b := intBounds w (f.ty == 1)
                 (BitVec.ofInt w ((src.val a).toInt (s.hart.rndAt m e) b.1 b.2)).toNat))
             ∧ (f.ty ∉ [(0 : BitVec 3), 1] → Unary (.vficvt f) f s ws w (fun e a =>
                 fm.round (s.hart.rndAt m e) false
                   (Val.ofInt (if Legal.srcTy f = 1 then (BitVec.ofNat ws a).toInt else a) 0))))))
  ∧ ∀ (f : VvF) (s : State),
      let v := s.hart.vec
      let w := widthOf f.ew
      let fm := fmtOf f.ew f.ty
      let act := v.acts f.msk f.mn
      let a e := fm.val (v.elem f.a.toNat e w)
      let b e := fm.val (v.elem f.b.toNat e w)
      let nan e := a e == .nan || b e == .nan
      let lt e := (a e).less (b e)
      let gt e := (b e).less (a e)
      (f.ew = 3 → f.ty = 2 → s.hasF64 = true) → s.VecReady [f.a.toNat, f.b.toNat] [w] → v.Clean f.a.toNat w act →
      v.Clean f.b.toNat w act →
      ∀ p ∈ [(0, fun e => !nan e && !lt e && !gt e), (1, fun e => nan e || lt e || gt e), (2, fun e => !nan e && lt e),
          (3, fun e => !nan e && !lt e), (6, fun e => !nan e && !gt e), (7, fun e => !nan e && gt e), (10, nan),
          (11, fun e => !nan e)],
        f.imm.toNat = p.1 → MaskWrites (.vfcmp f) s (f.d.setWidth 3) act p.2

/-! ## Permutations, reductions, masks and block formats (08) -/

/-- R184, R185, R186: `vmvx` reads one element, whatever VL, and 0 beyond VLMAX; `vmvs` writes element 0 and `vbc` every
active element; `vslu` and `vsld` move elements up and down by GR(B), `vslu` leaving those below it and `vsld` filling with 0;
`vperm` gathers by the indices in VR(B), with 0 from VL on. R182, R187: from VSTART 0, `vcomp` packs the active elements from
element 0 up, `vexp` spreads the first elements to the active positions, and `viota` adds to each active element the number of
active elements below it. With 0 < VSTART < VL each traps ILLEGAL. Model's choice: what moves the lane under check on is log
65. -/
def Obligations.VectorMoves : Prop :=
  (∀ (f : VvF) (s : State),
     let v := s.hart.vec
     let w := widthOf f.ew
     let act := v.acts f.msk f.mn
     let a e := v.elem f.a.toNat e w
     let idx e := v.elem f.b.toNat e w
     let n := (s.rg f.b).toNat
     (s.VecReady [f.a.toNat] [w] → (n < v.vlmax / w → v.Clean f.a.toNat w (· == n)) →
       VecToScalar (.vmvx f) s f.d
         (if n < v.vlmax / w then (if f.ty = 1 then (BitVec.ofNat w (a n)).signExtend 64 else BitVec.ofNat 64 (a n)) else 0))
     ∧ (s.VecReady [f.d.toNat] [w] →
         VecWrites (.vmvs f) s f.d w (fun e => act e && e == 0) (fun _ => (s.rg f.a).toNat)
         ∧ VecWrites (.vbc f) s f.d w act (fun _ => (s.rg f.a).toNat))
     ∧ (s.VecReady [f.d.toNat, f.a.toNat] [w] →
         (v.Clean f.a.toNat w (fun i => act (i + n)) →
           VecWrites (.vslu f) s f.d w (fun e => act e && decide (n ≤ e)) (fun e => a (e - n)))
         ∧ (v.Clean f.a.toNat w (fun i => decide (n ≤ i) && decide (i < v.vl) && act (i - n)) →
           VecWrites (.vsld f) s f.d w act (fun e => if e + n < v.vl then a (e + n) else 0)))
     ∧ (s.VecReady [f.d.toNat, f.a.toNat, f.b.toNat] [w] → v.Clean f.b.toNat w act →
         (∀ e, act e = true → idx e < v.vl → poisonHit (v.poison f.a.toNat) (w * idx e) w = false) →
         VecWrites (.vperm f) s f.d w act (fun e => if idx e < v.vl then a (idx e) else 0)))
  ∧ ∀ (f : VvF) (s : State),
      let v := s.hart.vec
      let w := widthOf f.ew
      let act := v.acts f.msk f.mn
      let es := v.active f.msk f.mn
      let a e := v.elem f.a.toNat e w
      let below e := (es.filter (· < e)).length
      s.VecReady [f.d.toNat, f.a.toNat] [w] →
      (v.fromZero → v.Clean f.a.toNat w act →
        VecWrites (.vcomp f) s f.d w (fun k => decide (k < es.length)) (fun k => a (es.getD k 0))
        ∧ VecWrites (.viota f) s f.d w act (fun e => a e + below e))
      ∧ (v.fromZero → v.Clean f.a.toNat w (fun k => decide (k < es.length)) →
        VecWrites (.vexp f) s f.d w act (fun e => a (below e)))
      ∧ (¬ v.fromZero → s.canTrap → ∀ i ∈ [Instr.vcomp f, .vexp f, .viota f], ∀ x, encode i = some x →
          ∃ t, exec i s = .next t ∧ TrapTaken s.nextLane t 1 0 (s.hart.pc &&& 0xFFFFFFFFFFFFFFF8#64) x)

/-- R188, R189, 08 Table 8.3, on integer types: while VSTART < VL, element 0 takes the sum of the active elements, exact and
saturated once where SAT = 1, their largest or smallest, the bound of the type where none is active, their conjunction or
their disjunction. Model's choice: what moves the lane under check on is log 65. -/
def Obligations.IntegerReductions : Prop :=
  ∀ (f : VvF) (s : State),
    let v := s.hart.vec
    let w := widthOf f.ew
    let act := v.acts f.msk f.mn
    let xs := (v.active f.msk f.mn).map fun e => v.elem f.a.toNat e w
    let x (a : Nat) : Int := if f.ty = 1 then (BitVec.ofNat w a).toInt else a
    let lo : Int := if f.ty = 1 then -(2 ^ (w - 1)) else 0
    let hi : Int := if f.ty = 1 then 2 ^ (w - 1) - 1 else 2 ^ w - 1
    let first e := e == 0 && decide (v.vstart < v.vl)
    let sum := (xs.map x).foldr (· + ·) 0
    s.VecReady [f.d.toNat, f.a.toNat] [w] → v.Clean f.a.toNat w act →
    VecWrites (.vredsum f) s f.d w first (fun _ => (BitVec.ofInt w (if f.sat = 1 then max lo (min sum hi) else sum)).toNat)
    ∧ VecWrites (.vredand f) s f.d w first (fun _ => xs.foldr (· &&& ·) (2 ^ w - 1))
    ∧ VecWrites (.vredor f) s f.d w first (fun _ => xs.foldr (· ||| ·) 0)
    ∧ (f.ty ∈ [(0 : BitVec 3), 1] →
        VecWrites (.vredmax f) s f.d w first (fun _ => (BitVec.ofInt w ((xs.map x).foldr max lo)).toNat)
        ∧ VecWrites (.vredmin f) s f.d w first (fun _ => (BitVec.ofInt w ((xs.map x).foldr min hi)).toNat))

/-- R188, R189 on float types: element 0 takes an element that no other active element exceeds, or falls below, −0 counting as
less than +0 and NaN ignored while another element is there; a NaN result is canonical and an empty one an infinity. R190,
R191, R192, R127, R129: under CANON the sum is the pairwise tree over 32 slots, each slot a sum in element order; without it
some binary combination of the elements, each addition rounded in the mode, which the machine leaves free; +0 of none. While
VSTART < VL, `.fold` adds VL elements to a carry group from position POS on, where an absent slot keeps its bits, and `.init`
clears the group; from VL on neither writes, and the bits of the five registers above 511 stand. `.fin` sums the slots of a
group into element 0 where that is active. Fold and finish consume every poison group of the carry bits. Model's choice: the
combination without CANON is a free value, log 61; what moves the lane under check on is log 65. -/
def Obligations.FloatReductions : Prop :=
  (∀ (f : VvF) (s : State) (largest : Bool),
     let v := s.hart.vec
     let w := widthOf f.ew
     let fm := fmtOf f.ew f.ty
     let act := v.acts f.msk f.mn
     let xs := (v.active f.msk f.mn).map fun e => v.elem f.a.toNat e w
     let real := xs.filter fun a => fm.val a != .nan
     let above (a b : Nat) : Bool := if largest then (fm.val a).below (fm.val b) else (fm.val b).below (fm.val a)
     (f.ew.toNat, f.ty.toNat) ∈ [(1, 2), (2, 2), (3, 2), (1, 3)] → (f.ew = 3 → s.hasF64 = true) →
     s.VecReady [f.d.toNat, f.a.toNat] [w] → v.Clean f.a.toNat w act →
     ∃ r, VecWrites (if largest then .vredmax f else .vredmin f) s f.d w (fun e => e == 0 && decide (v.vstart < v.vl))
         (fun _ => r)
       ∧ (xs = [] → fm.val r = .inf largest)
       ∧ (xs ≠ [] → real = [] → r = fm.nan)
       ∧ (real ≠ [] → r ∈ real ∧ ∀ a ∈ real, above r a = false))
  ∧ ∀ (f : VvF) (s : State) (m : Mode),
      let h := s.hart
      let v := h.vec
      let w := widthOf f.ew
      let fm := fmtOf f.ew f.ty
      let act := v.acts f.msk f.mn
      let es := v.active f.msk f.mn
      let a e := v.elem f.a.toNat e w
      let first e := e == 0 && decide (v.vstart < v.vl)
      let group := carrySlots w (v.carry f.d.toNat)
      (f.ew = 3 → f.ty = 2 → s.hasF64 = true) → s.modeNow f.rm = some m →
      (s.VecReady [f.d.toNat, f.a.toNat] [w] → v.Clean f.a.toNat w act →
        (h.canon = true →
          VecWrites (.vfredsum f) s f.d w first
            (fun _ => treeSum fm h m (foldSlots fm h m (List.replicate 32 none) (es.map fun e => (e, e, a e)))))
        ∧ (h.canon = false → ∃ t r, exec (.vfredsum f) s = .next t ∧ VecStep s { t with tick := s.tick } [f.d.toNat] []
            ∧ (∀ e, w * (e + 1) ≤ 65536 → t.hart.vec.elem f.d.toNat e w = if first e then r % 2 ^ w else v.elem f.d.toNat e w)
            ∧ (es = [] → r = 0) ∧ (es ≠ [] → v.vstart < v.vl → ∃ x, SumsTo fm h m (es.map a) x ∧ r = fm.canonical x)))
      ∧ (s.VecReady (f.a.toNat :: (List.range 5).map (f.d.toNat + ·)) [w] →
          ¬ (f.d.toNat ≤ f.a.toNat ∧ f.a.toNat ≤ f.d.toNat + 4) →
          v.Clean f.a.toNat w act → (∀ k, k < 5 → poisonHit (v.poison (f.d.toNat + k)) 0 512 = false) →
          ∃ t, exec (.vfredsumFold f) s = .next t ∧ VecStep s t ((List.range 5).map (f.d.toNat + ·)) []
            ∧ t.hart.vec.carry f.d.toNat =
                (if v.vstart < v.vl then
                  carryBits w (v.carry f.d.toNat) (group.1 + v.vl)
                    (foldSlots fm h m group.2 (es.map fun e => (group.1 + e, e, a e)))
                else v.carry f.d.toNat)
            ∧ ∀ k, k < 5 → t.hart.vec.bits (f.d.toNat + k) / 2 ^ 512 = v.bits (f.d.toNat + k) / 2 ^ 512)
      ∧ (s.VecReady (f.d.toNat :: (List.range 5).map (f.a.toNat + ·)) [w] →
          (∀ k, k < 5 → poisonHit (v.poison (f.a.toNat + k)) 0 512 = false) →
          VecWrites (.vfredsumFin f) s f.d w (fun e => act e && e == 0)
            (fun _ => treeSum fm h m (carrySlots w (v.carry f.a.toNat)).2))
      ∧ (s.VecReady ((List.range 5).map (f.d.toNat + ·)) [] →
          ∃ t, exec (.vfredsumInit f) s = .next t ∧ VecStep s t ((List.range 5).map (f.d.toNat + ·)) []
            ∧ t.hart.vec.carry f.d.toNat = (if v.vstart < v.vl then 0 else v.carry f.d.toNat)
            ∧ ∀ k, k < 5 → t.hart.vec.bits (f.d.toNat + k) / 2 ^ 512 = v.bits (f.d.toNat + k) / 2 ^ 512)

/-- R193, R194, R182: from VSTART 0, `vgmax` writes into element j the largest active element of group j, or its magnitude,
and what stands for an empty group; `vscan` writes into each active element the sum of the active elements up to it, or below
it, saturated or rounded at each step. Model's choice: what moves the lane under check on is log 65. -/
def Obligations.GroupMaximaAndScans : Prop :=
  ∀ (f : VvF) (s : State) (m : Mode),
    let h := s.hart
    let v := h.vec
    let w := widthOf f.ew
    let fm := fmtOf f.ew f.ty
    let act := v.acts f.msk f.mn
    let es := v.active f.msk f.mn
    let a e := v.elem f.a.toNat e w
    let x (n : Nat) : Int := if f.ty = 1 then (BitVec.ofNat w n).toInt else n
    let one := bitOf f.imm.toNat 0
    let mag (n : Nat) : Int := if one then (x n).natAbs else x n
    let none_ : Int := if f.ty = 0 ∨ one = true then 0 else -(2 ^ (w - 1))
    let upTo e := es.filter fun k => if one then decide (k < e) else decide (k ≤ e)
    v.fromZero → s.VecReady [f.d.toNat, f.a.toNat] [w] → v.Clean f.a.toNat w act →
    VecWrites (.vgmax f) s f.d w (fun j => decide (v.vstart < v.vl) && decide (32 * j < v.vl))
      (fun j => (BitVec.ofInt w
        (match (es.filter (· / 32 = j)).map fun e => mag (a e) with
         | [] => none_
         | y :: t => t.foldl max y)).toNat)
    ∧ (f.ty ∈ [(0 : BitVec 3), 1] → f.sat = 0 →
        VecWrites (.vscan f) s f.d w act (fun e => ((upTo e).map a).foldl (· + ·) 0))
    ∧ (f.ty ∈ [(0 : BitVec 3), 1] → f.sat = 1 →
        VecWrites (.vscan f) s f.d w act (fun e => (BitVec.ofInt w (((upTo e).map fun k => x (a k)).foldl
          (fun r y => if f.ty = 1 then max (-(2 ^ (w - 1))) (min (r + y) (2 ^ (w - 1) - 1)) else min (r + y) (2 ^ w - 1))
          0)).toNat))
    ∧ (f.ty ∉ [(0 : BitVec 3), 1] → (f.ew = 3 → f.ty = 2 → s.hasF64 = true) → s.modeNow f.rm = some m →
        VecWrites (.vscan f) s f.d w act (fun e =>
          match upTo e with
          | [] => 0
          | k :: t => t.foldl (fun r k => fm.round (h.rndAt m k) false ((fm.val r).add (m == .rdn) (fm.val (a k))))
              (if fm.val (a k) = .nan then fm.nan else a k)))

/-- R195, R196: the mask functions write each active bit of MR(D), of which m0 keeps its ones; `mpopc` counts the active
elements with a 1 in MR(A), and `mfirst` gives the lowest of them, or all ones. Model's choice: what moves the lane under
check on is log 65. -/
def Obligations.MaskInstructions : Prop :=
  ∀ (f : VvF) (s : State),
    let v := s.hart.vec
    let act := v.acts f.msk f.mn
    let a e := bitOf (v.mr (f.a.toNat % 8)) e
    let b e := bitOf (v.mr (f.b.toNat % 8)) e
    let chosen := (v.active f.msk f.mn).filter a
    let d := f.d.setWidth 3
    MaskWrites (.mand f) s d act (fun e => a e && b e)
    ∧ MaskWrites (.mor f) s d act (fun e => a e || b e)
    ∧ MaskWrites (.mxor f) s d act (fun e => a e != b e)
    ∧ MaskWrites (.mandn f) s d act (fun e => a e && !b e)
    ∧ MaskWrites (.mnot f) s d act (fun e => !a e)
    ∧ VecToScalar (.mpopc f) s f.d (BitVec.ofNat 64 chosen.length)
    ∧ VecToScalar (.mfirst f) s f.d
        (match chosen with
         | e :: _ => BitVec.ofNat 64 e
         | [] => BitVec.allOnes 64)

/-- R198, R199, R200: `vqblk` quantises VL elements in blocks of 32 into 4-bit codes and 16-bit headers; `vdqblk` rounds the
value of each active code under its header; `vsacc` adds each active scaled product to its accumulator, or leaves it where a
scale is 0. Model's choice: what moves the lane under check on is log 65; that code 1000b, and any code of magnitude 0, keeps
its sign as a zero is log 62. -/
def Obligations.BlockFormats : Prop :=
  ∀ (f : VvF) (s : State) (m : Mode),
    let h := s.hart
    let v := h.vec
    let wd := widthOf f.ew
    let ws := widthOf (Legal.srcEw f)
    let fm := fmtOf f.ew f.ty
    let src := fmtOf (Legal.srcEw f) (Legal.srcTy f)
    let act := v.acts f.msk f.mn
    let block j := quantise ((List.range 32).map fun i => src.val (v.elem f.a.toNat (32 * j + i) ws))
    let acc e := scaleAcc fm (h.rndAt m e) (v.elem f.d.toNat e wd)
      (if v.elem f.a.toNat e ws = 2 ^ (ws - 1) then none else some (BitVec.ofNat ws (v.elem f.a.toNat e ws)).toInt)
      (if ws = 32 then -4 else -20) (field (v.elem f.b.toNat e ws) 0 9) (field (v.elem f.b.toNat e ws) 9 9)
    f.d ≠ f.b →
    (s.VecReady [f.d.toNat, f.a.toNat, f.b.toNat] [ws, 4] → v.vl / 32 * 16 ≤ v.vlmax → v.fromZero → v.vl % 32 = 0 →
      v.vstart < v.vl → v.vl ≤ 16384 → v.Clean f.a.toNat ws (fun e => decide (e < v.vl)) →
      ∃ t, exec (.vqblk f) s = .next t ∧ VecStep s t [f.d.toNat, f.b.toNat] []
        ∧ (∀ e, e < 16384 → t.hart.vec.elem f.d.toNat e 4 =
            if e < v.vl then (block (e / 32)).2.getD (e % 32) 0 % 16 else v.elem f.d.toNat e 4)
        ∧ ∀ j, j < 4096 → t.hart.vec.elem f.b.toNat j 16 =
            if 32 * j < v.vl then (block j).1 % 65536 else v.elem f.b.toNat j 16)
    ∧ (s.VecReady [f.d.toNat, f.a.toNat, f.b.toNat] [wd, 4] → (v.vl + 31) / 32 * 16 ≤ v.vlmax → s.modeNow f.rm = some m →
        v.Clean f.a.toNat 4 act → (∀ e, act e = true → poisonHit (v.poison f.b.toNat) (16 * (e / 32)) 16 = false) →
        VecWrites (.vdqblk f) s f.d wd act (fun e =>
          fm.round (h.rndAt m e) false (blockVal (v.elem f.a.toNat e 4) (v.elem f.b.toNat (e / 32) 16))))
    ∧ ((f.ew = 3 → f.ty = 2 → s.hasF64 = true) → (Legal.srcEw f = 3 → Legal.srcTy f = 2 → s.hasF64 = true) →
        s.VecReady [f.d.toNat, f.a.toNat, f.b.toNat] [wd, ws] → s.modeNow f.rm = some m →
        v.Clean f.a.toNat ws act → v.Clean f.b.toNat ws act → v.Clean f.d.toNat wd act →
        VecWrites (.vsacc f) s f.d wd (fun e => act e && (acc e).isSome) (fun e => (acc e).getD 0))

/-! ## Vector length (03, 20) -/

/-- R72, R68, R69, R70, R73, R420: `setvl` of a holder, or with AVL = 0, and of the first sequencer of a core that wants
lanes; `vcfg` of a sequencer with no repartition pending; and R71, R426: both with one pending, which they apply, to the group
that is decided for the sequencer. VLMAX, GCAP and VL take the values of the rules, VTYPE is (EW, TY), VSTART is 0, GR(D) is
VL; the bits below both lengths stay and those above them are zero. Model's choice: the LPART view is log 18; that the lane
under check stands is log 65. -/
def Obligations.VectorLength : Prop :=
  ∀ (f : VvF) (s : State),
    let h := s.hart
    let v := h.vec
    let w := widthOf f.ew
    let avl := (s.rg f.a).toNat
    let length (part n : Nat) := min 65536 (min (1048576 / (part * n)) h.tvl)
    (∀ vm, vm = length h.part (regCount v.nreg) → h.group.isSome → h.pend = false →
      ∃ t, exec (.setvl f) s = .next t ∧ s.sameButSeq t ∧ FallsThrough s t
        ∧ t.hart = { h with
            g := t.hart.g, vec := t.hart.vec, gcap := min vm (s.coreOf h.core).pcap, pc := t.hart.pc, loops := t.hart.loops
            waiting := t.hart.waiting, atPoint := t.hart.atPoint, mayYield := t.hart.mayYield, skipBp := t.hart.skipBp
            held := t.hart.held }
        ∧ t.hart.vec = { v with
            v := t.hart.vec.v, m := t.hart.vec.m, pois := t.hart.vec.pois, vlmax := vm
            vl := min avl (min vm (s.coreOf h.core).pcap / w), vstart := 0, ew := f.ew, ty := f.ty }
        ∧ (∀ r, t.rg r = if r = 0 then 0 else if r = f.d then BitVec.ofNat 64 t.hart.vec.vl else s.rg r)
        ∧ (∀ r, r < 32 → t.hart.vec.bits r = if vm = v.vlmax then v.bits r else v.bits r % 2 ^ min v.vlmax vm)
        ∧ ∀ k, k < 8 → t.hart.vec.mr k =
            if vm = v.vlmax then v.mr k else if k = 0 then v.mr 0 else v.mr k % 2 ^ (min v.vlmax vm / 4))
    ∧ (h.group = none → avl = 0 →
        ∃ t, exec (.setvl f) s = .next t ∧ s.sameButSeq t ∧ FallsThrough s t
          ∧ t.hart.vec = { v with vl := 0, vstart := 0, ew := f.ew, ty := f.ty } ∧ t.hart.gcap = 0 ∧ t.hart.group = none
          ∧ ∀ r, t.rg r = if r = 0 ∨ r = f.d then 0 else s.rg r)
    ∧ (∀ vm, vm = length 1 (regCount v.nreg) → h.group = none → 0 < avl → h.live = true → h.owner = some (h.ctx, h.inst) →
        s.rest = [] → h.sq < 4 → (s.coreOf h.core).want = [] → (s.coreOf h.core).waitQ = [] →
        (s.coreOf h.core).groupOf h.sq = none →
        ∃ t, exec (.setvl f) s = .next t ∧ FallsThrough s t ∧ t.mem = s.mem ∧ t.hart.group = some 0 ∧ t.hart.part = 1
          ∧ t.hart.pend = false ∧ t.hart.vec.vlmax = vm ∧ t.hart.gcap = min vm (s.coreOf h.core).pcap
          ∧ t.hart.vec.vl = min avl (t.hart.gcap / w) ∧ t.hart.vec.vstart = 0 ∧ t.hart.vec.ew = f.ew ∧ t.hart.vec.ty = f.ty
          ∧ (t.coreOf h.core).want = [h.sq] ∧ (t.coreOf h.core).groups = [some h.sq]
          ∧ t.hart.lpart = BitVec.ofNat 64 ((8 + h.sq) * 2 ^ 8 + 2 ^ 7)
          ∧ ∀ r, t.rg r = if r = 0 then 0 else if r = f.d then BitVec.ofNat 64 t.hart.vec.vl else s.rg r)
    ∧ (∀ n, n ∈ [8, 16, 32] → f.imm = BitVec.ofNat 16 n → h.pend = false →
        ∃ t, exec (.vcfg f) s = .next t ∧ s.sameButSeq t ∧ FallsThrough s t
          ∧ (∀ r, r < 32 → t.hart.vec.bits r = 0 ∧ t.hart.vec.poison r = 0) ∧ (∀ k, 0 < k → t.hart.vec.mr k = 0)
          ∧ t.hart.vec.vl = 0 ∧ t.hart.vec.vstart = 0 ∧ t.hart.vec.ew = 0 ∧ t.hart.vec.ty = 0
          ∧ regCount t.hart.vec.nreg = n
          ∧ t.hart.vec.vlmax = (if h.group.isSome then length h.part n else 0)
          ∧ t.hart.gcap = (if h.group.isSome then min h.gcap (length h.part n) else 0)
          ∧ t.hart.group = h.group ∧ ∀ r, t.rg r = s.rg r)
    ∧ ∀ (c : Core) (k : Nat), c = s.coreOf h.core → h.group.isSome → h.pend = true → h.waiting = false → h.live = true →
        h.owner = some (h.ctx, h.inst) → s.rest = [] → h.sq < 4 → c.groups.findIdx? (· == some h.sq) = some k →
        let own (j : Nat) : Nat := if j < c.g then (match c.groups.getD j none with | some q => 8 + q | none => 0) else 0
        let code := if c.g = 1 then 0 else if c.g = 2 then 1 else 2
        let applied (t : State) (vm gcap : Nat) : Prop :=
          { s with cores := t.cores }.sameButSeq t ∧ FallsThrough s t
          ∧ t.hart = { h with
              g := t.hart.g, vec := t.hart.vec, gcap, group := some k, part := c.g, pend := false, lpart := t.hart.lpart
              pc := t.hart.pc, loops := t.hart.loops, waiting := false, atPoint := t.hart.atPoint, mayYield := false
              skipBp := t.hart.skipBp, held := t.hart.held }
          ∧ t.hart.lpart = BitVec.ofNat 64 (own 3 * 2 ^ 20 + own 2 * 2 ^ 16 + own 1 * 2 ^ 12 + own 0 * 2 ^ 8 + 2 ^ 7 + k * 2 ^ 5 + code)
          ∧ t.hart.vec.vlmax = vm
        (∀ vm, vm = length c.g (regCount v.nreg) → ∃ t, exec (.setvl f) s = .next t ∧ applied t vm (min vm c.pcap)
          ∧ t.hart.vec = { v with
              v := t.hart.vec.v, m := t.hart.vec.m, pois := t.hart.vec.pois, vlmax := vm
              vl := min avl (min vm c.pcap / w), vstart := 0, ew := f.ew, ty := f.ty }
          ∧ (∀ r, t.rg r = if r = 0 then 0 else if r = f.d then BitVec.ofNat 64 t.hart.vec.vl else s.rg r)
          ∧ (∀ r, r < 32 → t.hart.vec.bits r = if vm = v.vlmax then v.bits r else v.bits r % 2 ^ min v.vlmax vm)
          ∧ ∀ r, r < 8 → t.hart.vec.mr r =
              if vm = v.vlmax then v.mr r else if r = 0 then v.mr 0 else v.mr r % 2 ^ (min v.vlmax vm / 4))
        ∧ ∀ n, n ∈ [8, 16, 32] → f.imm = BitVec.ofNat 16 n →
            ∃ t, exec (.vcfg f) s = .next t ∧ applied t (length c.g n) (min h.gcap (length c.g n))
              ∧ (∀ r, r < 32 → t.hart.vec.bits r = 0 ∧ t.hart.vec.poison r = 0) ∧ (∀ r, 0 < r → t.hart.vec.mr r = 0)
              ∧ t.hart.vec.vl = 0 ∧ t.hart.vec.vstart = 0 ∧ t.hart.vec.ew = 0 ∧ t.hart.vec.ty = 0
              ∧ regCount t.hart.vec.nreg = n ∧ ∀ r, t.rg r = s.rg r

/-! ## Memory (15) -/

/-- R321, R322, R324: `ld` and the ordered load write the bytes at their address, zero-extended, into GR(D); `st` and the
ordered store put the low bytes of GR(B) there. Of the rest of memory A of the page's leaf is set, and D of a store's, and
nothing else changes, and nothing else of the sequencer but the PC; `.sc` takes one ticket. R503: pieces in host memory go out
on the host's link, as CXL.cache requests in a context of tenant 0 and as PCIe requests of the tenant's function in another.
Model's choice: accesses are performed in the order of the steps, log 11. -/
def Obligations.ScalarLoadsAndStores : Prop :=
  ∀ (sz : BitVec 2) (f : RiF) (g : VmF) (s : State) (ps : List Part), s.calm →
    let n := 2 ^ sz.toNat
    let k := 2 ^ g.ew.toNat
    let at_ : Int := (s.rg f.a).toNat + f.imm.toInt
    let there : Int := (s.rg g.a).toNat + g.off.toInt
    let plain (act : Act) : MemOp := { va := at_, n, align := false, strict := true, act, ord := 0, scope := 1 }
    let ordered (act : Act) : MemOp :=
      { va := there, n := k, align := true, strict := true, act, ord := g.ord.toNat, scope := g.scope.toNat }
    let loaded (i : Instr) (d : BitVec 5) (o : MemOp) : Prop := OpsPass s s.me [o] [(o, ps)] →
      ∃ t, exec i s = .next t
        ∧ ScalarMemStep s t d (BitVec.ofNat 64 (ofBytes ((s.markOps [(o, ps)]).bytesAt ps))) [(o, ps)]
    let stored (i : Instr) (o : MemOp) (bs : List Byte) : Prop := OpsPass s s.me [o] [(o, ps)] →
      ∃ t, exec i s = .next t ∧ ScalarMemStep s t 0 0 [(o, ps)] ∧ t.Holds ps bs
    loaded (.ld sz f) f.d (plain .load)
    ∧ loaded (.ldOrdered g) g.d (ordered .load)
    ∧ (let bs := toBytes (s.rg f.b).toNat n
       stored (.st sz f) (plain (.store bs)) bs)
    ∧ (let bs := toBytes (s.rg g.b).toNat k
       stored (.stOrdered g) (ordered (.store bs)) bs)

/-- R331, 15 Table 15.6: each scalar atomic reads its bytes, puts the new value of the table in their place and writes the old
one, zero-extended, into GR(D), in one step. Model's choice: accesses are performed in the order of the steps, log 11. -/
def Obligations.ScalarAtomics : Prop :=
  ∀ (f : VmF) (s : State) (ps : List Part), s.calm →
    let n := 2 ^ f.ew.toNat
    let b := (s.rg f.b).toNat % 2 ^ (8 * n)
    let c := (s.rg f.c).toNat % 2 ^ (8 * n)
    let x (v : Nat) : Int := (BitVec.ofNat (8 * n) v).toInt
    let does (i : Instr) (fn : Nat) (new : Nat → Nat) : Prop :=
      let o : MemOp :=
        { va := (s.rg f.a).toNat + f.off.toInt, n, align := true, strict := true, act := .amo fn b c, ord := f.ord.toNat
          scope := f.scope.toNat }
      OpsPass s s.me [o] [(o, ps)] →
        let old := ofBytes ((s.markOps [(o, ps)]).bytesAt ps)
        ∃ t, exec i s = .next t ∧ ScalarMemStep s t f.d (BitVec.ofNat 64 old) [(o, ps)] ∧ t.Holds ps (toBytes (new old) n)
    does (.amoSwap f) 0 (fun _ => b)
    ∧ does (.amoCas f) 1 (fun old => if old = c then b else old)
    ∧ does (.amoAdd f) 2 (fun old => old + b)
    ∧ does (.amoAnd f) 3 (fun old => old &&& b)
    ∧ does (.amoOr f) 4 (fun old => old ||| b)
    ∧ does (.amoXor f) 5 (fun old => old ^^^ b)
    ∧ does (.amoMin f) 6 (fun old => if x old ≤ x b then old else b)
    ∧ does (.amoMax f) 7 (fun old => if x b ≤ x old then old else b)
    ∧ does (.amoMinn f) 8 (fun old => min old b)
    ∧ does (.amoMaxn f) 9 (fun old => max old b)

/-- R323, R324, R327, R330, 15 Table 15.3: a vector load whose active elements all pass writes each from its own address: unit
steps, GR(B) bytes apart, at VR(B), or field i of its segment into register D + i. Other elements, every other register and
every byte of memory stand, but that A of the pages is set. R325: where an active element other than the lowest fails a check,
`vldff` loads the elements before it, sets VL to it and goes on. Model's choice: what moves the lane under check on is log 65;
accesses are performed in the order of the steps, log 11. -/
def Obligations.VectorLoads : Prop :=
  (∀ (f : VmF) (s : State), s.calm →
     let v := s.hart.vec
     let w := widthOf f.ew
     let act := v.acts f.msk f.mn
     let es := v.active f.msk f.mn
     let base : Int := (s.rg f.a).toNat + f.off.toInt
     let op (va : Int) (n : Nat) (align : Bool) : MemOp :=
       { va, n, align, strict := false, act := .load, ord := f.ord.toNat, scope := f.scope.toNat }
     let unit e := base + (e * (w / 8) : Nat)
     let strided (e : Nat) : Int := base + (e : Int) * (s.rg f.b).toInt
     let indexed e := base + (v.elem f.b.toNat e w : Nat)
     let loaded (i : Instr) (align : Bool) (addr : Nat → Int) : Prop :=
       ∀ l, OpsPass s s.me (es.map fun e => op (addr e) (w / 8) align) l →
         ∃ t, exec i s = .next t ∧ VecMemStep s t [f.d.toNat] l
           ∧ ∀ e, w * (e + 1) ≤ 65536 → t.hart.vec.elem f.d.toNat e w =
               match (es.zip l).find? (·.1 = e) with
               | some x => ofBytes ((s.markOps l).bytesAt x.2.2) % 2 ^ w
               | none => v.elem f.d.toNat e w
     (s.VecReady [f.d.toNat] [w] →
       loaded (.vld f) false unit ∧ loaded (.vlds f) false strided
       ∧ loaded (.vldscUnit f) true unit ∧ loaded (.vldscStrided f) true strided
       ∧ loaded (.vldff f) false unit)
     ∧ (s.VecReady [f.d.toNat, f.b.toNat] [w] → v.Clean f.b.toNat w act →
         loaded (.vldx f) false indexed ∧ loaded (.vldscIndexed f) true indexed)
     ∧ ∀ fn : BitVec 6,
         let k := fn.toNat % 8 + 1
         let wm := widthOf (BitVec.ofNat 3 (fn.toNat / 8))
         let regs := (List.range k).map (f.d.toNat + ·)
         s.VecReady regs [w] →
         ∀ l, OpsPass s s.me (es.flatMap fun e => (List.range k).map fun i =>
             op (base + ((e * k + i) * (wm / 8) : Nat)) (wm / 8) false) l →
           ∃ t, exec (.vldseg fn f) s = .next t ∧ VecMemStep s t regs l
             ∧ (∀ (j e i : Nat), es[j]? = some e → w * (e + 1) ≤ 65536 → i < k → ∀ x, l[j * k + i]? = some x →
                 t.hart.vec.elem (f.d.toNat + i) e w = ofBytes ((s.markOps l).bytesAt x.2) % 2 ^ w)
             ∧ ∀ e i, act e = false → w * (e + 1) ≤ 65536 → i < k →
                 t.hart.vec.elem (f.d.toNat + i) e w = v.elem (f.d.toNat + i) e w)
  ∧ ∀ (f : VmF) (s : State), s.calm →
      let v := s.hart.vec
      let w := widthOf f.ew
      let es := v.active f.msk f.mn
      let op (e : Nat) : MemOp :=
        { va := (s.rg f.a).toNat + f.off.toInt + (e * (w / 8) : Nat), n := w / 8, align := false, strict := false, act := .load
          ord := f.ord.toNat, scope := f.scope.toNat }
      s.VecReady [f.d.toNat] [w] →
      ∀ (i x c : Nat) (a : Word) (l : List (MemOp × List Part)), s.firstFail s.me (es.map op) = some (i, c, a) → 0 < i →
        es[i]? = some x → OpsPass s s.me ((es.take i).map op) l →
        ∃ t, exec (.vldff f) s = .next t ∧ s.nextLane.sameButMem t ∧ FallsThrough s t ∧ SameBytesBut s t l []
          ∧ t.ticket = s.ticket + (l.filter fun x => x.1.ord == 4).length ∧ t.out = s.out ++ s.asks l
          ∧ t.hart.vec.vl = x ∧ t.hart.vec.vstart = 0
          ∧ ∀ e, w * (e + 1) ≤ 65536 → t.hart.vec.elem f.d.toNat e w =
              match ((es.take i).zip l).find? (·.1 = e) with
              | some y => ofBytes ((s.markOps l).bytesAt y.2.2) % 2 ^ w
              | none => v.elem f.d.toNat e w

/-- R323, R324, R326, R327, R329, R330: a vector store whose active elements, or bytes, all pass puts each at its own address,
in ascending order, and leaves every other byte, but that A and D of the pages are set; every vector register stands. Model's
choice: what moves the lane under check on is log 65; accesses are performed in the order of the steps, log 11. -/
def Obligations.VectorStores : Prop :=
  ∀ (f : VmF) (s : State), s.calm →
    let v := s.hart.vec
    let w := widthOf f.ew
    let act := v.acts f.msk f.mn
    let es := v.active f.msk f.mn
    let base : Int := (s.rg f.a).toNat + f.off.toInt
    let op (va : Int) (n : Nat) (align : Bool) (x : Nat) : MemOp :=
      { va, n, align, strict := false, act := .store (toBytes x n), ord := f.ord.toNat, scope := f.scope.toNat }
    let stored (i : Instr) (ops : List MemOp) : Prop :=
      ∀ l, OpsPass s s.me ops l → ∃ t, exec i s = .next t ∧ VecMemStep s t [] l ∧ t.HoldsAll l
    let each (align : Bool) (addr : Nat → Int) := es.map fun e => op (addr e) (w / 8) align (v.elem f.d.toNat e w)
    let unit e := base + (e * (w / 8) : Nat)
    let strided (e : Nat) : Int := base + (e : Int) * (s.rg f.b).toInt
    let indexed e := base + (v.elem f.b.toNat e w : Nat)
    (s.VecReady [f.d.toNat] [w] → v.Clean f.d.toNat w act →
      stored (.vst f) (each false unit) ∧ stored (.vsts f) (each false strided)
      ∧ stored (.vstscUnit f) (each true unit) ∧ stored (.vstscStrided f) (each true strided))
    ∧ (s.VecReady [f.d.toNat, f.b.toNat] [w] → v.Clean f.d.toNat w act → v.Clean f.b.toNat w act →
        stored (.vstx f) (each false indexed) ∧ stored (.vstscIndexed f) (each true indexed))
    ∧ (∀ fn : BitVec 6,
        let k := fn.toNat % 8 + 1
        let wm := widthOf (BitVec.ofNat 3 (fn.toNat / 8))
        let regs := (List.range k).map (f.d.toNat + ·)
        s.VecReady regs [w] → (∀ r ∈ regs, v.Clean r w act) →
        stored (.vstseg fn f) (es.flatMap fun e => (List.range k).map fun i =>
          op (base + ((e * k + i) * (wm / 8) : Nat)) (wm / 8) false (v.elem (f.d.toNat + i) e w)))
    ∧ (let n := (s.rg f.b).toNat
       let bs := (List.range n).filter fun i => bitOf (v.governing f.msk f.mn) i
       s.VecReady [f.d.toNat] [] → v.vstart = 0 → n ≤ v.vlmax / 8 → v.Clean f.d.toNat 8 (fun i => decide (i ∈ bs)) →
       stored (.vstbm f) (bs.map fun (i : Nat) => op (base + (i : Int)) 1 false (v.elem f.d.toNat i 8)))

/-- R332, R333: each active element of a vector atomic is one read-modify-write of its own address, in ascending order: where
no other element shares its bytes, VR(D) takes the old value and memory the new one. `vsadd` sets A and D of its pages and
only issues its additions; what one that is performed does is said of WaitsAndProbe. Model's choice: additions are the one
thing performed later, log 11; what moves the lane under check on is log 65. -/
def Obligations.VectorAtomics : Prop :=
  ∀ (f : VmF) (s : State), s.calm →
    let v := s.hart.vec
    let w := widthOf f.ew
    let n := w / 8
    let act := v.acts f.msk f.mn
    let es := v.active f.msk f.mn
    let op (a : Act) (e : Nat) : MemOp :=
      { va := (s.rg f.a).toNat + f.off.toInt + (v.elem f.b.toNat e w : Nat), n, align := true, strict := true, act := a
        ord := f.ord.toNat, scope := f.scope.toNat }
    let b e := v.elem f.c.toNat e w
    let c e := v.elem f.d.toNat e w
    let x (y : Nat) : Int := (BitVec.ofNat (8 * n) y).toInt
    let alone (l : List (MemOp × List Part)) (k : Nat) : Prop :=
      ∀ j y z, j ≠ k → l[j]? = some y → l[k]? = some z → ∀ p ∈ y.2, ∀ q ∈ z.2, p.apart q
    let does (i : Instr) (fn : Nat) (new : Nat → Nat → Nat) : Prop :=
      ∀ l, OpsPass s s.me (es.map fun e => op (.amo fn (b e) (if fn = 1 then c e else 0)) e) l →
        ∃ t, exec i s = .next t ∧ VecMemStep s t [f.d.toNat] l
          ∧ (∀ e, act e = false → w * (e + 1) ≤ 65536 → t.hart.vec.elem f.d.toNat e w = v.elem f.d.toNat e w)
          ∧ ∀ (k e : Nat) (y : MemOp × List Part), es[k]? = some e → l[k]? = some y → alone l k → w * (e + 1) ≤ 65536 →
              let old := ofBytes ((s.markOps l).bytesAt y.2)
              t.hart.vec.elem f.d.toNat e w = old % 2 ^ w ∧ t.Holds y.2 (toBytes (new e old) n)
    (s.VecReady [f.d.toNat, f.b.toNat, f.c.toNat] [w] → f.d ≠ f.b → f.d ≠ f.c → v.Clean f.b.toNat w act →
      v.Clean f.c.toNat w act → v.Clean f.d.toNat w act →
      does (.vamoSwap f) 0 (fun e _ => b e)
      ∧ does (.vamoCas f) 1 (fun e old => if old = c e then b e else old)
      ∧ does (.vamoAdd f) 2 (fun e old => old + b e)
      ∧ does (.vamoAnd f) 3 (fun e old => old &&& b e)
      ∧ does (.vamoOr f) 4 (fun e old => old ||| b e)
      ∧ does (.vamoXor f) 5 (fun e old => old ^^^ b e)
      ∧ does (.vamoMin f) 6 (fun e old => if x old ≤ x (b e) then old else b e)
      ∧ does (.vamoMax f) 7 (fun e old => if x (b e) ≤ x old then old else b e)
      ∧ does (.vamoMinn f) 8 (fun e old => min old (b e))
      ∧ does (.vamoMaxn f) 9 (fun e old => max old (b e)))
    ∧ (s.VecReady [f.d.toNat, f.b.toNat] [w] → v.Clean f.b.toNat w act → v.Clean f.d.toNat w act →
        ∀ l, OpsPass s s.me (es.map fun e => op (.add (c e) 0) e) l → (∀ y ∈ l, y.2.length = 1) →
          ∃ t, exec (.vsadd f) s = .next t ∧ VecMemStep s { t with adds := s.adds } [] l ∧ t.mem = (s.markOps l).mem
            ∧ t.adds = (es.zip l).flatMap fun y => y.2.2.map fun p =>
                { core := s.hart.core, sq := s.hart.sq, ctx := s.hart.ctx, pc := s.hart.pc, ins := 0, pa := p.pa, bytes := n
                  val := BitVec.ofNat 64 (c y.1) })

/-! ## Fences, waits and `probe` (15) -/

/-- R333, R334, R335, R336, R306: `vwait` with the poll bit writes the number of its scatter-addition instructions that are
not yet performed, at most 64, where it selects their class, and 0 where it does not; without it, it writes 0, and performs
them first where it selects their class. `fence` performs them and takes a ticket for `.sc` alone. `probe` writes the fields
of 15 Table 15.8 for a translated address and 0 for any other, with no access. A scatter-addition that is performed adds its
value to its bytes, once; on a poisoned line it writes nothing. Model's choice: additions are the one thing performed later,
log 11; a walk through poison is log 39. -/
def Obligations.WaitsAndProbe : Prop :=
  ∀ (f : RrF) (g : VmF) (s : State),
    let a := s.rg f.a
    let va : Int := (s.rg g.a).toNat + g.off.toInt
    let own := s.adds.filter fun x => x.core == s.hart.core && x.sq == s.hart.sq
    (a.getLsbD 3 = true → SeqWrites (.vwait f) s f.d
      (if a.getLsbD 2 then BitVec.ofNat 64 (min (own.map (·.ins)).eraseDups.length 64) else 0))
    ∧ (a.getLsbD 3 = false → a.getLsbD 2 = false → SeqWrites (.vwait f) s f.d 0)
    ∧ (∀ u, u = own.foldl State.performAdd s → (u.ctxOf s.hart.ctx).ended = (s.ctxOf s.hart.ctx).ended →
        (a.getLsbD 3 = false → a.getLsbD 2 = true →
          ∃ t, exec (.vwait f) s = .next t ∧ SeqFrame u t f.d 0 ∧ FallsThrough u t)
        ∧ ∃ t, exec (.fence g) s = .next t ∧ SeqFrame u { t with ticket := u.ticket } 0 0 ∧ FallsThrough u t
            ∧ t.ticket = u.ticket + if g.ord = 4 then 1 else 0)
    ∧ (va < 0 ∨ 2 ^ 57 ≤ va ∨ s.walk s.hart.ctx va.toNat = none ∧ s.walkPoisoned s.hart.ctx va.toNat = false →
        Writes (.probe g) s g.d 0)
    ∧ (∀ l, 0 ≤ va → va < 2 ^ 57 → s.walk s.hart.ctx va.toNat = some l → s.walkPoisoned s.hart.ctx va.toNat = false →
        leafOrdk l.val < 4 → l.lvl < 4 →
        ∃ v, Writes (.probe g) s g.d v ∧ v.getLsbD 63 = true ∧ wbits v 61 2 = leafOrdk l.val
          ∧ v.getLsbD 60 = leafStaged l.val ∧ v.getLsbD 59 = leafFloat l.val ∧ v.getLsbD 58 = leafPubp l.val
          ∧ v.getLsbD 57 = leafMig l.val ∧ wbits v 55 2 = l.lvl
          ∧ v.getLsbD 2 = !rightDenied l.val s.hart.level .fetch ∧ v.getLsbD 1 = !rightDenied l.val s.hart.level .store
          ∧ v.getLsbD 0 = !rightDenied l.val s.hart.level .load)
    ∧ ∀ (n : Nat) (x : Add), s.adds[n]? = some x →
        (s.linePoisoned (x.pa / 64) = false → Memory.wf s.mem = true →
          ∃ t, exec (.scatterAddPerform n) s = .next t ∧ t = { s with mem := t.mem, adds := s.adds.erase x }
            ∧ ofBytes (t.readPhys x.pa x.bytes) = (ofBytes (s.readPhys x.pa x.bytes) + x.val.toNat) % 2 ^ (8 * x.bytes)
            ∧ ∀ b, b < x.pa ∨ x.pa + x.bytes ≤ b → Memory.read t.mem b = Memory.read s.mem b)
        ∧ (s.linePoisoned (x.pa / 64) = true → (s.ctxOf x.ctx).ended = true →
          exec (.scatterAddPerform n) s = .next { s with adds := s.adds.erase x })

/-! ## Vector save blocks (22) -/

/-- R454, R455: `vsave` at supervisor level writes the cells of its rectangle that lie in HWM's or outside the block's, a
poison byte for each, m1 to m7 below VLMAX/4 and the header into the block, at the offsets of 22 Table 22.8, gives the number
of bytes, and empties HWM; `vrest` of a header that is accepted, of the length that the sequencer has now, loads the cells of
its rectangle with the poison bits of their map, and the masks, from a block with no poisoned line, puts zero everywhere else,
and takes the vector state as its own. Model's choice: that the lane under check stands is log 65; accesses are performed in
the order of the steps, log 11. -/
def Obligations.VectorSaveBlocks : Prop :=
  ∀ (f : SyF) (s : State), s.calm → s.hart.level = .supervisor → (s.rg f.a).toNat % 64 = 0 →
    let va := (s.rg f.a).toNat
    let v := s.hart.vec
    let load (at_ n : Nat) (strict : Bool) : MemOp :=
      { va := (at_ : Int), n, align := false, strict, act := .load, ord := 0, scope := 1 }
    (∀ old l, s.Reads s.me [load va 64 true] [old] →
      let full := bitOf f.imm.toNat 0
      let lanes := v.vlmax / 512
      let none_ : Rect := ⟨0, 0, 0⟩
      let live : Rect :=
        if full then (if v.vlmax = 0 then none_ else ⟨0, regCount v.nreg - 1, lanes⟩)
        else ⟨wbits v.hwm 8 5, wbits v.hwm 16 5, min (wbits v.hwm 0 8) 128⟩
      let held : Rect :=
        if full ∨ bitOf v.hwm.toNat 63 ∨ headerRefused old then none_
        else ⟨wbits (wordAt old 24) 8 5, wbits (wordAt old 24) 16 5, min (wbits (wordAt old 24) 0 8) lanes⟩
      let all := live.cover held
      let cells := (List.range 32).flatMap fun n =>
        ((List.range all.ext).filter fun u => all.has n u && (live.has n u || !held.has n u)).map fun u => (n, u)
      let writes : List (Nat × List Byte) :=
        (cells.flatMap fun c =>
          [(0x4840 + 8192 * c.1 + 64 * c.2, toBytes (field (v.bits c.1) (512 * c.2) 512) 64),
           (0x40 + 128 * c.1 + c.2, toBytes (field (v.poison c.1) (8 * c.2) 8) 1)])
        ++ (if v.vlmax = 0 then [] else
              (List.range 7).map fun k => (0x1040 + 2048 * k, toBytes (v.mr (k + 1)) (v.vlmax / 32)))
        ++ [(0, wordBytes
              [BitVec.ofNat 64 (2 ^ 56 + v.vlmax),
               BitVec.ofNat 64 (v.ew.toNat * 2 ^ 37 + v.ty.toNat * 2 ^ 34 + v.vstart * 2 ^ 17 + v.vl),
               BitVec.ofNat 64 v.nreg.toNat,
               BitVec.ofNat 64 (if all.ext = 0 then 0 else all.hi * 2 ^ 16 + all.lo * 2 ^ 8 + all.ext), 0, 0, 0, 0])]
      OpsPass s s.me (writes.map fun x => { load (va + x.1) x.2.length true with act := .store x.2 }) l →
      ∃ t, exec (.vsave f) s = .next t ∧ s.sameButMem t ∧ FallsThrough s t ∧ SameBytesBut s t l (placesOf l) ∧ t.HoldsAll l
        ∧ t.ticket = s.ticket ∧ t.out = s.out ++ s.asks l
        ∧ { s.hart with vec := { v with hwm := 0 } }.sameButScalar t.hart
        ∧ ∀ q, t.rg q =
            if q = 0 then 0
            else if q = f.d then BitVec.ofNat 64 (65 * cells.length + 7 * (v.vlmax / 32) + 64)
            else s.rg q)
    ∧ ∀ hdr cells maps masks,
        s.Reads s.me [load va 64 true] [hdr] → headerRefused hdr = false →
        let vm := hdrVlmax hdr
        s.vlmaxFor (hdrNreg hdr) = vm → (vm ≠ 0 → s.hart.group.isSome) →
        let bits := min ((hdrRect hdr).ext * 512) vm
        let regs := if bits = 0 then [] else (List.range ((hdrRect hdr).hi + 1 - (hdrRect hdr).lo)).map (· + (hdrRect hdr).lo)
        let k := bits / 512
        let rows := (k + 63) / 64
        s.Reads s.me (regs.flatMap fun n => (List.range k).map fun u => load (va + 0x4840 + 8192 * n + 64 * u) 64 false) cells →
        s.Reads s.me (regs.flatMap fun n => (List.range rows).map fun j =>
          load (va + 0x40 + 128 * n + 64 * j) (min 64 (k - 64 * j)) false) maps →
        s.Reads s.me ((List.range 7).map fun k => load (va + 0x1040 + 2048 * k) (vm / 32) true) masks →
        ∃ t, exec (.vrest f) s = .next t ∧ s.sameButSeq t ∧ FallsThrough s t
          ∧ (∀ q, t.rg q = if q = 0 ∨ q = f.d then 0 else s.rg q)
          ∧ { s.hart with vec := t.hart.vec, gcap := t.hart.gcap, owner := some (s.hart.ctx, s.hart.inst) }.sameButScalar t.hart
          ∧ t.hart.gcap = (if s.hart.group.isSome then min s.hart.gcap vm else 0)
          ∧ t.hart.vec.vlmax = vm ∧ t.hart.vec.nreg = hdrNreg hdr ∧ t.hart.vec.ew = hdrEw hdr ∧ t.hart.vec.ty = hdrTy hdr
          ∧ t.hart.vec.vl = hdrVl hdr ∧ t.hart.vec.vstart = hdrVstart hdr ∧ t.hart.vec.hwm = 0
          ∧ (∀ n, n < 32 → n ∉ regs → t.hart.vec.bits n = 0 ∧ t.hart.vec.poison n = 0)
          ∧ (∀ (j n : Nat), regs[j]? = some n → n < 32 →
              t.hart.vec.bits n = ofBytes ((cells.drop (j * k)).take k).flatten % 2 ^ 65536
              ∧ t.hart.vec.poison n = ofBytes ((maps.drop (j * rows)).take rows).flatten % 2 ^ 1024)
          ∧ ∀ (k : Nat) (b : List Byte), masks[k]? = some b → k < 7 → t.hart.vec.mr (k + 1) = ofBytes b % 2 ^ 16384

/-! ## Barriers and watermarks (20) -/

/-- R410, R411, on a line of the device: `binit` starts a barrier and gives the old COUNT; `arrive` adds 1, or the 1 bits of a
mask below VL, to COUNT and gives the new one, and sets OVER where that exceeds EXPECT; `bwait` gives word 2 of a complete
barrier and parks on an incomplete one; the parked `bwait` is performed once its barrier is complete. R412, R413: `wmpub`
raises COUNT to GR(B) where that is more and gives the old COUNT; `wmbind` binds the line, and gives COUNT where it has
reached GR(B), or parks; the parked `wmbind` is performed once COUNT has reached its target; a read of WMARK loads COUNT of
the bound line. The accesses carry a release or an acquire side at the line's SCOPE. Model's choice: waits of other devices
are log 25, re-judging is log 22; accesses are performed in the order of the steps, log 11. -/
def Obligations.SharedCounters : Prop :=
  (∀ (f : RrF) (s : State) (p : Part) (w0 w1 w2 : List Byte), s.calm →
     let a := s.rg f.a
     let b := (s.rg f.b).toNat
     let n0 := ofBytes w0
     let n1 := ofBytes w1
     let n2 := ofBytes w2
     let at_ (k : Nat) (act : Act) (ord scope : Nat) : MemOp :=
       { va := ((p.va + 8 * k : Nat) : Int), n := 8, align := false, strict := true, act, ord, scope }
     let word (k : Nat) : MemOp := at_ k .load 0 1
     let line (store : Bool) : Prop :=
       a.toNat % 64 = 0 ∧ p.mig = false ∧ p.isRemote = false
         ∧ s.checkAccess s.hart.ctx s.hart.level (if store then .store else .load) false true a.toNat 24 = .ok [p]
     let words : Prop := s.Reads s.me [word 0, word 1, word 2] [w0, w1, w2]
     let scope := n0 / 2 ^ 61 % 8
     let expect := n0 % 2 ^ 48
     let reserved := barrierReserved n0 n2
     (∀ ps, line true → field b 48 13 = 0 → s.barrierWaited (p.pa / 64) = false → s.Reads s.me [word 0, word 1] [w0, w1] →
       let o : MemOp :=
         { va := (p.va : Int), n := 24, align := false, strict := true
           act := .store (toBytes b 8 ++ List.replicate 16 0), ord := 0, scope := 1 }
       OpsPass s s.me [o] [(o, ps)] →
       ∃ t, exec (.binit f) s = .next t ∧ ScalarMemStep s t f.d (BitVec.ofNat 64 n1) [(o, ps)] ∧ t.HoldsAll [(o, ps)])
     ∧ (∀ ps, line true → words → reserved = false →
         let c := if f.b = 0 then 1 else popBits (s.hart.vec.mr f.b.toNat) s.hart.vec.vl
         let o := at_ 1 (.amo 2 (c % 2 ^ 64) 0) 2 scope
         OpsPass s s.me [o] [(o, ps)] → s.markOps [(o, ps)] = s → s.bytesAt ps = w1 →
         ((n1 + c) % 2 ^ 64 ≤ expect →
           ∃ t, exec (.arrive f) s = .next t ∧ ScalarMemStep s t f.d (BitVec.ofNat 64 (n1 + c)) [(o, ps)]
             ∧ t.Holds ps (toBytes (n1 + c) 8))
         ∧ ∀ qs, expect < (n1 + c) % 2 ^ 64 →
             let u := s.scatter ps (toBytes ((n1 + c) % 2 ^ 64) 8)
             let o' := at_ 2 (.amo 1 (n2 ||| 2 ^ 32) n2) 2 scope
             n2.testBit 32 = false → OpsPass u s.me [o'] [(o', qs)] → u.markOps [(o', qs)] = u → u.bytesAt qs = w2 →
             ∃ t, exec (.arrive f) s = .next t
               ∧ ScalarMemStep s t f.d (BitVec.ofNat 64 (n1 + c)) [(o, ps), (o', qs)] ∧ t.Holds qs (toBytes (n2 ||| 2 ^ 32) 8)
               ∧ ((∀ x ∈ ps, ∀ y ∈ qs, x.apart y) → t.Holds ps (toBytes (n1 + c) 8)))
     ∧ (line false → words → reserved = false →
         (expect ≤ n1 → s.Reads s.me [at_ 2 .load 1 scope] [w2] → SeqWrites (.bwait f) s f.d (BitVec.ofNat 64 n2))
         ∧ (n1 < expect → ∀ x, encode (.bwait f) = some x →
             exec (.bwait f) s = .next { s with
               hart := { s.hart with waiting := true, held := none }, rix := 0
               parks := s.parks ++ [{ key := .line (p.pa / 64), cond := .barrier, agent := .seq s.hart.core s.hart.sq, va := p.va
                                      page := s.pageSize s.hart.ctx p.va, lim := s.hart.parklim &&& 0xFFFFFFFFFFFF#64, pkt := toBytes x.toNat 8 }] }))
     ∧ ∀ (n k : Nat) (q : Park), s.parks[n]? = some q → q.key = .line k → q.cond = .barrier →
         q.agent = .seq s.hart.core s.hart.sq → s.lineWord k 0 % 2 ^ 48 ≤ s.lineWord k 1 → s.linePoisoned k = false →
         ∃ t, exec (.barrierWaitWake n) s = .next t ∧ t.parks = s.parks.eraseIdx n ∧ t.mem = s.mem
           ∧ FallsThrough s t
           ∧ ∀ r, t.rg r = if r = 0 then 0 else if r = (rrOf q.word).d then BitVec.ofNat 64 (s.lineWord k 2) else s.rg r)
  ∧ ∀ (f : RrF) (s : State) (p : Part) (w0 w1 : List Byte), s.calm →
      let a := s.rg f.a
      let b := (s.rg f.b).toNat
      let n0 := ofBytes w0
      let scope := ofBytes w1
      let at_ (va : Nat) (act : Act) (ord scope : Nat) : MemOp :=
        { va := (va : Int), n := 8, align := false, strict := true, act, ord, scope }
      let line (store : Bool) : Prop :=
        a.toNat % 64 = 0 ∧ p.mig = false ∧ p.isRemote = false
          ∧ s.checkAccess s.hart.ctx s.hart.level (if store then .store else .load) false true a.toNat 16 = .ok [p]
          ∧ s.Reads s.me [at_ p.va .load 0 1, at_ (p.va + 8) .load 0 1] [w0, w1] ∧ scope < 8
      (∀ ps, line true →
        let o := at_ p.va (.amo 9 b 0) 2 scope
        OpsPass s s.me [o] [(o, ps)] → s.markOps [(o, ps)] = s → s.bytesAt ps = w0 →
        ∃ t, exec (.wmpub f) s = .next t ∧ ScalarMemStep s t f.d (BitVec.ofNat 64 n0) [(o, ps)]
          ∧ t.Holds ps (toBytes (max n0 b) 8))
      ∧ (line false →
          (b ≤ n0 → s.Reads s.me [at_ p.va .load 1 scope] [w0] →
            ∃ t, exec (.wmbind f) s = .next t ∧ s.sameButSeq t ∧ FallsThrough s t ∧ t.hart.wmark = some p.va
              ∧ { s.hart with wmark := some p.va }.sameButScalar t.hart
              ∧ ∀ r, t.rg r = if r = 0 then 0 else if r = f.d then BitVec.ofNat 64 n0 else s.rg r)
          ∧ (n0 < b → ∀ x, encode (.wmbind f) = some x →
              exec (.wmbind f) s = .next { s with
                hart := { s.hart with waiting := true, wmark := some p.va, held := none }, rix := 0
                parks := s.parks ++ [{ key := .line (p.pa / 64), cond := .watermark b, agent := .seq s.hart.core s.hart.sq
                                       va := p.va, page := s.pageSize s.hart.ctx p.va, lim := s.hart.parklim &&& 0xFFFFFFFFFFFF#64, pkt := toBytes x.toNat 8 }] }))
      ∧ (∀ (n k target : Nat) (q : Park), s.parks[n]? = some q → q.key = .line k → q.cond = .watermark target →
          q.agent = .seq s.hart.core s.hart.sq → target ≤ s.lineWord k 0 → s.linePoisoned k = false →
          ∃ t, exec (.watermarkWaitWake n) s = .next t ∧ t.parks = s.parks.eraseIdx n ∧ t.mem = s.mem
            ∧ FallsThrough s t
            ∧ ∀ r, t.rg r = if r = 0 then 0 else if r = (rrOf q.word).d then BitVec.ofNat 64 (s.lineWord k 0) else s.rg r)
      ∧ ∀ m, s.hart.wmark = some m →
          s.Reads s.me [at_ (m + 8) .load 0 1] [w1] → s.Reads s.me [at_ m .load 1 (scope % 8)] [w0] →
          (∃ t, exec .wmarkRead s = .next t ∧ s.sameButSeq t ∧ t.hart = { s.hart with held := none })
          ∧ ∀ g : SyF, g.sreg = 0x41 → SeqWrites (.csrr g) s g.d (BitVec.ofNat 64 (ofBytes w0))

/-! ## Staged objects (16) -/

/-- R337, R344, R346, R357: a staged access of a sequencer whose checks pass on a bound line of the device, in the state that
its transition asks for: `sld` gives the bytes, `sst` puts them, `strn` gives the old state; the line takes the new state,
unless TO is 15; A, and D of one that writes, are set in the page's leaf; nothing else in memory changes. Model's choice: the
right that they need is log 24; accesses are performed in the order of the steps, log 11. -/
def Obligations.StagedAccesses : Prop :=
  ∀ (sz : BitVec 2) (f : SgF) (s : State) (p : Part) (img : BitVec 512), s.calm →
    let h := s.hart
    let va : Int := (s.rg f.a).toNat + f.off.toInt
    let line := p.pa / 64
    let e := field img.toNat (128 + 16 * f.trn.toNat) 16
    let st := (s.metaOf line).state
    let n := 2 ^ sz.toNat
    let passes (k kind : Nat) : Prop :=
      va % k = 0 ∧ s.checkPart [] h.ctx h.level .load va k = .ok p ∧ p.isRemote = false ∧ p.mig = false
        ∧ s.foreignLine h.ctx line = false ∧ s.tableAt h.ctx line = some img
        ∧ e.testBit 15 = true ∧ (field e 12 2 = 2 ∨ kind ≠ 2 ∧ field e 12 2 = kind)
        ∧ (field e 4 4 = 15 ∨ field e 4 4 = st.toNat)
        ∧ (kind = 1 ∨ field e 0 4 ≠ 15 → ∃ q, s.checkPart [] h.ctx h.level .store va k = .ok q)
    let moves := decide (field e 0 4 ≠ 15)
    let step (t : State) (writes : Bool) (places : List (Nat × Nat)) : Prop :=
      s.sameButMem t ∧ FallsThrough s t ∧ h.sameButScalar t.hart ∧ t.ticket = s.ticket ∧ t.out = s.out
        ∧ (t.metaOf line).state = (if field e 0 4 = 15 then st else BitVec.ofNat 4 (field e 0 4))
        ∧ (∀ k, k ≠ line → t.metaOf k = s.metaOf k)
        ∧ ∀ a, (∀ x ∈ places, a < x.1 ∨ x.1 + x.2 ≤ a) →
            Memory.read t.mem a = Memory.read (s.markParts writes [p]).mem a
    let gives (t : State) (v : Nat) : Prop := ∀ r, t.rg r = if r = 0 then 0 else if r = f.d then BitVec.ofNat 64 v else s.rg r
    (passes n 0 → s.linePoisoned line = false →
      ∃ t, exec (.sld sz f) s = .next t ∧ step t moves [] ∧ gives t (ofBytes (s.readPhys p.pa n)))
    ∧ (passes n 1 → (s.writePhys p.pa (toBytes (s.rg f.b).toNat n)).walk h.ctx va.toNat = s.walk h.ctx va.toNat →
        ∃ t, exec (.sst sz f) s = .next t ∧ step t true [(p.pa, n)] ∧ (∀ r, t.rg r = s.rg r)
        ∧ ((∀ lf, s.walk h.ctx va.toNat = some lf → p.pa + n ≤ lf.entry ∨ lf.entry + 8 ≤ p.pa) →
            t.readPhys p.pa n = toBytes (s.rg f.b).toNat n))
    ∧ (passes 1 2 → ∃ t, exec (.strn f) s = .next t ∧ step t moves [] ∧ gives t st.toNat)

/-- R354, R355, R356, R358, R338: `stbl` puts an accepted image into the table slot and gives its word 0; `sbind` of pages
that allow it adds a binding with a number not in use, every line of it in state 0, with A and D of its pages set; `sunbind`
removes the binding of a range with no access parked on it, its lines in state 0, and gives its slot; `sqry` sets A of its
page and gives the fields of 16 Table 16.7. Model's choice: the number of a new binding is a free value, log 36; NPARK of a
control line of a chute is counted as log 23 says; A and D of the pages of these three, and sqry of a line in a fabric window,
are log 74. -/
def Obligations.StagedObjects : Prop :=
  ∀ (f : RiF) (g : SgF) (s : State), s.calm →
    let h := s.hart
    let c := s.ctxOf h.ctx
    let a := (s.rg f.a).toNat
    let n := (s.rg f.b).toNat
    let gives (t : State) (d : BitVec 5) (v : Nat) : Prop :=
      ∀ r, t.rg r = if r = 0 then 0 else if r = d then BitVec.ofNat 64 v else s.rg r
    (∀ bs, a % 64 = 0 → n < 16 → (∀ b ∈ c.binds, b.slot ≠ n) → imageRefused (BitVec.ofNat 512 (ofBytes bs)) = false →
      s.Reads s.me [{ va := (a : Int), n := 64, align := false, strict := true, act := .load, ord := 0, scope := 1 }] [bs] →
      ∃ t, exec (.stbl f) s = .next t ∧ FallsThrough s t ∧ t.mem = s.mem ∧ t.lineMeta = s.lineMeta
        ∧ Table.get 0 n (t.ctxOf h.ctx).slots = BitVec.ofNat 512 (ofBytes bs) ∧ (t.ctxOf h.ctx).binds = c.binds
        ∧ gives t f.d (ofBytes bs % 2 ^ 64))
    ∧ (∀ ps, a % 64 = 0 → n % 64 = 0 → 64 ≤ n → n ≤ 2 ^ 40 → s.rangePages h.ctx (n / 16384 + 2) a n = .ok ps →
        (∀ p ∈ ps, bindDenied h.level p.2.1 = false ∧ leafMig p.2.1.val = false) →
        (∃ x ∈ c.slots, x.1 = f.imm.toNat % 16) → c.binds.length < 64 →
        let xs := ps.map fun p => (p.1, p.2.1.base + p.1 % p.2.1.size, p.2.2)
        s.alreadyBound xs = false →
        ∃ t num, exec (.sbind f) s = .next t ∧ FallsThrough s t ∧ t.mem = (s.markVas h.ctx (xs.map (·.1))).mem ∧ num < 64 ∧ (∀ b ∈ c.binds, b.num ≠ num)
          ∧ (t.ctxOf h.ctx).binds = c.binds ++ [{ num, va := a, size := n, slot := f.imm.toNat % 16, extents := xs }]
          ∧ gives t f.d num
          ∧ ∀ k, (t.metaOf k).state = if extentsMeet xs [(0, 64 * k, 64)] then 0 else (s.metaOf k).state)
    ∧ (∀ b, c.w0 ≠ 0 → c.binds.find? (fun b => b.va == a && b.size == n) = some b → s.parkedOn b = false →
        ∃ t, exec (.sunbind f) s = .next t ∧ FallsThrough s t ∧ t.mem = (s.markVas h.ctx (b.extents.map (·.1))).mem
          ∧ (t.ctxOf h.ctx).binds = c.binds.filter (fun x => x.num != b.num) ∧ gives t f.d b.slot
          ∧ ∀ k, (t.metaOf k).state = if extentsMeet b.extents [(0, 64 * k, 64)] then 0 else (s.metaOf k).state)
    ∧ ∀ p, s.checkPart [] h.ctx h.level .load ((s.rg g.a).toNat + g.off.toInt) 1 = .ok p →
        let k := p.pa / 64
        let st := (s.metaOf k).state.toNat
        let q := min (s.parkCount k) 255
        ∃ t v, exec (.sqry g) s = .next t ∧ SeqFrame (s.markParts false [p]) t g.d v ∧ FallsThrough s t ∧ v =
          (match s.bindAt k with
           | some (x, b) => if x = h.ctx then BitVec.ofNat 64 (2 ^ 63 + 2 ^ 50 * b.num + 2 ^ 12 * q + 2 ^ 8 * b.slot + st) else 0
           | none =>
             match s.chuteAt k with
             | some (x, _) => if x = h.ctx then BitVec.ofNat 64 (2 ^ 62 + 2 ^ 12 * q + st) else 0
             | none => 0)

/-- R347, R349, R415, R344, R357: of the accesses parked on a line, the first that is legal now is performed when the line is
judged again, and leaves the queue, whatever else waits there: a `sld`, an `sst`, a `strn` of the acting sequencer with its
transition, and an open of a chute that is first in its queue, which takes its slot, or gives 0 when it can never be served. An
access of the acting sequencer that has waited its PARKLIM traps PARK_LIMIT, its address, or that of the control line it waits
for, in TVAL. Model's choice: that checks are not repeated is log 22; accesses are performed in the order of the steps, log
11. -/
def Obligations.ParkedAccesses : Prop :=
  ∀ (s : State) (n : Nat) (q : Park), s.parks[n]? = some q → q.agent = .seq s.hart.core s.hart.sq →
    let h := s.hart
    let first (line : Nat) : Prop := ∀ m p, m < n → s.parks[m]? = some p → s.parkLine p = line → s.parkReady p = false
    let left (t : State) : Prop := t.parks = s.parks.eraseIdx n ∧ FallsThrough s t
    let gives (t : State) (d : BitVec 5) (v : Nat) : Prop :=
      ∀ r, t.rg r = if r = 0 then 0 else if r = d then BitVec.ofNat 64 v else s.rg r
    (∀ (k trn kind : Nat) (img : BitVec 512), q.key = .line k → first k → s.calm → q.cond = .staged h.ctx trn kind →
      (sgOf q.word).trn.toNat = trn → s.lineMoving k = false → s.tableAt h.ctx k = some img →
      let e := field img.toNat (128 + 16 * trn) 16
      let st := (s.metaOf k).state
      let f := sgOf q.word
      let size := 2 ^ (q.word.extractLsb' 50 2).toNat
      let pa := 64 * k + q.va % 64
      let moves := decide (field e 0 4 ≠ 15)
      let done (t : State) : Prop :=
        exec (.parkRejudge k) s = .next t ∧ left t
        ∧ (t.metaOf k).state = (if field e 0 4 = 15 then st else BitVec.ofNat 4 (field e 0 4))
        ∧ ∀ j, j ≠ k → t.metaOf j = s.metaOf j
      e.testBit 15 = true → (field e 12 2 = 2 ∨ kind ≠ 2 ∧ field e 12 2 = kind) →
      (field e 4 4 = 15 ∨ field e 4 4 = st.toNat) →
      (opOf q.word = 0x6A → kind = 2 → ∃ t, done t ∧ gives t f.d st.toNat ∧ t.mem = (s.markVa h.ctx q.va moves).mem)
      ∧ (opOf q.word = 0x68 → kind = 0 → s.linePoisoned k = false →
          ∃ t, done t ∧ gives t f.d (ofBytes (s.readPhys pa size)) ∧ t.mem = (s.markVa h.ctx q.va moves).mem)
      ∧ (opOf q.word = 0x69 → kind = 1 →
          let bs := toBytes (s.rg f.b).toNat size
          (s.writePhys pa bs).walk h.ctx q.va = s.walk h.ctx q.va →
          ∃ t, done t ∧ (∀ r, t.rg r = s.rg r)
            ∧ (∀ a, (a < pa ∨ pa + size ≤ a) → Memory.read t.mem a = Memory.read (s.markVa h.ctx q.va true).mem a)
            ∧ ((∀ lf, s.walk h.ctx q.va = some lf → pa + size ≤ lf.entry ∨ lf.entry + 8 ≤ pa) → t.readPhys pa size = bs)))
    ∧ (∀ (serial i : Nat) (put : Bool) (l : Launch) (c : Chute), q.key = .chute serial i put → s.launchOf serial = some l →
        l.chutes[i]? = some c → (s.chuteQueue serial i put).head? = some q →
        let k := (if put then c.put else c.get) % c.lines.length
        let line := c.lines.getD k 0
        let r := l.image
        let dead := if put then l.stageDone (recTo r i) else l.stageDone (recFrom r i) && c.get == c.put
        let state (t : State) (x : Nat) := (t.metaOf x).state.toNat
        first line →
        (dead = true → ∃ t, exec (.parkRejudge line) s = .next t ∧ left t ∧ t.mem = s.mem ∧ t.launches = s.launches
            ∧ gives t (rrOf q.word).d 0)
        ∧ (dead = false → s.calm → state s line = (if put then 0 else 2) → s.lineMoving line = false →
            (∀ right ∈ [Right.load, .store], ∃ p, s.checkPart [] l.ctx h.level right (slotLine r i k) 1 = .ok p) →
            ∃ t, exec (.parkRejudge line) s = .next t ∧ left t ∧ state t line = (if put then 1 else 3)
              ∧ (∀ x, x ≠ line → t.metaOf x = s.metaOf x)
              ∧ t.launchOf serial = some { l with
                  chutes := l.chutes.set i (if put then { c with put := c.put + 1 } else { c with get := c.get + 1 }) }
              ∧ t.hart.slots = h.slots ++ [{ chute := i, put, slot := k }]
              ∧ gives t (rrOf q.word).d (slotHeader r i k + 64) ∧ t.mem = (s.markVa l.ctx (slotLine r i k) true).mem))
    ∧ (q.lim ≠ 0 → s.canTrap →
        let traps (va : Nat) : Prop :=
          ∃ t, exec (.parkLimit n) s = .next t
            ∧ TrapTaken { s with parks := s.parks.eraseIdx n } t causeParkLimit 0 (h.pc &&& 0xFFFFFFFFFFFFFFF8#64) (BitVec.ofNat 64 va)
        (∀ k, q.key = .line k → traps q.va)
        ∧ ∀ (serial i : Nat) (put : Bool) (l : Launch) (c : Chute), q.key = .chute serial i put → s.launchOf serial = some l →
            l.chutes[i]? = some c →
            traps (slotLine l.image i
              (((if put then c.put else c.get) + ((s.parks.take n).filter fun x => x.key == q.key).length) % c.lines.length)))

/-! ## Column instructions (11) -/

/-- R254, R255, R256: `cdef` makes an empty column of its type, and traps ILLEGAL where R231 is broken; `clen`, `cpend` and
`cclr` read LEN and PEND and clear LEN; `cld` loads the rows that its active elements reach, zeros beyond LEN, and gives the
number of rows that its window reaches. Model's choice: that the lane under check stands is log 65. -/
def Obligations.ColumnsDefineAndLoad : Prop :=
  ∀ (f : ClF) (s : State),
    let base := (s.rg f.a).toNat
    let n := (s.rg f.b).toNat
    let ty := cdefType f.kind.toNat
    let colsOnly (t : State) : Prop :=
      s.sameButSeq t ∧ s.hart.sameButCols t.hart ∧ t.hart.g = s.hart.g ∧ FallsThrough s t
        ∧ ∀ k, k ≠ f.d → t.hart.col k = s.hart.col k
    (f.kind ≠ 15 → f.d.toNat < 16 →
      ((base % 64 = 0 ∧ 1 ≤ n ∧ n < 2 ^ 40 ∧ base + n * (widthOf ty.1 / 8) ≤ 2 ^ 57) →
        ∃ t, exec (.cdef f) s = .next t ∧ colsOnly t
          ∧ t.hart.col f.d = { base, isDef := true, pend := false, midop := false, pos := ty.2.2, ew := ty.1, ty := ty.2.1
                               bound := n, len := 0, run := 0, cont := 0, phase := 0, curb := 0, cura := 0, aux := 0 })
      ∧ (¬ (base % 64 = 0 ∧ 1 ≤ n ∧ n < 2 ^ 40 ∧ base + n * (widthOf ty.1 / 8) ≤ 2 ^ 57) → s.canTrap →
          ∀ w, encode (.cdef f) = some w → TrapsHere (.cdef f) s 1 w))
    ∧ ((s.hart.col f.a).isDef = true →
        SeqWrites (.clen f) s f.d (BitVec.ofNat 64 (s.hart.col f.a).len)
        ∧ SeqWrites (.cpend f) s f.d (if (s.hart.col f.a).pend then 1 else 0))
    ∧ ((s.hart.col f.d).isDef = true →
        ∃ t, exec (.cclr f) s = .next t ∧ colsOnly t ∧ t.hart.col f.d = { s.hart.col f.d with len := 0 })
    ∧ ∀ vals : List (List Byte), s.calm →
        let a := s.hart.col f.a
        let w := widthOf a.ew
        let es := s.hart.vec.active (f.c.setWidth 3) 0
        let inside := es.filter fun e => decide (n + e < a.len)
        s.ColIssues [] [(f.a, a)] 0 false → s.VecReady [f.d.toNat] [w] →
        s.Reads s.me (inside.map fun e => a.rowOp (n + e) false .load) vals →
        ∃ t, exec (.cld f) s = .next t ∧ s.sameButSeq t ∧ FallsThrough s t
          ∧ s.hart.vec.sameBut t.hart.vec [f.d.toNat] []
          ∧ (∀ q, t.rg q = if q = 0 then 0 else if q = f.lreg then BitVec.ofNat 64 (min s.hart.vec.vl (a.len - n)) else s.rg q)
          ∧ { t.hart with vec := s.hart.vec }.sameButScalar s.hart
          ∧ ∀ e, w * (e + 1) ≤ 65536 → t.hart.vec.elem f.d.toNat e w =
              if e ∈ es then (if n + e < a.len then
                ofBytes (((inside.zip vals).find? (·.1 = e)).map (·.2) |>.getD []) % 2 ^ w else 0)
              else s.hart.vec.elem f.d.toNat e w

/-- R253, R237 to R240, R244, R257 to R263: the column instructions that produce rows in the order of their inputs append the
rows of their streams, from the point that the destination holds, as far as they fit. -/
def Obligations.ColumnStreams : Prop :=
  ∀ (f : ClF) (s : State) (x y z : Nat → Nat), s.calm → s.hart.preq = false →
    let v := s.hart.vec
    let a := s.hart.col f.a
    let b := s.hart.col f.b
    let c := s.hart.col f.c
    let d := s.hart.col f.d
    let cc := f.cmp.toNat
    let own (op : Nat) := op * 2 ^ 28 + f.d.toNat * 2 ^ 23 + f.a.toNat * 2 ^ 18 + f.b.toNat * 2 ^ 13 + f.c.toNat * 2 ^ 8
      + cc * 2 ^ 4 + f.kind.toNat
    let scalar := (s.rg f.b).toNat % 2 ^ widthOf a.ew
    let alike := b.ew = a.ew ∧ b.ty = a.ty
    let makes (i : Instr) (op : Nat) (dests srcs : List Named) (f64 : Bool) (start : Point) (stream : Point → List Row) : Prop :=
      s.ColIssues dests srcs (own op) f64 → AppendsRows i s f (own op) dests start stream
    let cell e := v.elem f.a.toNat e (widthOf d.ew)
    let heard : List Nat := (List.range v.vl).filter (bitOf (v.mr (f.c.toNat % 8)))
    (s.VecReady [f.a.toNat] [widthOf d.ew] →
      v.Clean f.a.toNat (widthOf d.ew) (fun e => decide (e ∈ heard ∧ v.vstart ≤ e ∧ (d.pend ∨ d.midop → d.cura ≤ e))) →
      makes (.cst f) 0x72 [(f.d, d)] [] false ⟨v.vstart, 0, 0, 0⟩ fun p =>
        (heard.filter fun e => decide (p.cura ≤ e ∧ v.vstart ≤ e)).map fun e =>
          ⟨⟨e, 0, 0, 0⟩, [(0, cell e)], ⟨e + 1, 0, 0, 0⟩⟩)
    ∧ (s.Column a x → d.pos = true → cmpForbidden a.ty cc = false →
        makes (.cselScalar f) 0x76 [(f.d, d)] [(f.a, a)] true .start
          (pickStream (fun i => if keyCond a.ew a.ty cc (x i) scalar then some i else none) a.len)
        ∧ (s.Column c z → c.pos = true → makes (.cselList f) 0x76 [(f.d, d)] [(f.a, a), (f.c, c)] true .start
            (pickStream (fun j => if z j < a.len ∧ keyCond a.ew a.ty cc (x (z j)) scalar = true then some (z j) else none) c.len))
        ∧ (s.Column b y → alike →
            makes (.cselColumn f) 0x76 [(f.d, d)] [(f.a, a), (f.b, b)] true .start
              (pickStream (fun i => if keyCond a.ew a.ty cc (x i) (y i) then some i else none) (min a.len b.len))
            ∧ (c.pos = true → makes (.cjoinInner f) 0x78 [(f.d, d), (f.c, c)] [(f.a, a), (f.b, b)] true .start
                (pairStream (fun l r => keyCond a.ew a.ty cc (x l) (y r)) a.len b.len))))
    ∧ (s.Column a x → s.Column b y → b.pos = true → d.ew = a.ew ∧ d.ty = a.ty ∧ d.pos = a.pos →
        makes (.cprj f) 0x77 [(f.d, d)] [(f.a, a), (f.b, b)] false .start
          (pickStream (fun j => some (if y j < a.len then x (y j) else 0)) b.len))
    ∧ (s.Column a x → s.Column b y → d.pos = true → alike →
        let found l := (List.range b.len).any fun r => keyCond a.ew a.ty 0 (x l) (y r)
        makes (.cjoinSemi f) 0x78 [(f.d, d)] [(f.a, a), (f.b, b)] true .start
          (pickStream (fun l => if found l then some l else none) a.len)
        ∧ makes (.cjoinAnti f) 0x78 [(f.d, d)] [(f.a, a), (f.b, b)] true .start
          (pickStream (fun l => if found l then none else some l) a.len))
    ∧ (s.Column a x → d.ew = 3 ∧ d.ty = 0 ∧ d.pos = false → c.pos = true →
        makes (.cgrp f) 0x79 [(f.d, d), (f.c, c)] [(f.a, a)] true .start fun p =>
          runRows (fun i => i == 0 || !keyEq a.ew a.ty (x i) (x (i - 1))) p.aux ((List.range a.len).drop p.cura))
    ∧ ∀ o : Agg, o.typed d a = true → (o ≠ .cnt → s.Column a x) →
        let groups (starts : Nat → Bool) (n : Nat) (p : Point) : List Row :=
          groupRows (fun acc i => o.next d a acc (if o = .cnt then 0 else x i)) starts p ((List.range n).drop p.cura)
        let grouped (i : Instr) : Prop :=
          s.Column b y → makes i 0x7A [(f.d, d)] [(f.a, a), (f.b, b)] true .start fun p =>
            if p.phase = 2 then [] else groups (fun i => !keyEq b.ew b.ty (y i) (y (i - 1))) (min a.len b.len) p
        let whole (i : Instr) : Prop :=
          makes i 0x7A [(f.d, d)] [(f.a, a)] true .start fun p =>
            if p.phase = 2 then []
            else if p.phase ≠ 1 ∧ p.cura = 0 ∧ a.len = 0 then [⟨p, [(0, o.empty a)], ⟨0, 0, 2, 0⟩⟩]
            else groups (fun _ => false) a.len p
        (o = .cnt → grouped (.caggCnt f) ∧ whole (.caggCntWhole f))
        ∧ (o = .sum → grouped (.caggSum f) ∧ whole (.caggSumWhole f))
        ∧ (o = .min → grouped (.caggMin f) ∧ whole (.caggMinWhole f))
        ∧ (o = .max → grouped (.caggMax f) ∧ whole (.caggMaxWhole f))

/-- R264, R252, R253: there is one stable order of the rows by korder, ascending and descending, and the sorts emit it by
rank, `cuniq` the lowest row of each key in it, `ctopk` its first k rows, with the k of the first execution. -/
def Obligations.ColumnOrder : Prop :=
  ∀ (f : ClF) (s : State) (x : Nat → Nat), s.calm → s.hart.preq = false →
    let a := s.hart.col f.a
    let d := s.hart.col f.d
    let own (op : Nat) := op * 2 ^ 28 + f.d.toNat * 2 ^ 23 + f.a.toNat * 2 ^ 18 + f.b.toNat * 2 ^ 13 + f.c.toNat * 2 ^ 8
      + f.cmp.toNat * 2 ^ 4 + f.kind.toNat
    let k := if d.pend ∨ d.midop then d.aux else (s.rg f.b).toNat
    let makes (i : Instr) (op aux : Nat) (order : List Nat) : Prop :=
      s.ColIssues [(f.d, d)] [(f.a, a)] (own op) true →
        AppendsRows i s f (own op) [(f.d, d)] ⟨0, 0, 0, aux⟩ (rankStream order)
    s.Column a x → d.pos = true →
    ∃ up down, Ordered (keyBefore a.ew a.ty false) x a.len up ∧ Ordered (keyBefore a.ew a.ty true) x a.len down
      ∧ makes (.csort f) 0x7B 0 up ∧ makes (.csortDesc f) 0x7B 0 down
      ∧ makes (.cuniq f) 0x7C 0 (up.filter fun i => !(List.range i).any fun j => keyEq a.ew a.ty (x j) (x i))
      ∧ makes (.ctopk f) 0x7D k (down.take k) ∧ makes (.ctopkMin f) 0x7D k (up.take k)

/-! ## Tile tasks (09) -/

/-- R224 to R226, R221, R222, R422: `tenq` queues the task of a record that passes its checks and gives its handle, and gives
code and place of the first check that fails; `tqry` reads the status of a task of its own context, live or logged, or STATE
7; `tcancel` cancels a task that waits, marks one that runs and leaves an ended one; and the scheduler moves a task through
its states, writing STATUS, with a free engine going to a task of the highest class. Model's choice: which task is served
among equals is log 44; that SERIAL counts from 0 is log 69. -/
def Obligations.TileTasks : Prop :=
  (∀ (f : RrF) (s : State), s.calm →
    let a := (s.rg f.a).toNat
    let clus := clusterNo s.hart.core
    let accepted := (s.clusterOf clus).accepted
    let h := BitVec.ofNat 64 (2 ^ 63 + clus * 2 ^ 48 + accepted % 2 ^ 48)
    let op (o n : Nat) : MemOp := { va := (a + o : Nat), n, align := false, strict := true, act := .load, ord := 0, scope := 1 }
    ∀ hd es ss, a % 64 = 0 → s.Reads s.me [op 0 64] [hd] →
      (headerCode hd ≠ 0 → SeqWrites (.tenq f) s f.d (BitVec.ofNat 64 (headerCode hd + 0xFF * 256)))
      ∧ (headerCode hd = 0 → s.Reads s.me [op 64 128] [es] → s.Reads s.me [op 192 (32 * tkSteps hd)] [ss] →
          let r := hd ++ es ++ ss
          (∀ code place, recordCode r = some (code, place) → SeqWrites (.tenq f) s f.d (BitVec.ofNat 64 (code + place * 256)))
          ∧ (recordCode r = none → s.queueFull clus s.hart.ctx = true → SeqWrites (.tenq f) s f.d 1)
          ∧ (recordCode r = none → s.queueFull clus s.hart.ctx = false → let u := newTask h clus s.hart.ctx s.hart.level a r
              ∀ ps, s.Posts u.who (statusStore (a + 16) (toBytes 0 8)) ps →
              ∃ t, exec (.tenq f) s = .next t ∧ { s with hart := t.hart }.sameButTasks t ∧ s.hart.sameButScalar t.hart
                ∧ FallsThrough s t ∧ Posted s t ps (toBytes 0 8)
                ∧ (∀ q, t.rg q = if q = 0 then 0 else if q = f.d then h else s.rg q)
                ∧ t.tasks = (s.tasks.map fun x => if x.h = h then u else x) ++ [u]
                ∧ t.clusters = (s.setCluster clus { s.clusterOf clus with accepted := (accepted + 1) % 2 ^ 48 }).clusters)))
  ∧ (∀ (f : RrF) (s : State),
      let h := s.rg f.a
      let live := s.tasks.find? fun t => t.h == h && t.ctx == s.hart.ctx
      let handle := wbits h 53 11 = 2 ^ 10
      let logged := (s.clusterOf (wbits h 48 5)).log.find? fun x => x.1 == s.hart.ctx && x.2.1 == h
      let status := match live, logged with
        | some t, _ => t.reported
        | none, some x => x.2.2
        | none, none => unknownTask
      Writes (.tqry f) s f.d (if handle then status else unknownTask)
      ∧ ((∀ t, handle → live = some t → t.state = .done ∨ t.state = .failed ∨ t.state = .cancelled) →
          Writes (.tcancel f) s f.d (if handle then status else unknownTask))
      ∧ ∀ t, handle → live = some t →
          (t.state = .running → t.atPoint = false → s.taskParked h = false → t.stopping = false →
              (∀ r ∈ s.remotes, r.agent ≠ .task h) → ∃ v, exec (.tcancel f) s = .next v
            ∧ v.tasks = s.tasks.map (fun x => if x.h = h then { t with cancelReq := true } else x)
            ∧ v = { s with hart := v.hart, tasks := v.tasks } ∧ FallsThrough s v
            ∧ ∀ q, v.rg q = if q = 0 then 0 else if q = f.d then t.status else s.rg q)
          ∧ (t.state = .queued ∨ t.state = .ready ∨ t.state = .interrupted → t.owes = [] → s.calm → tkSigs t.image = 0 →
              TaskEnds (.tcancel f) s { t.clear with state := .cancelled } fun v => FallsThrough s v
                ∧ (t.clus = wbits h 48 5 → v.rg f.d = if f.d = 0 then 0 else ({ t with state := .cancelled } : Task).status)))
  ∧ ∀ (s : State) (h : Word) (t : Task), s.calm → s.taskOf h = some t → (∀ p ∈ s.parks, p.agent ≠ .task h) →
      (t.state = .queued → t.owes = [] → tkWaits t.image ≤ t.nextWait →
        TaskEnters (.taskWaitEntry h) s t { t with state := .ready })
      ∧ (t.state = .queued → t.owes = [] → t.nextWait + 1 < tkWaits t.image →
          ∀ v, s.attempt (t.transition (tkAddr t.image t.nextWait) (wbits (tkEntry t.image t.nextWait 1) 60 4)
              (wbits (tkEntry t.image t.nextWait 1) 53 3)) = (.ok (), v) →
            exec (.taskWaitEntry h) s = .next { v with
              tasks := v.tasks.map fun x => if x.h = h then { t with nextWait := t.nextWait + 1 } else x })
      ∧ (t.state = .ready ∨ t.state = .interrupted →
          exec (.taskAging h) s = .next { s with
            tasks := s.tasks.map fun x => if x.h = h then { t with prio := min (t.prio + 1) 3 } else x })
      ∧ (t.state = .running → t.owes = [] → t.stopping = false → tkSteps t.image ≤ t.snext → tkSigs t.image = 0 →
          TaskEnds (.taskDone h) s { t.clear with state := .done } fun v => v.hart = s.hart)
      ∧ ∀ c, s.nextTask c = some t → t.h = h → s.enginesUsed c < 8 → t.cancelReq = false →
          (∀ x ∈ s.waitingTasks c, x.prio ≤ t.prio)
          ∧ (t.state = .ready → t.suspendReq = false →
              let bs := toBytes ({ t with state := .running } : Task).status.toNat 8
              ∀ ps, s.Posts t.who (statusStore (t.addr + 16) bs) ps →
              ∃ v, exec (.taskIssue c) s = .next v ∧ s.sameButTasks v ∧ Posted s v ps bs
                ∧ v.tasks = s.tasks.map (fun x =>
                    if x.h = h then { t.clear with state := .running, owes := [], shown := t.status } else x)
                ∧ v.clusters = (s.setCluster t.clus { s.clusterOf t.clus with turn := t.ctx }).clusters)
          ∧ (t.state = .interrupted → ∀ u v ps, s.attempt t.restore = (.ok u, v) → v.calm → v.tasks = s.tasks →
              u = { t with a := u.a, b := u.b, acc := u.acc, psum := none, snext := u.snext, knext := u.knext
                           suspendReq := false } →
              let bs := toBytes ({ u with state := .running } : Task).status.toNat 8
              (v.settle t.who.agent).Posts t.who (statusStore (t.addr + 16) bs) ps →
              ∃ x, exec (.taskResume c) s = .next x
                ∧ x.taskOf h = some { u with state := .running, owes := [], shown := u.status } ∧ Posted v x ps bs)

/-- 09 Table 9.3, R207 to R216, R121 to R124: the steps of a tile task on its engine. LDA and LDB fill a slot with 64 rows,
MMA adds the products of two slots into a tile, or puts the sums of a block-scaled pair into the partial-sum buffer, SACC adds
those into a tile at their scales, ACVT stores a tile's converted rows, ZERO clears, SPMASK sets bitmaps, and TRN is a
transition of the task. Model's choice: overflow to E4M3 is log 14. -/
def Obligations.TileSteps : Prop :=
  ∀ (s : State) (t : Task) (h : Word), s.calm →
    let i := t.snext
    let k := t.kIndex
    let w := tkStep t.image i
    (∀ sideB rows, s.AtStep t h (if sideB then 2 else 1) → s.PanelRows t i k rows →
      let n := wbits (w 0) 50 2
      TaskSteps (if sideB then .ldb h else .lda h) s h (t.setSlot sideB n { t.slot sideB n with
        fmt := some (wbits (w 0) 52 4)
        vals := BitVec.ofNat 65536 (packBits 32 (rows.flatMap (·.2)))
        scales := BitVec.ofNat 1024 (packBits 16 (rows.map (·.1))) }))
    ∧ (s.AtStep t h 3 →
        let fa := wbits (w 0) 52 4
        let fb := wbits (w 0) 48 4
        let n := wbits (w 0) 41 3
        let x := t.slot false (wbits (w 0) 46 2)
        let y := t.slot true (wbits (w 0) 44 2)
        x.fmt = some fa → y.fmt = some fb →
        (blockPair fa fb = false → ∃ u : Task, TaskSteps (.mma h) s h u ∧ u = { t with acc := u.acc }
          ∧ (∀ m, m ≠ n → u.tile m = t.tile m)
          ∧ ∀ r c, r < 64 → c < 64 → tileElem (u.tile n) r c =
              let old := tileElem (t.tile n) r c
              if fa = 3 ∨ fa = 6 then
                let ints (l : LatchRow) := l.2.map (sint (8 * elemBytes fa))
                let sum := (List.zipWith (· * ·) (ints (x.row r)) (ints (y.row c))).foldl (· + ·) 0
                cut 48 (max (-2 ^ 47) (min (2 ^ 47 - 1) (sint 48 old + sum)))
              else accFloat old (dotFloat ((x.row r).2.map (matrixFmt fa).val) ((y.row c).2.map (matrixFmt fa).val)) % 2 ^ 48)
        ∧ (blockPair fa fb = true → ∃ p, TaskSteps (.mma h) s h { t with psum := some p }
            ∧ p.unit = (if fa = 0 then -4 else -20)
            ∧ ∀ r c, r < 64 → c < 64 → p.ea[r]? = some ((x.row r).1 % 512) ∧ p.eb[c]? = some ((y.row c).1 % 512)
                ∧ p.sums[64 * r + c]? = some (if fa = 0 then partialSum dotInt (quarterRow (x.row r)) (quarterRow (y.row c))
                    else partialSum dotFp8 (finiteRow (matrixFmt fa) (x.row r)) (finiteRow (matrixFmt fb) (y.row c)))))
    ∧ (∀ p, s.AtStep t h 4 → t.psum = some p → p.sums.length = 4096 → p.ea.length = 64 → p.eb.length = 64 →
        let n := wbits (w 0) 41 3
        ∃ u : Task, TaskSteps (.sacc h) s h u ∧ u = { t with acc := u.acc, psum := none } ∧ (∀ m, m ≠ n → u.tile m = t.tile m)
          ∧ ∀ r c, r < 64 → c < 64 → tileElem (u.tile n) r c =
              let old := tileElem (t.tile n) r c
              (scaleAcc fmtA48 Rnd.rne old (p.sums.getD (64 * r + c) none) p.unit (p.ea.getD r 0) (p.eb.getD c 0)).getD old % 2 ^ 48)
    ∧ (∀ l, s.AtStep t h 5 →
        let fout := wbits (w 0) 52 4
        let at_ (r : Nat) : Int := t.panel i k + (r * wbits (w 3) 0 32 : Nat)
        let bs (r : Nat) := t.outRow i r ((List.range 64).map (tileElem (t.tile (wbits (w 0) 44 3)) r))
        (∀ r, r < 64 → at_ r % outAlign fout = 0) →
        OpsPass s t.who ((List.range 64).map fun r =>
          { va := at_ r, n := (bs r).length, align := false, strict := true, act := .store (bs r), ord := 0, scope := 1 }) l →
        ∃ v, exec (.acvt h) s = .next v ∧ { s with tasks := v.tasks }.sameButMem v ∧ SameBytesBut s v l (placesOf l) ∧ v.HoldsAll l
          ∧ v.hart = s.hart ∧ v.tasks = s.tasks.map fun x => if x.h = h then t.advance else x)
    ∧ (s.AtStep t h 6 → ∃ u : Task, TaskSteps (.zero h) s h u ∧ u = { t with acc := u.acc, psum := u.psum }
        ∧ (∀ n, n < 8 → u.tile n = if wbits (w 0) (48 + n) 1 = 1 then 0 else t.tile n)
        ∧ u.psum = if wbits (w 0) 47 1 = 1 then none else t.psum)
    ∧ (∀ bs, s.AtStep t h 7 →
        s.Reads t.who [{ va := t.panel i k, n := 256, align := false, strict := false, act := .load, ord := 0, scope := 1 }] [bs] →
        let sideB := wbits (w 0) 52 1 == 1
        let n := wbits (w 0) 50 2
        TaskSteps (.spmask h) s h (t.setSlot sideB n { t.slot sideB n with maps := BitVec.ofNat 2048 (ofBytes bs) }))
    ∧ ∀ v, s.AtStep t h 8 →
        s.attempt (t.transition (wbits (w 1) 0 57) (wbits (w 0) 52 4) (wbits (w 0) 49 3)) = (.ok (), v) →
        exec (.trn h) s = .next { v with tasks := v.tasks.map fun x => if x.h = h then t.advance else x }

/-! ## Sluice (17) -/

/-- R359, R362, R373, R386, R387: `batch` judges its active records in turn, one that breaks a rule or finds no slot is
refused with no effect, and the others are in flight; `publ` exchanges the addresses of its pairs of leaf entries and changes
no other byte, and R309: an access parked through one of them waits at the line of the other frame after it; `xtbl` fills a
slot with a sound image, and gives 2^63 + the offset of the first byte that is wrong. Model's choice: the order of the checks
of xtbl is log 33; where an access parked through a pair stands is log 22. -/
def Obligations.SluiceInstructions : Prop :=
  (∀ (f : BtF) (s : State) (bits : List (Nat × Bool)) (u : State), s.calm →
    let v := s.hart.vec
    let n := (s.rg f.b).toNat
    let regs := (List.range 8).map (f.a.toNat + ·)
    let on (i : Nat) : Bool := bitOf (v.governing f.msk f.mn) i
    s.VecReady regs [] → n ≤ 64 → n ≤ v.vlmax / 64 →
    (∀ r ∈ regs, v.Clean r 64 fun i => decide (i < n) && on i) →
    judgeAll ((List.range n).map fun i =>
      (i, if on i then some (regs.map fun k => BitVec.ofNat 64 (v.elem k i 64)) else none)) s.nextLane = (.ok bits, u) →
    u.hart = s.hart →
    ∃ t, exec (.batch f) s = .next t ∧ FallsThrough s t ∧ s.hart.sameButVec t.hart ∧ t.cmds = u.cmds ∧ t.mem = u.mem
      ∧ t.hart.vec = { v.writeMask (f.d.setWidth 3) bits with vstart := 0 })
  ∧ (∀ (s : State) (r : List Word),
      let u := if commonOk r ∧ readsDescriptor r then s.ctxSeen s.hart.ctx s.hart.level (cwWord r 4).toNat 64 else s
      (commonOk r = false ∨ u.kindOk r = false ∨ u.unitAbsent r = true → s.judgeRecord State.zeroCmd r = (false, u))
      ∧ (commonOk r = true → u.kindOk r = true → u.unitAbsent r = false → cwSize r ≠ 0 →
          s.judgeRecord State.zeroCmd r =
            if 64 ≤ u.slotsUsed u.hart.core then (false, u)
            else (true, { u with cmds := u.cmds ++ [u.newCmd r], cmdId := u.cmdId + 1 })))
  ∧ (∀ (f : RrF) (s : State) (l : Leaf), s.calm →
      let a := (s.rg f.a).toNat
      let n := (s.rg f.b).toNat
      let entry (k : Nat) := l.entry + 8 * k
      0 < n → n ≤ 64 → s.walk s.hart.ctx a = some l → leafPubp l.val = true → l.entry / 8 % 2 = 0 →
      l.entry % 1024 + 16 * n ≤ 1024 → s.badPair (s.ctxOf s.hart.ctx).tenant l.lvl ((List.range (2 * n)).map entry) = none →
      (∀ k, k < 2 * n → leafU (s.readWord (entry k)) = true ∧ leafR (s.readWord (entry k)) = true
        ∧ leafW (s.readWord (entry k)) = true ∧ s.linePoisoned (entry k / 64) = false) →
      ∃ t, exec (.publ f) s = .next t ∧ FallsThrough s t ∧ s.sameButMem { t with parks := s.parks } ∧ s.hart.sameButScalar t.hart
        ∧ t.parks = (s.parks.filter fun p => (s.parkedPair l.entry n p).isNone)
            ++ (s.parks.filterMap fun p => (s.parkedPair l.entry n p).bind fun x =>
              let pa := wbits (s.readWord (if x.entry / 8 % 2 = 0 then x.entry + 8 else x.entry - 8)) 14 38 * 2 ^ 14 + p.va % x.size
              match homeOf pa with
              | .fabric _ => if p.isRemote then some p else none
              | _ => some { p with key := .line (pa / 64) })
        ∧ t.ticket = s.ticket ∧ t.out = s.out ∧ t.lineMeta = s.lineMeta ∧ (∀ q, t.rg q = if q = 0 then 0 else if q = f.d then s.rg f.b else s.rg q)
        ∧ (∀ k, k < 2 * n →
            let other := if k % 2 = 0 then k + 1 else k - 1
            t.readWord (entry k) = wset (s.readWord (entry k)) 14 38 (wbits (s.readWord (entry other)) 14 38))
        ∧ ∀ b, b < l.entry ∨ l.entry + 16 * n ≤ b → Memory.read t.mem b = Memory.read s.mem b)
  ∧ ∀ (f : RiF) (s : State) (hd rest : List Byte), s.calm → s.hasXform = true →
      let a := (s.rg f.a).toNat
      let op (o n : Nat) : MemOp := { va := (a + o : Nat), n, align := false, strict := true, act := .load, ord := 0, scope := 1 }
      let len := 320 + 64 * wbits (wordAt hd 0) 48 8
      a % 64 = 0 → s.Reads s.me [op 0 8] [hd] →
      (∀ k, xfWord0Bad (wordAt hd 0) = some k → SeqWrites (.xtbl f) s f.d (BitVec.ofNat 64 (2 ^ 63 + k)))
      ∧ (xfWord0Bad (wordAt hd 0) = none → s.Reads s.me [op 8 (len - 8)] [rest] →
          let image := hd ++ rest
          (∀ k, k < len → xfByteBad image k = true → (∀ j, j < k → xfByteBad image j = false) →
            SeqWrites (.xtbl f) s f.d (BitVec.ofNat 64 (2 ^ 63 + k)))
          ∧ ((∀ k, k < len → xfByteBad image k = false) →
              ∃ t, exec (.xtbl f) s = .next t ∧ FallsThrough s t ∧ t.mem = s.mem
                ∧ (∀ q, t.rg q = if q = 0 ∨ q = f.d then 0 else s.rg q)
                ∧ t.ctxs = (s.setCtx s.hart.ctx { s.ctxOf s.hart.ctx with
                    xslots := Table.put [] (f.imm.toNat % 8) image (s.ctxOf s.hart.ctx).xslots }).ctxs))

/-- R368 to R372, R374 to R385, R388, R389: the commands of the engines. A command reads its source and then writes, in order,
stores of at most a line, each of which stands; COPY copies, FILL repeats a word, CVT converts each element, DECODE and ENCODE
carry blocks through their records, XFORM unpacks samples or runs its table and writes its counts; STORRD submits NVMe Reads
and takes their completions, or fails when its time is up; and a command that is complete writes its status, gives its signal
and is gone. Model's choice: how many writes go in one event, NVMe identifiers and PRP are free values, log 32; overlap is log
34; COUNT of a failed command is a free value, log 61; the sign of a zero in a block is log 62, and overflow to E4M3 is log
14. -/
def Obligations.EngineCommands : Prop :=
  ∀ (s : State) (c : Cmd) (id : Nat), s.calm →
    let src := cwSrc c.w
    let dst := cwDst c.w
    let n := cwSize c.w
    let w4 := cwWord c.w 4
    let w5 := cwWord c.w 5
    let plain (writes : List LineStore) (count : Nat) (reads targets : List (Nat × Nat)) : Work :=
      { writes, count, fail := none, reads, targets }
    let kinds : List (Nat × Instr) :=
      [(1, .copy id), (2, .cvt id), (3, .decode id), (4, .encode id), (5, .xformUnpack id), (5, .xformRun id), (7, .fill id)]
    (∀ k ∈ kinds, s.cmdOf id = some c → c.phase = .work → cwKind c.w = k.1 → c.begun = true →
        (c.left = [] → exec k.2 s = .next (s.setCmd c.written))
        ∧ ∀ x rest l, c.left = x :: rest → x.pois = none → OpsPass s c.who [x.op] l →
            ∃ v, s.sameButMem v ∧ v.hart = s.hart ∧ v.HoldsAll l ∧ SameBytesBut s v l (placesOf l)
              ∧ (let c1 := { c.wroteAt x.va x.bytes.length with left := rest, wrote := c.counted x }
                 let u := (v.setCmd c1).nextTick
                 exec k.2 s = .next (if Config.freeBool v.tick || rest.isEmpty then u.writeLines c1 rest else u)))
    ∧ (∀ bs, s.AtWork c id 1 → bs.length = n → s.Readable c.who src bs →
        Carries (.copy id) s c
          (plain [lineStore dst 1 bs] n [] []))
    ∧ (s.AtWork c id 7 →
        Carries (.fill id) s c (plain [lineStore dst 1 ((List.range n).map fun i => (toBytes w4.toNat 8).getD (i % 8) 0)] n [] []))
    ∧ (∀ bs, s.AtWork c id 2 →
        let v := Cvt.of w4
        let sw := Cvt.bytes v.sew
        let dw := Cvt.bytes v.dew
        let rw := if v.ef then Cvt.bytes v.rew else 0
        let rdst := if v.ef then w5.toNat else 0
        let elem (width e : Nat) := ofBytes ((bs.drop (width * e)).take width)
        s.Readable c.who src bs →
        if Legal.e2m1Pair v.dew v.dty then
          bs.length = n * sw → 0 < sw → src % sw = 0 →
          Carries (.cvt id) s c (plain [lineStore dst 1 ((List.range (n / 32)).flatMap fun g =>
              blockBytes ((List.range 32).map fun i => (fmtOf v.sew v.sty).val (elem sw (32 * g + i))))]
            (n / 32 * 18) [(src, n * sw)] [(dst, n / 32 * 18)])
        else if Legal.e2m1Pair v.sew v.sty then
          bs.length = n / 32 * 18 →
          Carries (.cvt id) s c (plain [lineStore dst dw ((List.range (n / 32)).flatMap fun g => (List.range 32).flatMap fun i =>
              toBytes ((fmtOf v.dew v.dty).round (c.rndAt (32 * g + i)) false
                (blockVal (field (elem 18 g) (16 + 4 * i) 4) (field (elem 18 g) 0 16))) dw)]
            (n * dw) [(src, n / 32 * 18)] [(dst, n * dw)])
        else
          bs.length = n * sw → 0 < sw → src % sw = 0 →
          Carries (.cvt id) s c (plain
            (gatherStores dw rw dst rdst (lineStore dst dw []) (lineStore rdst (max rw 1) [])
              ((List.range n).map fun e => c.cvtElem e (elem sw e)))
            (n * dw + n * rw) [(src, n * sw)] ((dst, n * dw) :: (if v.ef then [(w5.toNat, n * rw)] else []))))
    ∧ (∀ bs blocks, s.AtWork c id 3 →
        let bytes := blocks.flatMap tileBytes
        bs.length ≤ wbits w4 0 40 → s.Readable c.who src bs → blocks.length = n / 4096 → n % 4096 = 0 → decodesTo bs [] blocks →
        if wbits w5 63 1 = 1 then
          let total := n * 8 / wbits w5 0 4
          Carries (.decode id) s c (plain (sampleWrites dst (unpackSamples w5 bytes (bytes.length * 8 / wbits w5 0 4)))
            (2 * total) [(src, bs.length)] [(dst, 2 * total)])
        else Carries (.decode id) s c (plain [lineStore dst 1 bytes] n [(src, bs.length)] [(dst, n)]))
    ∧ (∀ bs, s.AtWork c id 4 →
        let blocks := (List.range (n / 4096)).map fun k => bytesTile ((bs.drop (4096 * k)).take 4096)
        let out := recordsOf [] blocks
        bs.length = n → n % 4096 = 0 → s.Readable c.who src bs → out.length ≤ wbits w4 0 40 →
        Carries (.encode id) s c (plain [lineStore dst 1 out] out.length [(src, n)] [(dst, out.length)]))
    ∧ (∀ bs, s.AtWork c id 5 → wbits w4 60 4 = 0 → bs.length = (n * wbits w4 0 4 + 7) / 8 → s.Readable c.who src bs → dst % 2 = 0 →
        Carries (.xformUnpack id) s c
          (plain (sampleWrites dst (unpackSamples w4 bs n)) (2 * n) [(src, bs.length)] [(dst, 2 * n)]))
    ∧ (∀ bs wb, s.AtWork c id 5 → wbits w4 60 4 = 1 → 0 < n → bs.length = n → s.Readable c.who src bs → wb.length = 64 →
        s.Readable c.who w5.toNat wb →
        let ways := (List.range 4).map fun q => (wbits (wordAt wb (16 * q)) 0 57, wbits (wordAt wb (16 * q + 8)) 0 40)
        let run := xfRun c.table ways src bs 0 0 [0, 0, 0, 0] []
        xfUsed run.1 none (wordAt c.table 8) src n = none →
        Carries (.xformRun id) s c (plain (wayWrites ways run.2 [0, 0, 0, 0]) 0 [(src, n), (w5.toNat, 64)]
          ((w5.toNat + 64, 32) :: (ways.zipIdx.map fun q => (q.1.1, wayCount run.2 q.2)))))
    ∧ (s.AtWork c id 5 → wbits w4 60 4 = 1 → n = 0 → Carries (.xformRun id) s c (plain [] 0 [] []))
    ∧ (∀ v c1, s.AtWork c id 6 → c.left = [] → c.under = none → c.issued = false → s.queueBusy c = false →
        s.attempt c.submitOne = (.ok c1, v) →
        exec (.storrd id) s = .next ((v.settle c.who.agent).setCmd { c1 with under := none }))
    ∧ (∀ d l,
        let op (va k : Nat) (act : Act) : MemOp := { va := (va : Int), n := k, align := false, strict := true, act, ord := 0, scope := 1 }
        let m := min (pieceBytes d) (n - c.asked)
        let entries := wbits (wordAt d 16) 16 16 + 1
        let used := s.outstanding c
        let sqt := wbits (wordAt d 56) 0 16
        let cid := freeCid used 65536 s.freeWord.toNat
        c.pick = none → s.Reads c.who [op w4.toNat 64 .load] [d] → 0 < m → used.length + 1 < entries →
        OpsPass s c.who
          [op (wbits (wordAt d 0) 0 57 + 64 * sqt) 64 (.store (s.nextTick.nvmeEntry c d cid c.asked m)),
           op (w4.toNat + 56) 8 (.store (queueWord ((sqt + 1) % entries) (wbits (wordAt d 56) 16 16) (wbits (wordAt d 56) 32 1))),
           op (wbits (wordAt d 24) 0 57) 4 (.store (toBytes ((sqt + 1) % entries) 4))] l →
        ∃ v, s.attempt c.submitOne =
            (.ok { c with
              pieces := c.pieces ++ [(cid, c.asked, m)], pick := none, asked := c.asked + m
              issued := decide (n ≤ c.asked + m) }, v)
          ∧ v.HoldsAll l ∧ SameBytesBut s v l (placesOf l))
    ∧ (∀ v x cid sc sct, s.AtWork c id 6 → c.under = none → s.queueBusy c = false →
        s.attempt c.consumeCq = (.ok (some (cid, sc, sct)), v) →
        let v1 := (v.settle c.who.agent).setCmd c
        (v1.sameQueue c).find? (fun y => y.pieces.any fun p => p.1 == cid) = some x → x.phase = .work → x.failed = false →
        let y := { x with pieces := x.pieces.filter fun p => p.1 ≠ cid }
        (sc = 0 → sct = 0 → exec (.nvmeCompletion id) s = .next (v1.setCmd
          (if y.issued = true ∧ y.pieces = [] ∧ y.left = []
              ∧ (∃ r ∈ y.filled, r.1 ≤ cwDst y.w ∧ cwDst y.w + cwSize y.w ≤ r.1 + r.2) then
            { y with phase := .complete, count := cwSize y.w } else y)))
        ∧ (¬ (sc = 0 ∧ sct = 0) → exec (.nvmeCompletion id) s = .next ((v1.settle x.who.agent).setCmd
            { y with
              phase := .complete, failed := true, cause := 14, sct, sc, faddr := BitVec.ofNat 64 (cwDst x.w), left := []
              pick := none, under := none })))
    ∧ (s.AtWork c id 6 → wbits (cwWord c.w 6) 32 32 ≠ 0 →
        exec (.storrdTimeout id) s = .next ((s.settle c.who.agent).setCmd
          { c with
            phase := .complete, failed := true, cause := 14, sct := 7, sc := 0xFF, faddr := BitVec.ofNat 64 dst, left := []
            pick := none, under := none }))
    ∧ (s.cmdOf id = some c → (∀ p ∈ s.parks, p.agent ≠ .cmd id) → c.phase = .complete → c.pieces = [] →
        let gone (t : State) : Prop := t.cmds = s.cmds.filter fun x => x.id ≠ id
        (c.failed = false → cwCmpl c.w = 0 → cwStat c.w = 0 → ∃ t, exec (.commandComplete id) s = .next t ∧ gone t ∧ t.mem = s.mem)
        ∧ (∀ ps, cwCmpl c.w = 0 → cwStat c.w ≠ 0 →
            let k := if c.failed then s.freeWord.toNat % (n + 1) else c.count
            s.Posts c.who (resultStore (cwStat c.w) (c.statusBytes k)) ps →
            ∃ t, exec (.commandComplete id) s = .next t ∧ gone t ∧ Posted s t ps (c.statusBytes k))
        ∧ ∀ v, c.failed = false → cwCmpl c.w = 1 → cwStat c.w = 0 →
            (s.setCmd { c with phase := .held }).attempt (engineTransition c.who (cwCaddr c.w) (cwTrn c.w) (cwScope c.w)) = (.ok (), v) →
            exec (.commandComplete id) s = .next { v.settle c.who.agent with cmds := v.cmds.filter fun x => x.id ≠ id })

/-! ## Launches and chutes (20) -/

/-- R401, R414, R415, 20 Table 20.9: an open of a chute of the sequencer's launch, in its stage and with none open, takes the
slot next in turn when it is EMPTY (put) or FULL (get) and nothing is queued: the line becomes FILLING or DRAINING, the
counter moves on, and GR(D) is the address of the data. It gives 0 when it can never be served, and parks when its slot is not
ready; the control line needs R and W, and U at program level (R274, R519). A close of the slot held gives its number: a put
writes LEN and the WID into the header line and makes it FULL, a get makes it EMPTY. Model's choice: the unnamed words of a
header line are log 23. -/
def Obligations.Chutes : Prop :=
  ∀ (f : RrF) (s : State) (put : Bool) (l : Launch) (c : Chute), s.calm →
    let h := s.hart
    let word := (s.rg f.a).toNat
    let i := word % 16
    let r := l.image
    let mine : Prop := s.launchOf h.inst.serial = some l ∧ l.ctx = h.ctx ∧ l.chutes[i]? = some c ∧ i < recChutes r
      ∧ h.inst.stage = (if put then recFrom r i else recTo r i)
    let gives (t : State) (v : Nat) : Prop := ∀ q, t.rg q = if q = 0 then 0 else if q = f.d then BitVec.ofNat 64 v else s.rg q
    let opened := if put then Instr.chputOpen f else .chgetOpen f
    let dead := if put then l.stageDone (recTo r i) else l.stageDone (recFrom r i) && c.get == c.put
    let k := (if put then c.put else c.get) % c.lines.length
    let line := c.lines.getD k 0
    let state (t : State) (n : Nat) := (t.metaOf n).state.toNat
    let allowed (k : Nat) : Prop := ∀ right ∈ [Right.load, .store], ∃ p, s.checkPart [] l.ctx h.level right (slotLine r i k) 1 = .ok p
    (mine → word < 16 → (∀ x ∈ h.slots, ¬ (x.chute = i ∧ x.put = put)) →
      (dead = true → SeqWrites opened s f.d 0)
      ∧ (dead = false → s.chuteQueue l.serial i put = [] → state s line = (if put then 0 else 2) → allowed k →
          s.migrating l.ctx (slotLine r i k) = false →
          ∃ t, exec opened s = .next t ∧ FallsThrough s t ∧ state t line = (if put then 1 else 3)
            ∧ (∀ n, n ≠ line → t.metaOf n = s.metaOf n)
            ∧ t.launchOf l.serial = some { l with
                chutes := l.chutes.set i (if put then { c with put := c.put + 1 } else { c with get := c.get + 1 }) }
            ∧ t.hart.slots = h.slots ++ [{ chute := i, put, slot := k }] ∧ gives t (slotHeader r i k + 64)
            ∧ t.mem = (s.markVa l.ctx (slotLine r i k) true).mem)
      ∧ (dead = false → s.chuteQueue l.serial i put = [] → state s line ≠ (if put then 0 else 2) → allowed k →
          ∀ x, encode opened = some x → exec opened s = .next { s with
            hart := { h with waiting := true, held := none }, rix := 0
            parks := s.parks ++ [{ key := .chute l.serial i put, cond := .slot, agent := .seq h.core h.sq
                                   va := slotLine r i k, page := s.pageSize h.ctx (slotLine r i k), lim := h.parklim &&& 0xFFFFFFFFFFFF#64, pkt := toBytes x.toNat 8 }] }))
    ∧ ∀ slot, mine → word = 256 + i → h.slots.find? (fun x => x.chute == i && x.put == put) = some ⟨i, put, slot⟩ →
        allowed slot → s.migrating l.ctx (slotLine r i slot) = false →
        let done (i' : Instr) : Prop :=
          ∃ t, exec i' s = .next t ∧ FallsThrough s t ∧ state t (c.lines.getD slot 0) = (if put then 2 else 0)
            ∧ t.hart.slots = h.slots.filter (fun x => !(x.chute == i && x.put == put)) ∧ gives t slot ∧ t.launches = s.launches
        (put = false → done (.chgetClose f)
          ∧ ∀ t, exec (.chgetClose f) s = .next t → t.mem = (s.markVa l.ctx (slotLine r i slot) true).mem)
        ∧ (put = true → (s.rg f.b).toNat ≤ recBytes r i →
            ∀ ops, OpsPass s s.me [{ va := (slotHeader r i slot : Int), n := 64, align := false, strict := true, ord := 0, scope := 1
                                     act := .store (wordBytes [s.rg f.b, h.wid, 0, 0, 0, 0, 0, 0]) }] ops →
            done (.chputClose f))

/-- R402, R403, R404, R405, R406, R407: `launch` of an accepted record adds the launch, its chute lines in state 0, and gives
2^63 + serial; of a refused one it gives code and place and does nothing else; `yield` changes nothing but the PC; `exit`
frees the sequencer and the block and counts the instance; a launch whose instances have all exited ends, and its lines are
unbound; one that has waited is raised a class, to at most 3. Model's choice: LENDEP is judged as log 26 says, and that the
pages of the control lines have A and D set is log 74. -/
def Obligations.Launches : Prop :=
  ∀ (f : RrF) (s : State), s.calm →
    let h := s.hart
    let a := (s.rg f.a).toNat
    (∀ r, a % 64 = 0 →
      s.Reads s.me [{ va := (a : Int), n := 832, align := false, strict := true, act := .load, ord := 0, scope := 1 }] [r] →
      (∀ code place, s.checkRecord h.ctx h.level r = .error (code, place) → s.refusedByPoison h.ctx h.level r code place = false →
        SeqWrites (.launch f) s f.d (BitVec.ofNat 64 (code + place * 256)))
      ∧ ∀ lines, s.checkRecord h.ctx h.level r = .ok lines →
          ∃ t, exec (.launch f) s = .next t ∧ FallsThrough s t
            ∧ t.mem = (s.markVas h.ctx ((List.range lines.length).flatMap (controlAddrs r))).mem
            ∧ t.launches = s.launches ++
                [{ serial := s.serial, ctx := h.ctx, level := h.level, image := r, arg := s.rg f.b
                   prio := wbits (wordAt r 0) 44 2, next := List.replicate (recStages r) 0
                   passed := List.replicate (recStages r) 0
                   exited := List.replicate (recStages r) 0, chutes := lines.map fun ls => { put := 0, get := 0, lines := ls } }]
            ∧ t.serial = (s.serial + 1) % 2 ^ 48
            ∧ (∀ q, t.rg q = if q = 0 then 0 else if q = f.d then BitVec.ofNat 64 (2 ^ 63 + s.serial) else s.rg q)
            ∧ ∀ n, (t.metaOf n).state = if lines.any (·.contains n) then 0 else (s.metaOf n).state)
    ∧ (∃ t, exec (.yield f) s = .next t ∧ s.sameButSeq t ∧ h.sameButScalar t.hart ∧ t.hart.g = h.g ∧ FallsThrough s t
        ∧ t.hart.mayYield = s.ctxWaits h.ctx)
    ∧ (∀ l, h.handling = false → h.slots = [] → (s.ctxOf h.ctx).w0 ≠ 0 → s.launchOf h.inst.serial = some l →
        ∃ t, exec (.exit f) s = .next t ∧ t.mem = s.mem ∧ t.hart.live = false ∧ t.hart.group = none ∧ t.hart.loops = []
          ∧ t.hart.wmark = none ∧ (t.ctxOf h.ctx).blocks = (s.ctxOf h.ctx).blocks.filter (· ≠ h.blk)
          ∧ t.launchOf h.inst.serial = some { l with
              exited := l.exited.set h.inst.stage (l.exited.getD h.inst.stage 0 + 1) })
    ∧ ∀ l n, s.launchOf n = some l →
        ((∀ st, st < recStages l.image → recNinst l.image st ≤ l.exited.getD st 0) →
          (∀ p ∈ s.parks, p.agent ≠ .launch n) → wbits (wordAt l.image 40) 62 2 = 0 →
          ∃ t, exec (.launchEnd n) s = .next t ∧ t.hart = h
            ∧ t.mem = (s.markVas l.ctx ((List.range l.chutes.length).flatMap (controlAddrs l.image))).mem
            ∧ t.launches = s.launches.filter (fun x => x.serial ≠ n)
            ∧ ∀ k, (t.metaOf k).state = if l.chutes.any (·.lines.contains k) then 0 else (s.metaOf k).state)
        ∧ ((∃ st, st < recStages l.image ∧ l.next.getD st 0 < recNinst l.image st)
              ∨ (∃ x ∈ s.saved, x.inst.serial = n ∧ x.halted = false) →
            ∃ t, exec (.launchAging n) s = .next t ∧ t.launchOf n = some { l with prio := min (l.prio + 1) 3 }
              ∧ t = { s with launches := t.launches })

/-! ## The Headframe (20, 22) -/

/-- R400, R57, R408, R409: the next instance of a stage starts on a free sequencer with g1 = ARG, g2 = WID = WBASE + its
number, g31 = STACK + (number + 1) x SSIZE, or 0 without a stack, every other g register and the loop stack zero, the PC at
ENTRY and the level of its context; the launch's other stages with instances to start are passed over once more. R443, R441:
an instance switched out without a lane group resumes with the registers of its block. Model's choice: places are choices of
the event, log 44; CYCLE is log 6; that the low three bits of PC and EPC of a block are taken as 0 is log 45. -/
def Obligations.InstancesStart : Prop :=
  ∀ (s : State) (q : Nat), q < 1024 → (s.seqAt q).live = false →
    (∀ (l : Launch) (n stage blk : Nat), s.launchOf n = some l → s.startable l stage (q / 4) (q % 4) = true →
      s.outranked l.serial (q / 4) (q % 4) = false → (s.ctxOf l.ctx).freeBlock = some blk →
      let i := l.next.getD stage 0
      let wid := wordAt l.image 32 + BitVec.ofNat 64 i
      let stack := wbits (recStage l.image stage 2) 0 57
      let size := wbits (recStage l.image stage 3) 0 40
      ∃ t, exec (.instanceStart n stage q) s = .next t ∧ t.mem = s.mem
        ∧ (let k := t.seqAt q
           k.live = true ∧ k.ctx = l.ctx ∧ k.inst = ⟨l.serial, stage, i⟩ ∧ k.blk = blk ∧ k.level = (s.ctxOf l.ctx).level
           ∧ k.pc = BitVec.ofNat 64 (8 * wbits (recStage l.image stage 0) 3 54) ∧ k.rg 1 = l.arg ∧ k.rg 2 = wid
           ∧ k.rg 31 = (if stack = 0 then 0 else BitVec.ofNat 64 (stack + (i + 1) * size))
           ∧ (∀ r, r ∉ [(1 : BitVec 5), 2, 31] → k.rg r = 0) ∧ k.loops = [] ∧ k.wid = wid ∧ k.wfmt = wordAt l.image 8
           ∧ k.rmode = wordAt l.image 16 ∧ k.seed = wordAt l.image 24 ∧ k.cause = 0 ∧ k.epc = 0 ∧ k.tvec = 0 ∧ k.tval = 0
           ∧ k.parklim = 0 ∧ k.wmark = none ∧ k.group = none)
        ∧ (t.launchOf n).map (·.next) = some (l.next.set stage (i + 1))
        ∧ (t.launchOf n).map (·.passed) = some (l.passed.zipIdx.map fun x =>
            if x.2 = stage then 0 else if l.next.getD x.2 0 < recNinst l.image x.2 then x.1 + 1 else x.1)
        ∧ (t.ctxOf l.ctx).blocks = (s.ctxOf l.ctx).blocks ++ [blk])
    ∧ ∀ (n : Nat) (x : Saved) (b : List Byte), s.saved[n]? = some x → s.resumable x (q / 4) (q % 4) = true →
        s.outranked x.inst.serial (q / 4) (q % 4) = false → x.vsaved = none → x.lazyAt = none →
        let at_ := (s.ctxOf x.ctx).save + 282688 * x.blk
        s.ctxPoisoned x.ctx .supervisor at_ 0x800 = false → s.ctxRead x.ctx .supervisor at_ 0x800 = some b →
        scalarRefused b = false →
        ∃ t, exec (.switchIn n q) s = .next t ∧ t.mem = (s.ctxSeen x.ctx .supervisor at_ 0x800).mem
          ∧ t.saved.map (fun y => { y with asked := none })
              = (s.saved.filter fun y => !(y.ctx == x.ctx && y.inst == x.inst)).map (fun y => { y with asked := none })
          ∧ (let k := t.seqAt q
             k.live = true ∧ k.ctx = x.ctx ∧ k.inst = x.inst ∧ k.blk = x.blk
             ∧ k.level = (if bitOf (wordAt b 0).toNat 8 then .supervisor else .program)
             ∧ k.pc = wordAt b 8 &&& 0xFFFFFFFFFFFFFFF8#64 ∧ k.epc = wordAt b 24 &&& 0xFFFFFFFFFFFFFFF8#64
             ∧ k.tval = wordAt b 32 ∧ k.wid = wordAt b 40
             ∧ (∀ r : BitVec 5, r ≠ 0 → k.rg r = wordAt b (0x40 + 8 * r.toNat))
             ∧ k.loops.length = wbits (wordAt b 0) 0 3 ∧ k.rmode = wordAt b 0x600 ∧ k.seed = wordAt b 0x608
             ∧ k.parklim = wordAt b 0x610 ∧ k.tvec = wordAt b 0x620 ∧ k.slots = x.slots ∧ k.group = none)

/-- R437, R438, R425, R419, R446: a request for pre-emption, of an instance that gives way to another, at the end of a quantum
or for a partition that was not applied, lands at once at a landing point, and otherwise is pending; after PREEMPT_GRACE it
lands at any boundary, but not before a column instruction that resumes has committed a row (R244); a breakpoint that matches
halts the instance, or traps BRKPT with its number in SUB. The sequencer is the acting one. Model's choice: the lowest of
several breakpoints is log 37; VEC and PLEV of a halted block's CAUSE are free values, log 17. -/
def Obligations.Preemption : Prop :=
  ∀ (s : State) (q : Nat), s.adds = [] → (∀ r ∈ s.remotes, r.agent ≠ .seq s.hart.core s.hart.sq) →
    s.hart.core < 256 → s.hart.sq < 4 → q = 4 * s.hart.core + s.hart.sq → s.hart.live = true →
    let h := s.hart
    let point := !h.handling && (h.atPoint || h.waiting || h.mayYield)
    (∀ i, (i = .preempt q ∧ (s.givesWay h = true ∧ s.waitsAt 0 = true ∨ s.waitsForLendep h = true))
        ∨ (i = .quantumExpiry q ∧ s.waitsAt (s.prioOf h.inst.serial) = true)
        ∨ (i = .repartitionTimeout q ∧ h.pend = true) →
      ∃ t, exec i s = .next t
        ∧ (point = true ∨ h.grace = true → s.resumesColumn = false → Lands s t false (!point) h.pc h.cause)
        ∧ (point = false ∧ h.grace = false ∨ s.resumesColumn = true → t = { s with hart := { h with preq := true } }))
    ∧ (h.preq = true → s.resumesColumn = false → ∃ t, exec (.preemptGraceExpiry q) s = .next t ∧ Lands s t false (!point) h.pc h.cause)
    ∧ ∀ (n : Nat) (b : Word), s.matchingBp = some (n, b) →
        ∃ t, exec (.breakpointMatch n) s = .next t
          ∧ (b.getLsbD 62 = true → ∃ k, k < 4 ∧ Lands s t true false h.pc (BitVec.ofNat 64 (k * 2 ^ 60 + 2 ^ 59 + n % 65536 * 2 ^ 32 + 15)))
          ∧ (b.getLsbD 62 = false → s.canTrap →
              TrapTaken s t 15 (n % 65536) (h.pc &&& 0xFFFFFFFFFFFFFFF8#64) h.pc)

/-- R417, R418, R420, R442, R436, R482: the Headframe gives a core G groups for those that want lanes, in ascending order, and
marks every holder of the core when that changes the partition; a waiting sequencer is granted its group; the power controller
doubles or halves a cap between 512 and 65,536; a first use of vector state takes the storage, all zero where nothing was
saved; POISON and MCHECK end the context; a lane that mismatches three times ends the context and marks the core faulty.
Model's choice: an imprecise fault lands without skid, log 12. -/
def Obligations.LanesAndContexts : Prop :=
  ∀ (s : State),
    let h := s.hart
    (∀ core, core < 256 → s.lendepCore core = false →
      let c := s.coreOf core
      let g := if c.want.length ≤ 1 then 1 else if c.want.length = 2 then 2 else 4
      let used := (List.range 4).filter fun k => c.want.contains k
      let groups := used.map some ++ List.replicate (g - used.length) none
      ∃ t, exec (.laneRepartition core) s = .next t ∧ t.mem = s.mem
        ∧ t.cores = (s.setCore core { c with g, groups }).cores
        ∧ { t.hart with pend := h.pend } = h
        ∧ (h.core = core → h.group.isSome →
            t.hart.pend = (h.pend || decide (c.g ≠ g ∨ c.groups ≠ groups)))
        ∧ (h.core ≠ core ∨ h.group = none → t.hart = h))
    ∧ (∀ q k, s.rest = [] → h.core < 256 → h.sq < 4 → q = 4 * h.core + h.sq → h.live = true → h.waiting = true →
        h.group = none → h.sq ∈ (s.coreOf h.core).waitQ → h.owner = some (h.ctx, h.inst) →
        (s.coreOf h.core).groups.findIdx? (· == some h.sq) = some k →
        ∃ t, exec (.laneGrant q) s = .next t ∧ t.mem = s.mem ∧ t.hart.group = some k ∧ t.hart.part = (s.coreOf h.core).g
          ∧ t.hart.pend = false ∧ t.hart.pc = h.pc
          ∧ t.hart.vec.vlmax = min 65536 (min (1048576 / ((s.coreOf h.core).g * regCount h.vec.nreg)) h.tvl))
    ∧ (∀ core up, core < 256 →
        let c := s.coreOf core
        ∃ t, exec (.pcapAdjust core up) s = .next t ∧ t = { s with cores := t.cores }
          ∧ t.cores = (s.setCore core { c with pcap := if up then min (2 * c.pcap) 65536 else max (c.pcap / 2) 512 }).cores)
    ∧ (h.live = true → h.owner = none → h.vsaved = none →
        ∃ t, exec .vfirst s = .next t ∧ t.mem = s.mem ∧ t.hart.owner = some (h.ctx, h.inst)
          ∧ (∀ r, r < 32 → t.hart.vec.bits r = 0) ∧ (∀ k, 0 < k → t.hart.vec.mr k = 0) ∧ t.hart.vec.vl = 0
          ∧ t.hart.vec.vstart = 0 ∧ t.hart.group = h.group ∧ t.hart.pc = h.pc)
    ∧ (∀ b, h.live = true → ∃ t, exec (.contextEnd b) s = .next t ∧ (t.ctxOf h.ctx).ended = true ∧ t.hart.live = false
        ∧ (∀ x ∈ t.tasks, x.ctx ≠ h.ctx) ∧ ∀ x ∈ t.cmds, x.ctx ≠ h.ctx)
    ∧ ∀ n, h.live = true → s.rest = [] →
        ∃ t, exec (.checkLaneMismatch n) s = .next t
          ∧ (0 < n → n ≤ 2 → t.hart = h ∧ t.mem = s.mem
              ∧ wbits (t.bankOf (dieOf h.core) 3).stat 0 16 = min (wbits (s.bankOf (dieOf h.core) 3).stat 0 16 + 1) 65535)
          ∧ (3 ≤ n → (t.coreOf h.core).faulty = true ∧ (t.ctxOf h.ctx).ended = true ∧ t.hart.live = false)

/-! ## Recovery (25), migration (13) -/

/-- R279: a migration sets MIG in the leaf of a FLOAT page, copies the page into a frame of the pool and ends with the leaf
naming the new frame, or as it was where software has written it. R473, R479, R509: a write-back and the scrubber leave a line
with no error that one pin group can explain, and count it. R482, R484, R486, R487, R490, R491: link retries, injections, the
SEEN mark and the clearing of a bank. R475: two wrong bits in a 64-bit group of a vector register set the poison bit of that
group and no other. Model's choice: frames are free choices, log 48; errors are inputs, log 35; the order of the scrubber and
its watch list are log 49; the context that an injection is counted to is log 47. -/
def Obligations.Recovery : Prop :=
  ∀ (s : State),
    let quiet : Prop := bitOf s.reliab.errinj.toNat 63 = false ∧ s.reliab.stuck = none ∧ s.reliab.injStore = none
    (∀ ctx va l, s.calm → s.walk ctx va = some l → (s.ctxOf ctx).valid = true →
      leafFloat l.val = true → leafLock l.val = false → leafMig l.val = false →
      let bases := s.atticBases (s.ctxOf ctx).tenant l.size
      bases ≠ [] → (∀ b ∈ bases, (l.base + l.size ≤ b ∨ b + l.size ≤ l.base) ∧ (l.entry + 8 ≤ b ∨ b + l.size ≤ l.entry)) →
      ∃ b t, b ∈ bases ∧ exec (.migrationStart ctx va) s = .next t ∧ t.hart = s.hart
        ∧ t.migs = s.migs ++ [{ entry := l.entry, val := wset l.val 58 1 1, old := l.base, new := b, size := l.size }]
        ∧ t.readWord l.entry = wset l.val 58 1 1
        ∧ (∀ i, i < l.size → Memory.read t.mem (b + i) = Memory.read t.mem (l.base + i))
        ∧ ∀ a, (a < l.entry ∨ l.entry + 8 ≤ a) → (a < b ∨ b + l.size ≤ a) → Memory.read t.mem a = Memory.read s.mem a)
    ∧ (∀ n m, Memory.wf s.mem = true → s.migs[n]? = some m → s.flightIn m.old m.size = false →
        ∃ t, exec (.migrationPublish n) s = .next t ∧ t.hart = s.hart ∧ t.migs = s.migs.erase m
          ∧ (∀ a, a < m.entry ∨ m.entry + 8 ≤ a → Memory.read t.mem a = Memory.read s.mem a)
          ∧ (s.readWord m.entry = m.val →
              t.readWord m.entry = wset (BitVec.ofNat 64 (setField m.val.toNat 14 38 (m.new / 2 ^ 14))) 58 1 0)
          ∧ (s.readWord m.entry ≠ m.val → t.readWord m.entry = wset (s.readWord m.entry) 58 1 0))
    ∧ (∀ line, inDram line = true → quiet →
        let c := s.chanOf (chanNo line)
        let e := Table.get 0 line s.reliab.errors
        let die := chanNo line / 64
        (c.failed = false → e ≠ 0 →
          exec (.lineWriteback line) s = .next { s with reliab := { s.reliab with errors := Table.put 0 line 0 s.reliab.errors } })
        ∧ (c.failed = false → e = 0 → exec (.lineWriteback line) s = .next s)
        ∧ (c.failed = true → ∃ t, exec (.lineWriteback line) s = .next t ∧ t.mem = s.mem ∧ t.linePoisoned line = true)
        ∧ (∀ c', Table.wf Channel.reset s.reliab.chans = true → c.scrub (line % 0x40000000 / 64) = some c' →
            (c.failed = false → (errGroups e).length ≤ 1 →
              ∃ t, exec (.scrubRead line) s = .next t ∧ t.mem = s.mem ∧ t.hart = s.hart ∧ (t.chanOf (chanNo line)).pos = c'.pos
                ∧ t.reliab.errors = Table.put 0 line 0 s.reliab.errors
                ∧ (errGroups e ≠ [] → wbits (t.bankOf die 0).stat 0 16 = min (wbits (s.bankOf die 0).stat 0 16 + 1) 65535))
            ∧ (c.failed = true → exec (.scrubRead line) s = .next (s.setChan (chanNo line) c')))
        ∧ (c.scrub (line % 0x40000000 / 64) = none → exec (.scrubRead line) s = .next s))
    ∧ (∀ die link attempts, die < 4 → link < 32 → 0 < attempts →
        ∃ t, exec (.meshLinkRetry die link attempts) s = .next t
          ∧ (attempts < 16 → t.mem = s.mem ∧ t.hart = s.hart
              ∧ wbits (t.bankOf die 6).stat 0 16 = min (wbits (s.bankOf die 6).stat 0 16 + attempts) 65535)
          ∧ (16 ≤ attempts → t.stopped = true))
    ∧ (∀ (i : Word → Instr) (kind : Nat) (v : Word),
        (i = .errinjDramCell ∧ kind = 1) ∨ (i = .errinjBusOnce ∧ kind = 2) ∨ (i = .errinjBusStuck ∧ kind = 3) →
        s.adds = [] → s.hart.live = true → s.hart.level = .supervisor → s.tenant = 0 →
        bitOf v.toNat 63 = true → wbits v 59 3 = kind → wbits v 54 5 ≤ 19 →
        ∃ t, exec (i v) s = .next t ∧ t.reliab.armer = some s.hart.ctx ∧ t.reliab.stuck = none
          ∧ t = { s with reliab := { s.reliab with
                errinj := t.reliab.errinj, armer := t.reliab.armer, stuck := none, injStore := none } }
          ∧ t.reliab.errinj &&& 0xBFFFFC00000000FF#64 = v &&& 0xBFFFFC00000000FF#64)
    ∧ (∀ core sq reg group rest, core < 256 → sq < 4 → reg < 32 → group < 1024 → s.firstReady = none → s.mgmtOnly = false →
        s.inputs = .upset (.vrfGroup core sq reg group) :: rest →
        let h := s.hartAt core sq
        ∃ t, step s = .next t ∧ t.inputs = rest
          ∧ t.hartAt core sq = { h with vec := { h.vec with pois := (t.hartAt core sq).vec.pois } }
          ∧ ∀ r g, r < 32 → g < 1024 → bitOf ((t.hartAt core sq).vec.poison r) g
              = (bitOf (h.vec.poison r) g || decide (r = reg ∧ g = group)))
    ∧ ∀ die bank, die < 4 → bank < 8 → s.hart.live = true → s.hart.level = .supervisor →
        let k := s.bankOf die bank
        (∃ t, exec (.errbankStatRead die bank) s = .next t
          ∧ (bitOf k.stat.toNat 63 = true → s.tenant = 0 ∨ wbits k.stat 51 5 = s.tenant →
              t.bankOf die bank = { k with stat := wset k.stat 60 1 1 })
          ∧ (bitOf k.stat.toNat 63 = false → t = s))
        ∧ exec (.errbankClear die bank) s = .next (if s.tenant = 0 then s.setBank die bank Bank.zero else s)

/-! ## Linkirun and host memory (26) -/

/-- R492, R496 to R502: a flit in order is taken and acknowledged; RD, WR, AT and SADD are one access each of the context that
an export opens, SA moves a staged line, each once, and the response stands in the result cache; RSP and ACK answer what waits
at the source, WDR takes a parked SA out; a window with a request not acknowledged, or whose route is down, moves to its next
route, or its destination is unreachable. R503, R389: a host request reads or writes device memory, and a drive's write lands
at its place. Model's choice: packet places are log 50, the base of an export is the free value of log 52; flits out of order
and retraining are log 51, when a destination is unreachable is log 54, what a host request reaches and waits for is log 57,
and what a store with poison brings is log 31. -/
def Obligations.RemoteAndHostAccess : Prop :=
  ∀ (s : State) (port : Nat),
    let pt := s.portOf port
    (s.portExists port = true →
      (∃ t, exec (.linkDown port) s = .next t ∧ t = { s with fabric := t.fabric }
        ∧ t.fabric = { s.fabric with ports := Table.put Port.reset port { pt with up := false } s.fabric.ports })
      ∧ (pt.up = false → ∃ t, exec (.linkRetrain port) s = .next t ∧ t = { s with fabric := t.fabric }
          ∧ t.fabric.ports = Table.put Port.reset port { Port.reset with up := true, errs := pt.errs } s.fabric.ports)
      ∧ ∀ flit, pt.up = true →
          (flit.length ≠ 256 ∨ ofBytes (flit.drop 248) ≠ (crc64 (flit.take 248)).toNat →
            ∃ f, exec (.flitReceive port flit) s = .next { s with out := s.out ++ [.flit port f] } ∧ bitOf (ofBytes (f.take 8)) 39 = true
              ∧ wbits (wordAt f 0) 40 12 = pt.lack % 4096)
          ∧ (flit.length = 256 → ofBytes (flit.drop 248) = (crc64 (flit.take 248)).toNat → wbits (wordAt flit 0) 39 1 = 0 →
              ∃ t, exec (.flitReceive port flit) s = .next t ∧ t.mem = s.mem ∧ t.hart = s.hart
                ∧ (t.portOf port).lack = (if wbits (wordAt flit 0) 52 12 = (pt.lack + 1) % 4096 then (pt.lack + 1) % 4096
                    else pt.lack)))
    ∧ (∀ p ctx l, s.calm →
        let w := s.remoteWho p ctx
        let va := Config.exportBase p.src p.win + p.off
        let o := p.memOp va
        ∀ ps, OpsPass s w [o] l → l = [(o, ps)] →
          let old := (s.markOps l).bytesAt ps
          ∀ i type, (i = .rd port ∧ type = 1) ∨ (i = .wr port ∧ type = 2 ∧ p.stat ≠ causePoison) ∨ (i = .atomicRemote port ∧ type = 3)
              ∨ (i = .sadd port ∧ type = 8) → s.Request port type ctx p →
            ∃ t, exec i s = .next t ∧ Served s t p (if type = 1 ∨ type = 3 then some old else none) ∧ t.hart = s.hart
              ∧ SameBytesBut s t l (placesOf l)
              ∧ (∀ bs, o.act = .store bs → t.Holds ps bs)
              ∧ ∀ fn b c, o.act = .amo fn b c → t.Holds ps (toBytes (amoNew fn o.n (ofBytes old) b c) o.n))
    ∧ (∀ p q ctx img, s.calm → s.Request port 4 ctx p → p.tc = 0 →
        let w := s.remoteWho p ctx
        let va : Int := (Config.exportBase p.src p.win + p.off : Nat)
        let kind := p.op / 64
        let n := sizeBytes (p.op % 4)
        let e := tableEntry img (p.op / 4 % 16)
        let line := q.pa / 64
        let st := (s.metaOf line).state
        va % n = 0 → s.checkPart [] ctx w.level .load va n = .ok q → q.isRemote = false → q.mig = false →
        s.foreignLine ctx line = false → s.tableAt ctx line = some img → entryV e = true → entryAdmits e kind = true →
        (entryFrom e = 15 ∨ entryFrom e = st.toNat) → (∃ r, s.checkPart [] ctx w.level .store va n = .ok r) →
        kind ≠ 1 → (kind = 0 → s.linePoisoned line = false) →
        ∃ t, exec (.sa port) s = .next t ∧ t.hart = s.hart
          ∧ Served s t p (some (if kind = 0 then s.readPhys q.pa n else toBytes st.toNat 8))
          ∧ (t.metaOf line).state = (if entryTo e = 15 then st else BitVec.ofNat 4 (entryTo e)))
    ∧ (∀ bs p, pt.headPacket = some bs → Packet.parse bs = p →
        (p.type = 5 → p.opnd.toNat < 2 → ∃ t, exec (.rsp port) s = .next t ∧ t.mem = s.mem ∧ t.hart = s.hart
          ∧ t.remotes = s.remotes.map (fun r =>
              if r.dst = p.src ∧ r.cls = p.opnd.toNat ∧ r.seq = p.seq ∧ r.answer = none then
                { r with answer := some (p.stat, p.payload) } else r)
          ∧ (t.srcWin p.src p.opnd.toNat).awaited = (s.srcWin p.src p.opnd.toNat).awaited.filter (· ≠ p.seq))
        ∧ (p.type = 6 → p.seq < 2 → ∃ t, exec (.ack port) s = .next t ∧ t.mem = s.mem ∧ t.hart = s.hart
            ∧ (t.srcWin p.src p.seq).tries = 0
            ∧ (t.srcWin p.src p.seq).retry = (s.srcWin p.src p.seq).retry.filter (fun x => !seqBelow x.1 p.opnd.toNat)
            ∧ (t.srcWin p.src p.seq).kept = (s.srcWin p.src p.seq).kept ++ (s.srcWin p.src p.seq).retry.filter fun x =>
                seqBelow x.1 p.opnd.toNat && (s.srcWin p.src p.seq).awaited.contains x.1)
        ∧ (p.type = 7 → (∃ x ∈ s.parks, x.agent = .remote p.src 0 p.seq) → ∃ t, exec (.wdr port) s = .next t ∧ t.mem = s.mem
            ∧ t.hart = s.hart ∧ t.parks = s.parks.filter (fun x => x.agent ≠ .remote p.src 0 p.seq)))
    ∧ (∀ dst cls, cls < 2 → dst ∉ s.fabric.unreach → (s.srcWin dst cls).dst = dst → (s.srcWin dst cls).cls = cls →
        let w := s.srcWin dst cls
        w.retry ≠ [] ∨ s.routeBroken w = true →
        ∃ t, exec (.routeMove dst cls) s = .next t
          ∧ (3 * s.validRoutes dst ≤ w.tries + 1 → dst ∈ t.fabric.unreach)
          ∧ ∀ i, w.tries + 1 < 3 * s.validRoutes dst → s.nextRoute dst (w.route + 1) = some i → t.mem = s.mem ∧ t.hart = s.hart
              ∧ (t.srcWin dst cls).route = i ∧ (t.srcWin dst cls).tries = w.tries + 1)
    ∧ (∀ dev, exec (.destinationMarkClear dev) s =
        .next { s with fabric := { s.fabric with unreach := s.fabric.unreach.filter (· ≠ dev) } })
    ∧ (∀ r : HostReq, s.calm → r.fn < 32 →
        (r.write = true → r.data ≠ [] → s.hostReaches r r.data.length = true →
          ∃ t, exec (.hostMemRequest r) s = .next t ∧ t.hart = s.hart
            ∧ (s.hostStalls r r.data.length = false → t.mem = Memory.writeBytes s.mem r.addr r.data ∧ t.migs = s.migs)
            ∧ ∀ m ∈ t.migs, m ∈ s.migs ∧ (r.addr + r.data.length ≤ m.old ∨ m.old + m.size ≤ r.addr))
        ∧ (r.write = false → r.len ≠ 0 → s.hostReaches r r.len = true →
            exec (.hostMemRequest r) s = .next { s with
              out := s.out ++ [.hostReply r.fn (s.readPhys r.addr r.len) (s.poisoned r.addr r.len)] })
        ∧ (r.write = false → r.len ≠ 0 → s.hostReaches r r.len = false → r.cxl = false →
            exec (.hostMemRequest r) s = .next { s with out := s.out ++ [.hostReply r.fn (List.replicate r.len 0) true] }))
    ∧ ∀ c id off data l, s.calm → s.AtWork c id 6 → c.left = [] → c.under = none → data ≠ [] →
        off + data.length ≤ cwSize c.w →
        OpsPass s c.who [statusStore (cwDst c.w + off) data] l →
        ∃ t, exec (.peerApertureWrite id off data) s = .next t ∧ t.HoldsAll l ∧ SameBytesBut s t l (placesOf l)
          ∧ t.cmds = s.cmds.map fun x =>
              if x.id = id then
                { c.wroteAt (cwDst c.w + off) data.length with
                  filled := addRange c.filled (cwDst c.w + off, data.length) }.close
              else x

/-! ## Mailbox, host queues (24, 26) -/

/-- R463, R446, R464, R468, R495, R496, R504, R513: a request in a tenant's mailbox is done, or refused with no effect, and is
answered. R505, R506: a host queue is enabled for a context of its tenant, its TAIL goes to PTAIL while it is out, and an
entry launches its record, with STATUS written before HEAD moves on. Model's choice: codes in corners are logs 55 and 56; the
layout of a report is log 43; the bound on the power is log 58, and that the pages of control lines have A and D set is log
74. -/
def Obligations.MailboxAndQueues : Prop :=
  ∀ (s : State) (fn : Nat),
    (∀ (ctx : Nat) (ws : List Word),
      let c := s.ctxOf ctx
      let w (i : Nat) := ws.getD i 0
      let n := (w 0).toNat
      (s.Asked fn 1 ctx ws →
        (c.valid = false → s.mgmt.life ≠ 0 → entryOk (ws.take 5) = true → (s.setCtx ctx (newCtx fn (ws.take 5))).poolMapped ctx = true →
          ∃ t, exec (.createReq fn) s = .next t ∧ Answered t fn 1 true ∧ t.mem = s.mem ∧ t.ctxOf ctx = newCtx fn (ws.take 5))
        ∧ (c.valid = true ∨ s.mgmt.life = 0 ∨ entryOk (ws.take 5) = false →
            ∃ t, exec (.createReq fn) s = .next t ∧ Answered t fn 1 false ∧ t.ctxs = s.ctxs))
      ∧ (s.Asked fn 2 ctx ws → s.owns fn ctx = true → 9 ≤ n → n ≤ 16 →
          ∃ t, exec (.settvl fn) s = .next t ∧ Answered t fn 2 true ∧ t.ctxs = (s.setCtx ctx { c with w0 := wset c.w0 48 5 n }).ctxs)
      ∧ (s.Asked fn 3 ctx ws → s.owns fn ctx = true → c.ended = false → s.seqsOf ctx = [] → (∀ t ∈ s.tasks, t.ctx ≠ ctx) →
          ∃ t, exec (.suspend fn) s = .next t ∧ Answered t fn 3 true ∧ (t.ctxOf ctx).suspended = true)
      ∧ (s.Asked fn 4 ctx ws → s.owns fn ctx = true →
          ∃ t, exec (.resume fn) s = .next t ∧ Answered t fn 4 true ∧ (t.ctxOf ctx).suspended = false
            ∧ ∀ x ∈ t.saved, x.ctx = ctx → x.halted = false)
      ∧ (s.Asked fn 5 ctx ws → s.owns fn ctx = true → n < 16 →
          ∃ t, exec (.setbp fn) s = .next t ∧ Answered t fn 5 true
            ∧ (t.ctxOf ctx).bps = Table.put 0 n (w 1 &&& 0xC1FFFFFFFFFFFFF8#64) c.bps)
      ∧ (s.Asked fn 6 ctx ws → s.owns fn ctx = true → Table.wf Ctx.none s.ctxs = true →
          ∃ t, exec (.teardown fn) s = .next t ∧ Answered t fn 6 true ∧ (t.ctxOf ctx).valid = false
            ∧ (∀ x ∈ t.saved, x.ctx ≠ ctx) ∧ (∀ x ∈ t.tasks, x.ctx ≠ ctx) ∧ ∀ x ∈ t.launches, x.ctx ≠ ctx)
      ∧ (s.Asked fn 7 ctx ws → ∃ t, exec (.attest fn) s = .next t ∧ Answered t fn 7 true ∧ t.hart = s.hart
          ∧ t.mem = Memory.writeBytes s.mem (hostBase + (w 4).toNat) (s.report fn (ws.take 4)))
      ∧ (s.Asked fn 8 ctx ws →
          let e := wset (w 1) 58 5 fn
          n < 256 → ((s.winOf n).1.getLsbD 63 = false ∨ wbits (s.winOf n).1 58 5 = fn) → wbits e 30 18 = 0 → wbits (w 2) 57 7 = 0 →
          wbits (w 2) 0 14 = 0 → (e.getLsbD 63 = false ∨ (1 ≤ wbits e 0 30 ∧ wbits e 0 30 ≤ 2 ^ 29)) →
          ∃ t, exec (.winmap fn) s = .next t ∧ Answered t fn 8 true ∧ t.fabric.wins = Table.put (0, 0) n (e, w 2) s.fabric.wins)
      ∧ (s.Asked fn 9 ctx ws → n < 256 → wbits (w 1) 0 33 = 0 → s.owns fn (wbits (w 1) 33 12) = true →
          (Table.get 0 n s.fabric.exports).getLsbD 63 = false →
          ∃ t, exec (.exportReq fn) s = .next t ∧ Answered t fn 9 true ∧ t.fabric.exports = Table.put 0 n (w 1) s.fabric.exports)
      ∧ (s.Asked fn 10 ctx ws → fn = 0 → ctx = 0 →
          let ok := 72 ≤ wbits (w 0) 48 7 ∧ wbits (w 0) 48 7 ≤ 120 ∧ 80 ≤ wbits (w 0) 40 8 ∧ wbits (w 0) 40 8 ≤ 100
          ∃ t, exec (.pwrset fn) s = .next t ∧ Answered t fn 10 true
            ∧ t.mgmt.limit = (if ok then wbits (w 0) 48 7 else s.mgmt.limit)
            ∧ t.mgmt.tthr = (if ok then wbits (w 0) 40 8 else s.mgmt.tthr)
            ∧ t.mgmt.power.toNat ≤ 25 * max s.mgmt.held t.mgmt.limit)
      ∧ (s.Asked fn 11 ctx ws → ctx = 0 →
          ∃ t, exec (.pwrget fn) s = .next t ∧ Answered t fn 11 true ∧ t.mgmt.limit = s.mgmt.limit ∧ t.mem = s.mem
            ∧ t.mgmt.power.toNat ≤ 25 * max s.mgmt.held s.mgmt.limit))
    ∧ ∀ q, fn < 32 → q < 32 →
        let x := s.queueOf fn q
        (∀ v : Word,
          let lsz := wbits v 0 5
          (v.getLsbD 63 = true → s.owns fn (wbits v 16 12) = true → 4 ≤ lsz → lsz ≤ 16 →
            ∃ t, exec (.qctlWrite fn q v) s = .next t ∧ (t.queueOf fn q).qctl = v &&& 0x800000000FFF001F#64)
          ∧ (v.getLsbD 63 = false ∨ s.owns fn (wbits v 16 12) = false ∨ lsz < 4 ∨ 16 < lsz →
              exec (.qctlWrite fn q v) s = .next (s.setQueue fn q { x with qctl := v &&& 0x000000000FFF001F#64 }))
          ∧ exec (.hostqTailWrite fn q v) s = .next ((s.setQueue fn q
              (if x.out then { x with ptail := v.toNat % 65536, tvalid := true } else { x with tail := v.toNat % 65536 })).useQueue
              fn q))
        ∧ (x.en = true → x.out = false → s.idlest = some (fn, q) → x.owed = none →
            (∀ r ∈ s.remotes, r.agent ≠ .queue fn q) → (∀ r ∈ s.flights, r.agent ≠ .queue fn q) →
            exec (.hostqSwitchOut fn q) s = .next (s.setQueue fn q { x with out := true, tvalid := false, ptail := 0 }))
        ∧ (x.en = true → x.out = true → (s.ctxOf x.ctx).suspended = false → s.queuesIn < 128 →
            exec (.hostqSwitchIn fn q) s = .next ((s.setQueue fn q
              { x with out := false, tail := if x.tvalid then x.ptail else x.tail, tvalid := false, ptail := 0 }).useQueue fn q))
        ∧ (s.calm → x.en = true → x.out = false → (s.ctxOf x.ctx).valid = true → (s.ctxOf x.ctx).suspended = false →
            (s.ctxOf x.ctx).ended = false → x.owed = none → x.head % x.entries ≠ x.tail % x.entries →
            let w := s.queueWho fn q x.ctx
            let a := x.qbase.toNat + 64 * (x.head % x.entries)
            let op (va n : Nat) : MemOp := { va := (va : Int), n, align := false, strict := true, act := .load, ord := 0, scope := 1 }
            ∀ e ps, s.Reads w [op a 64] [e] → 
              let passes (status : Nat) : Prop := s.Posts w (statusStore (a + 24) (toBytes status 8)) ps
              let next (u t : State) (status : Nat) : Prop :=
                Posted u t ps (toBytes status 8) ∧ (t.queueOf fn q).owed = none ∧ (t.queueOf fn q).head = (x.head + 1) % x.entries ∧ t.hart = s.hart
              (hostEntryBad e = true → passes 7 → ∃ t, exec (.hostqEntry fn q) s = .next t ∧ next s t 7 ∧ t.launches = s.launches)
              ∧ ∀ h r v3 lines, hostEntryBad e = false →
                  let rec_ := wbits (wordAt e 0) 0 57
                  let size := recordSize (wbits (wordAt h 0) 56 8)
                  s.Reads w [op rec_ 8] [h] → size ≠ 0 → s.Reads w [op rec_ size] [r] → toV3 r = .ok v3 →
                  s.checkRecord w.ctx w.level v3 = .ok lines → passes (2 ^ 63 + s.serial) → (∀ p ∈ ps, ∀ k ∈ linesOf p.pa p.len, k ∉ lines.flatten) →
                  ∃ t, exec (.hostqEntry fn q) s = .next t
                    ∧ next (s.markVas w.ctx ((List.range lines.length).flatMap (controlAddrs v3))) t (2 ^ 63 + s.serial)
                    ∧ t.serial = (s.serial + 1) % 2 ^ 48
                    ∧ t.launches.length = s.launches.length + 1)

/-! ## The package (24, 28) -/

/-- R513 to R518, R464 to R470: THERM takes a LIMIT and TTHR in range; a hot die halves the caps of its cores, a trip stops
the package; the management port reads and writes its indexes of Table 28.2; cold reset, a Function Level Reset, a change of
life cycle and a reassigned frame leave nothing of what was there; and plain registers take what is written. Model's choice:
free choices of power and training are log 58; keys, images and measurements are log 8, the packet error code of SMBus is log
72, and the package stop and the events of a reset are log 59. -/
def Obligations.PackageManagement : Prop :=
  ∀ (s : State),
    (∀ v : Word,
      let ok := 72 ≤ wbits v 48 7 ∧ wbits v 48 7 ≤ 120 ∧ 80 ≤ wbits v 40 8 ∧ wbits v 40 8 ≤ 100
      (∃ t, exec (.thermWrite v) s = .next t ∧ t.mem = s.mem ∧ t.hart = s.hart ∧ (¬ ok → t = s)
        ∧ (ok → t.mgmt = { s.mgmt with limit := wbits v 48 7, tthr := wbits v 40 8, held := max s.mgmt.held (wbits v 48 7) })
        ∧ (ok → wbits v 48 7 < s.mgmt.limit → Table.wf Core.reset s.cores = true →
            (∀ n, (t.coreOf n).pcap ≤ (s.coreOf n).pcap ∨ (t.coreOf n).pcap = 512)
            ∧ ((∃ n, n < coreCount ∧ 512 < (s.coreOf n).pcap) → ∃ n, n < coreCount ∧ (t.coreOf n).pcap < (s.coreOf n).pcap)))
      ∧ exec (.deviceNumberWrite v) s = .next
          (if ∃ w ∈ s.fabric.wins, w.2.1.getLsbD 63 = true then s
           else { s with fabric := { s.fabric with devNum := v.toNat % 1024 } })
      ∧ (∀ i, s.mgmt.recovery = false → s.mgmt.life ≠ 3 → i < 8 →
          exec (.mgmtBlockWrite (16 + i) v) s =
            .next (s.setFunc 0 { s.funcOf 0 with mbreq := (s.funcOf 0).mbreq.set i v }))
      ∧ exec (.mgmtBlockWrite 2 v) s = exec (.deviceNumberWrite v) s ∧ exec (.mgmtBlockWrite 3 v) s = exec (.thermWrite v) s
      ∧ (s.mgmt.recovery = false → s.mgmt.life ≠ 3 →
          let f := s.funcOf 0
          let code := wbits (f.mbreq.getD 0 0) 56 8
          (v.getLsbD 0 = false ∨ f.busy = true → exec (.mgmtBlockWrite 32 v) s = .next s)
          ∧ (v.getLsbD 0 = true → f.busy = false → 1 ≤ code → code ≤ 11 → s.mgmt.boot = .ready →
              exec (.mgmtBlockWrite 32 v) s = .next (s.setFunc 0 { f with busy := true }))
          ∧ (v.getLsbD 0 = true → f.busy = false → code = 0 ∨ 11 < code →
              ∃ t, exec (.mgmtBlockWrite 32 v) s = .next t ∧ Answered t 0 code false ∧ t.mem = s.mem ∧ t.hart = s.hart)
          ∧ exec (.mgmtBlockWrite 33 v) s = .next (if v.getLsbD 1 then s.setFunc 0 { f with done := false } else s))
      ∧ (∀ ix, ix ≠ 2 → ix ≠ 3 → ¬ (16 ≤ ix ∧ ix < 24) → ix ≠ 32 → ix ≠ 33 → exec (.mgmtBlockWrite ix v) s = .next s)
      ∧ (exec (.registerWrite .quantum v) s = .next (if 2 ^ 18 ≤ v.toNat ∧ v.toNat ≤ 2 ^ 24 then { s with quantum := v.toNat } else s))
      ∧ (exec (.registerWrite .grace v) s = .next (if 4096 ≤ v.toNat ∧ v.toNat ≤ 1048576 then { s with grace := v.toNat } else s))
      ∧ ∀ n : BitVec 12, s.hart.live = true → csrListed n.toNat = true → (csrSupervisor n.toNat = true → s.hart.level = .supervisor) →
          exec (.registerWrite (.sys n) v) s = .next (s.writeCsr n.toNat v v))
    ∧ (∀ die temp, die < 4 → temp < 110 → Table.wf Core.reset s.cores = true →
        ∃ t, exec (.thermalThrottle die temp) s = .next t ∧ t.mem = s.mem ∧ t.hart = s.hart
          ∧ t.mgmt = { s.mgmt with temps := s.mgmt.temps.set die temp }
          ∧ (s.mgmt.tthr ≤ temp → ∀ c, (t.coreOf c).pcap =
              if c / 64 = die then max ((s.coreOf c).pcap / 2) 512 else (s.coreOf c).pcap))
    ∧ (∀ i die temp, i = .thermalTrip die
          ∨ (i = .thermalThrottle die temp ∧ 110 ≤ temp ∧ temp < 256 ∧ (s.mgmt.trip = false ∨ s.mgmt.temps.getD die 0 < 110)) →
        die < 4 →
        ∃ t, exec i s = .next t ∧ t.stopped = true ∧ t.mgmt.trip = true ∧ wbits t.mgmt.evt 56 8 = 6)
    ∧ (∃ t, exec .serviceFirmwareFault s = .next t ∧ t.stopped = true)
    ∧ exec .evtRead s = .next { s with
        out := s.out ++ [.smbus s.mgmt.evt (s.readPec 5 s.mgmt.evt)] ++ (if s.mgmt.evt = 0 then [] else [.alert false])
        mgmt := { s.mgmt with evt := 0 } }
    ∧ (∀ ix, ix ≤ 2 →
        let v := if ix = 0 then s.caps0 else if ix = 1 then BitVec.ofNat 64 s.mgmt.life else BitVec.ofNat 64 s.fabric.devNum
        ∃ t, exec (.mgmtBlockRead ix) s = .next t ∧ t.mem = s.mem ∧ t.hart = s.hart ∧ t.out = s.out ++ [.smbus v (s.readPec ix v)])
    ∧ (∀ ix, 5 < ix → s.mgmt.recovery = false → s.mgmt.life ≠ 3 →
        let f := s.funcOf 0
        let v := if 24 ≤ ix ∧ ix < 32 then f.mbrsp.getD (ix - 24) 0
          else if ix = 33 then BitVec.ofNat 64 ((if f.done then 2 else 0) + if f.busy then 1 else 0) else 0
        ∃ t, exec (.mgmtBlockRead ix) s = .next t ∧ t.mem = s.mem ∧ t.hart = s.hart ∧ t.out = s.out ++ [.smbus v (s.readPec ix v)])
    ∧ (∃ t v, exec (.mgmtBlockRead 3) s = .next t ∧ t.mem = s.mem ∧ t.hart = s.hart ∧ t.out = s.out ++ [.smbus v (s.readPec 3 v)]
        ∧ v.getLsbD 63 = s.mgmt.trip ∧ wbits v 48 7 = s.mgmt.limit % 128 ∧ wbits v 40 8 = s.mgmt.tthr % 256
        ∧ ∀ die, die < 4 → wbits v (8 * die) 8 = s.mgmt.temps.getD die 0 % 256)
    ∧ (∀ ix, 5 < ix → s.mgmt.recovery = true ∨ s.mgmt.life = 3 → exec (.mgmtBlockRead ix) s = .next s)
    ∧ (∃ t, exec (.mgmtBlockRead 4) s = .next t ∧ t.mem = s.mem ∧ t.hart = s.hart
        ∧ t.mgmt.power.toNat ≤ 25 * max s.mgmt.held s.mgmt.limit
        ∧ t.out = s.out ++ [.smbus t.mgmt.power (s.readPec 4 t.mgmt.power)])
    ∧ (∃ t, exec .coldReset s = .next t ∧ t.mgmt.boot = .reset ∧ t.mgmt.keys = deriveKeys s.mgmt.life
        ∧ (t.mgmt.recovery = false ↔ imagePasses (2 * s.tick) = true ∧ imagePasses (2 * s.tick + 1) = true)
        ∧ (t.mgmt.recovery = false → t.mgmt.meas = bootMeasures (2 * s.tick))
        ∧ t.part = s.part ∧ t.mgmt.life = s.mgmt.life ∧ t.stopped = false ∧ t.hart.live = false
        ∧ t.rest = [] ∧ t.ctxs = [] ∧ t.launches = [] ∧ t.tasks = [] ∧ t.cmds = [] ∧ t.lineMeta = []
        ∧ ∀ a die core, homeOf a = .dram die ∨ homeOf a = .sram core → Memory.read t.mem a = 0)
    ∧ (∀ fn, 0 < fn → fn < 32 → Table.wf Ctx.none s.ctxs = true →
        ∃ t, exec (.functionLevelReset fn) s = .next t ∧ ∀ ctx, t.owns fn ctx = false)
    ∧ (s.mgmt.life < 3 → Table.wf Ctx.none s.ctxs = true →
        ∃ t, exec (.lifeCycleChange ⟨true, true⟩) s = .next t ∧ t.mgmt.life = s.mgmt.life + 1 ∧ t.mgmt.boot = .wipe
          ∧ t.mgmt.keys = deriveKeys t.mgmt.life ∧ (∀ ctx, (t.ctxOf ctx).valid = false)
          ∧ t.lineMeta = [] ∧ ∀ a die core, homeOf a = .dram die ∨ homeOf a = .sram core → Memory.read t.mem a = 0)
    ∧ (∀ token : LifeToken, token.rsa = false ∨ token.slh = false ∨ 3 ≤ s.mgmt.life → exec (.lifeCycleChange token) s = .next s)
    ∧ ∀ frame tenant, tenant < 32 → Table.wf 0 s.frames = true → s.frameTenant (16384 * frame) ≠ tenant →
        (∃ k, homeOf (16384 * frame) = .dram k ∨ homeOf (16384 * frame) = .sram k) →
        ∃ t, exec (.frameReassign frame tenant) s = .next t ∧ t.hart = s.hart ∧ t.frameTenant (16384 * frame) = tenant
          ∧ (∀ a, a / 16384 = frame → Memory.read t.mem a = 0) ∧ ∀ a, a / 16384 ≠ frame → Memory.read t.mem a = Memory.read s.mem a

/-! ## Encoding, the step, reset -/

/-- 04 Tables 4.1, 4.6, 4.7: the word of a well-formed instruction decodes to it, with every operand (a close of a chute is
spelled by the word of its open), and a word that decodes is the word of that instruction, which is well formed. -/
def Obligations.EncodeDecodeAgree : Prop :=
  (∀ (i : Instr) (w : Word), encode i = some w → i.wf = true → decode w = .ok
    (match i with
     | .chputClose f => .chputOpen f
     | .chgetClose f => .chgetOpen f
     | i => i))
  ∧ ∀ (w : Word) (i : Instr), decode w = .ok i → encode i = some w ∧ i.wf = true

/-- Words that the spec writes out (04 R96 and Table 4.8, 06 R136 and R138, 09 R224, 11 R248, 15 R333, 17 R359, 22 R449)
decode to the instructions that it gives for them, or to its causes. -/
def Obligations.DecodedWords : Prop :=
  decode 0x0220A60000000308 = .ok (.bext { d := 5, a := 6, b := 0, imm := 12 * 64 + 8 })
  ∧ decode 0x0500BFFFFFFFFFFF = .ok (.li { d := 5, imm := -1 })
  ∧ decode 0x1E00000000000000 = .ok (.nop { d := 0, a := 0, b := 0, c := 0 })
  ∧ decode 0x2000221815100000 =
      .ok (.vaddVv { d := 1, a := 2, b := 3, c := 0, msk := 2, mn := 1, ew := 2, ty := 1, sat := 0, rm := 0, imm := 0 })
  ∧ decode 0x4314E30000000000 =
      .ok (.mpopc { d := 7, a := 3, b := 0, c := 0, msk := 0, mn := 0, ew := 0, ty := 0, sat := 0, rm := 0, imm := 0 })
  ∧ decode 0x6200643801000000 =
      .ok (.vsadd { d := 3, a := 4, b := 7, c := 0, msk := 0, mn := 0, ew := 2, ord := 0, scope := 0, ff := 0, off := 0 })
  ∧ decode 0x760041281C0E0000 = .ok (.cselScalar { d := 2, a := 1, b := 5, c := 0, cmp := 7, kind := 0, lreg := 7 })
  ∧ decode 0x8000A60000000000 = .ok (.tenq { d := 5, a := 6, b := 0, c := 0 })
  ∧ decode 0x8800482800000000 = .ok (.batch { d := 2, a := 8, b := 5, msk := 0, mn := 0 })
  ∧ decode 0x9110000000000001 = .ok (.brk { d := 0, a := 0, sreg := 0, imm := 1 })
  ∧ decode 0x0100A63800000001 = .error .rsvdField
  ∧ decode 0x0160A63800000000 = .error .illegal
  ∧ decode 0x2400853001300000 = .error .unimplCombo
  ∧ decode 0x2400853001400000 = .error .illegal

/-- R97, R98, R144, R442: when the next step is an instruction of the acting sequencer, the fetch of a local, unpoisoned word
gives the bytes at the PC, whose page has A set; a step whose word decodes is `exec` of the instruction; the first instruction
that touches vector state under another owner is preceded by VFIRST; a word that does not decode takes the trap of its cause,
with TVAL the word; and a fetch that fails a check takes its trap at the PC. Model's choice: what else can bring a step is log
9. -/
def Obligations.StepRunsDecoded : Prop :=
  ∀ (s : State), s.AtFetch →
    let z := { s with rix := 0 }
    let access := s.checkAccess s.hart.ctx s.hart.level .fetch false true s.hart.pc.toNat 8
    (∀ ps, s.calm → access = .ok ps → (∀ p ∈ ps, p.isRemote = false ∧ s.poisoned p.pa p.len = false) →
      fetchWord z = (.ok (BitVec.ofNat 64 (ofBytes ((s.markParts false ps).bytesAt ps))),
        ((z.markParts false ps).askParts s.hart.ctx false ps).settle s.fetcher.agent))
    ∧ (∀ w t, fetchWord z = (.ok w, t) →
        (∀ i, decode w = .ok i →
          step s = if touchesVec w && t.hart.needsVfirst then exec .vfirst { t with rix := 0 } else exec (t.instrOf i) t)
        ∧ ∀ e, decode w = .error e →
            let u := { t with rix := 0 }
            step s = exec (.nonInstructionWord w) u
            ∧ (u.canTrap → TrapsHere (.nonInstructionWord w) u
                (match e with
                 | .illegal => 1
                 | .rsvdField => 2
                 | .unimplCombo => 3) w))
    ∧ (∀ st t, fetchWord z = (.error st, t) → step s = exec .fetchFault z)
    ∧ ∀ c v, access = .error (c, v) → c ≠ causePoison → s.canTrap → TrapsHere .fetchFault z c v

/-- The tables of a state stay in canonical form over every step, so that equal contents are equal data: an invariant that the
statements about memory, lines, contexts, cores and frames take as a premise. Model's choice: the canonical form is the
model's own. -/
def Obligations.StepKeepsTablesCanonical : Prop :=
  ∀ (s t : State), s.Canonical → step s = .next t → t.Canonical

/-- R470, R515: after reset no context exists, no sequencer has an instance, every byte and every line's metadata is zero,
every register of a sequencer is zero, with HWM.ZRST set and 32 vector registers selected, and the tables are canonical;
nothing runs until work comes from outside. R437, R479, R501, R514: PREEMPT_GRACE, the scrub period, ACKTMO, LIMIT and TTHR
hold their reset values. Model's choice: values with no stated reset are logs 1 to 9. -/
def Obligations.ResetState : Prop :=
  State.reset.Canonical
  ∧ (∀ n, State.reset.ctxOf n = Ctx.none)
  ∧ (∀ core sq, (State.reset.hartAt core sq).live = false ∧ (State.reset.hartAt core sq).loops = []
      ∧ (State.reset.hartAt core sq).vec.hwm = 0x8000000000000000 ∧ (State.reset.hartAt core sq).vec.nreg = 2
      ∧ (∀ (n : Nat) (v : Word), (State.reset.hartAt core sq).g[n]? = some v → v = 0)
      ∧ (∀ (n : Nat) (v : BitVec 65536), (State.reset.hartAt core sq).vec.v[n]? = some v → v = 0)
      ∧ (∀ (n : Nat) (v : BitVec 16384), (State.reset.hartAt core sq).vec.m[n]? = some v → v = 0)
      ∧ (∀ (n : Nat) (v : BitVec 1024), (State.reset.hartAt core sq).vec.pois[n]? = some v → v = 0)
      ∧ (∀ (n : Nat) (v : BitVec 512), (State.reset.hartAt core sq).cols[n]? = some v → v = 0)
      ∧ let h := State.reset.hartAt core sq
        h.pc = 0 ∧ h.rmode = 0 ∧ h.seed = 0 ∧ h.wid = 0 ∧ h.wfmt = 0 ∧ h.parklim = 0 ∧ h.wmark = none ∧ h.cause = 0 ∧ h.epc = 0
        ∧ h.tvec = 0 ∧ h.tval = 0 ∧ h.cycle = 0 ∧ h.lpart = 0 ∧ h.gcap = 0 ∧ h.group = none ∧ h.vec.vl = 0 ∧ h.vec.vstart = 0)
  ∧ (∀ a, Memory.read State.reset.mem a = 0)
  ∧ (∀ line, State.reset.metaOf line = Meta.zero)
  ∧ State.reset.grace = 65536 ∧ State.reset.reliab.scrubPeriod = 2 ^ 40 ∧ State.reset.fabric.ackTmo = 2 ^ 16
  ∧ State.reset.mgmt.limit = 120 ∧ State.reset.mgmt.tthr = 95
  ∧ step State.reset = .next State.reset
end

