-- ==== Sys2Proof/Laws/Monad.lean ====
section
/-! SUPPORT. What each step of a computation over the package does, so that a computation is read off without unfolding its
plumbing. -/
set_option Elab.async false
namespace Sys2Proof.Machine

/-- A sequence: the second part from where the first ends, or the stop of the first. -/
@[simp] theorem M.bind_run {α β : Type} (x : M α) (f : α → M β) (s : State) :
    (x >>= f) s =
      match x s with
      | (.ok a, t) => f a t
      | (.error e, t) => (.error e, t) := by
  rcases h : x s with ⟨a | a, t⟩
  all_goals
    show (match x s with | (r, u) => (ExceptT.bindCont f r : StateM State _) u) = _
    rw [h]
    rfl

@[simp] theorem M.map_run {α β : Type} (g : α → β) (x : M α) (s : State) :
    (g <$> x) s =
      match x s with
      | (.ok a, t) => (.ok (g a), t)
      | (.error e, t) => (.error e, t) := by
  rw [map_eq_pure_bind, M.bind_run]
  rfl

@[simp] theorem M.pure_run {α : Type} (a : α) (s : State) : (pure a : M α) s = (.ok a, s) := rfl
@[simp] theorem M.get_run (s : State) : (get : M State) s = (.ok s, s) := rfl
@[simp] theorem M.set_run (s t : State) : (set t : M PUnit) s = (.ok ⟨⟩, t) := rfl
@[simp] theorem M.modify_run (f : State → State) (s : State) : (modify f : M PUnit) s = (.ok ⟨⟩, f s) := rfl
@[simp] theorem M.throw_run {α : Type} (e : Stop) (s : State) : (throw e : M α) s = (.error e, s) := rfl
@[simp] theorem M.raise_run {α : Type} (c : Nat) (v : Word) (s : State) :
    (raise c v : M α) s = (.error (.trap c v 0 false), s) := rfl
@[simp] theorem M.change_run (f : State → State) (s : State) : change f s = (.ok ⟨⟩, f s) := rfl
@[simp] theorem M.complete_run (s : State) : complete s = (.ok ⟨⟩, s.advance) := rfl
@[simp] theorem M.ite_run {α : Type} (c : Prop) [Decidable c] (x y : M α) (s : State) :
    (if c then x else y) s = if c then x s else y s := by split <;> rfl

/-- A sequence whose first part succeeds. -/
theorem M.bind_ok {α β : Type} {x : M α} {f : α → M β} {s t : State} {a : α} (h : x s = (.ok a, t)) :
    (x >>= f) s = f a t := by rw [M.bind_run, h]

/-- A sequence whose first part stops short. -/
theorem M.bind_error {α β : Type} {x : M α} {f : α → M β} {s t : State} {e : Stop} (h : x s = (.error e, t)) :
    (x >>= f) s = (.error e, t) := by rw [M.bind_run, h]

/-- An instruction whose computation succeeds. -/
theorem State.run_ok {s t : State} {w : Word} {m : M Unit} (h : m s = (.ok (), t)) : s.run w m = .next t.endInstr := by
  unfold State.run; rw [h]

/-- An instruction whose computation stops short, with no precise cause. -/
theorem State.run_error {s t : State} {w : Word} {m : M Unit} {e : Stop} (h : m s = (.error e, t))
    (he : ∀ c v sub r, e ≠ .trap c v sub r) : s.run w m = .next (s.stopShort w e t) := by
  unfold State.run; rw [h]
  cases e with
  | trap c v sub r => exact absurd rfl (he c v sub r)
  | _ => rfl

/-- DAS asks for nothing of the next instruction but of a fault of a vector memory or column instruction (22 R435). -/
theorem awaitNext_idle {w : Word} {c : Nat} {r : Bool} (h : dasAsks w c r = false) (s : State) :
    awaitNext w c r s = (.ok (), s) := by
  unfold awaitNext
  simp [h]

/-- An instruction that ends with a precise cause, where nothing is asked of the next one. -/
theorem State.run_trap {s t : State} {w v : Word} {m : M Unit} {c sub : Nat} {r : Bool} (h : m s = (.error (.trap c v sub r), t))
    (hd : dasAsks w c r = false) :
    s.run w m = .next (s.stopShort w (.trap c v sub r) { t with hart := s.hart, rix := 0 }) := by
  unfold State.run; rw [h]
  simp only [awaitNext_idle hd]

/-- An instruction as a computation always gives a next state. -/
theorem State.run_next (s : State) (w : Word) (m : M Unit) : ∃ t, s.run w m = .next t := by
  unfold State.run
  split
  · exact ⟨_, rfl⟩
  · split <;> exact ⟨_, rfl⟩
  · exact ⟨_, rfl⟩

end Sys2Proof.Machine
end

