-- ==== Sys2Proof/Laws/State.lean ====
section
/-! SUPPORT. What each update of the state leaves as it was, and what it gives: one lemma per field and update. -/
set_option Elab.async false
namespace Sys2Proof.Machine

/-! ## `State.setG` -/

@[simp] theorem State.setG_part (s : State) (r : BitVec 5) (v : Word) : (s.setG r v).part = s.part := rfl
@[simp] theorem State.setG_rest (s : State) (r : BitVec 5) (v : Word) : (s.setG r v).rest = s.rest := rfl
@[simp] theorem State.setG_saved (s : State) (r : BitVec 5) (v : Word) : (s.setG r v).saved = s.saved := rfl
@[simp] theorem State.setG_ctxs (s : State) (r : BitVec 5) (v : Word) : (s.setG r v).ctxs = s.ctxs := rfl
@[simp] theorem State.setG_launches (s : State) (r : BitVec 5) (v : Word) : (s.setG r v).launches = s.launches := rfl
@[simp] theorem State.setG_serial (s : State) (r : BitVec 5) (v : Word) : (s.setG r v).serial = s.serial := rfl
@[simp] theorem State.setG_tasks (s : State) (r : BitVec 5) (v : Word) : (s.setG r v).tasks = s.tasks := rfl
@[simp] theorem State.setG_clusters (s : State) (r : BitVec 5) (v : Word) : (s.setG r v).clusters = s.clusters := rfl
@[simp] theorem State.setG_cmds (s : State) (r : BitVec 5) (v : Word) : (s.setG r v).cmds = s.cmds := rfl
@[simp] theorem State.setG_cmdId (s : State) (r : BitVec 5) (v : Word) : (s.setG r v).cmdId = s.cmdId := rfl
@[simp] theorem State.setG_cores (s : State) (r : BitVec 5) (v : Word) : (s.setG r v).cores = s.cores := rfl
@[simp] theorem State.setG_mem (s : State) (r : BitVec 5) (v : Word) : (s.setG r v).mem = s.mem := rfl
@[simp] theorem State.setG_lineMeta (s : State) (r : BitVec 5) (v : Word) : (s.setG r v).lineMeta = s.lineMeta := rfl
@[simp] theorem State.setG_parks (s : State) (r : BitVec 5) (v : Word) : (s.setG r v).parks = s.parks := rfl
@[simp] theorem State.setG_adds (s : State) (r : BitVec 5) (v : Word) : (s.setG r v).adds = s.adds := rfl
@[simp] theorem State.setG_migs (s : State) (r : BitVec 5) (v : Word) : (s.setG r v).migs = s.migs := rfl
@[simp] theorem State.setG_pool (s : State) (r : BitVec 5) (v : Word) : (s.setG r v).pool = s.pool := rfl
@[simp] theorem State.setG_frames (s : State) (r : BitVec 5) (v : Word) : (s.setG r v).frames = s.frames := rfl
@[simp] theorem State.setG_ticket (s : State) (r : BitVec 5) (v : Word) : (s.setG r v).ticket = s.ticket := rfl
@[simp] theorem State.setG_quantum (s : State) (r : BitVec 5) (v : Word) : (s.setG r v).quantum = s.quantum := rfl
@[simp] theorem State.setG_grace (s : State) (r : BitVec 5) (v : Word) : (s.setG r v).grace = s.grace := rfl
@[simp] theorem State.setG_reliab (s : State) (r : BitVec 5) (v : Word) : (s.setG r v).reliab = s.reliab := rfl
@[simp] theorem State.setG_fabric (s : State) (r : BitVec 5) (v : Word) : (s.setG r v).fabric = s.fabric := rfl
@[simp] theorem State.setG_remotes (s : State) (r : BitVec 5) (v : Word) : (s.setG r v).remotes = s.remotes := rfl
@[simp] theorem State.setG_rix (s : State) (r : BitVec 5) (v : Word) : (s.setG r v).rix = s.rix := rfl
@[simp] theorem State.setG_flights (s : State) (r : BitVec 5) (v : Word) : (s.setG r v).flights = s.flights := rfl
@[simp] theorem State.setG_funcs (s : State) (r : BitVec 5) (v : Word) : (s.setG r v).funcs = s.funcs := rfl
@[simp] theorem State.setG_queueUse (s : State) (r : BitVec 5) (v : Word) : (s.setG r v).queueUse = s.queueUse := rfl
@[simp] theorem State.setG_mgmt (s : State) (r : BitVec 5) (v : Word) : (s.setG r v).mgmt = s.mgmt := rfl
@[simp] theorem State.setG_stopped (s : State) (r : BitVec 5) (v : Word) : (s.setG r v).stopped = s.stopped := rfl
@[simp] theorem State.setG_inputs (s : State) (r : BitVec 5) (v : Word) : (s.setG r v).inputs = s.inputs := rfl
@[simp] theorem State.setG_tick (s : State) (r : BitVec 5) (v : Word) : (s.setG r v).tick = s.tick := rfl
@[simp] theorem State.setG_out (s : State) (r : BitVec 5) (v : Word) : (s.setG r v).out = s.out := rfl
@[simp] theorem State.setG_hart (s : State) (r : BitVec 5) (v : Word) : (s.setG r v).hart = s.hart.setG r v := rfl

/-! ## `State.setPc` -/

@[simp] theorem State.setPc_part (s : State) (pc : Word) : (s.setPc pc).part = s.part := rfl
@[simp] theorem State.setPc_rest (s : State) (pc : Word) : (s.setPc pc).rest = s.rest := rfl
@[simp] theorem State.setPc_saved (s : State) (pc : Word) : (s.setPc pc).saved = s.saved := rfl
@[simp] theorem State.setPc_ctxs (s : State) (pc : Word) : (s.setPc pc).ctxs = s.ctxs := rfl
@[simp] theorem State.setPc_launches (s : State) (pc : Word) : (s.setPc pc).launches = s.launches := rfl
@[simp] theorem State.setPc_serial (s : State) (pc : Word) : (s.setPc pc).serial = s.serial := rfl
@[simp] theorem State.setPc_tasks (s : State) (pc : Word) : (s.setPc pc).tasks = s.tasks := rfl
@[simp] theorem State.setPc_clusters (s : State) (pc : Word) : (s.setPc pc).clusters = s.clusters := rfl
@[simp] theorem State.setPc_cmds (s : State) (pc : Word) : (s.setPc pc).cmds = s.cmds := rfl
@[simp] theorem State.setPc_cmdId (s : State) (pc : Word) : (s.setPc pc).cmdId = s.cmdId := rfl
@[simp] theorem State.setPc_cores (s : State) (pc : Word) : (s.setPc pc).cores = s.cores := rfl
@[simp] theorem State.setPc_mem (s : State) (pc : Word) : (s.setPc pc).mem = s.mem := rfl
@[simp] theorem State.setPc_lineMeta (s : State) (pc : Word) : (s.setPc pc).lineMeta = s.lineMeta := rfl
@[simp] theorem State.setPc_parks (s : State) (pc : Word) : (s.setPc pc).parks = s.parks := rfl
@[simp] theorem State.setPc_adds (s : State) (pc : Word) : (s.setPc pc).adds = s.adds := rfl
@[simp] theorem State.setPc_migs (s : State) (pc : Word) : (s.setPc pc).migs = s.migs := rfl
@[simp] theorem State.setPc_pool (s : State) (pc : Word) : (s.setPc pc).pool = s.pool := rfl
@[simp] theorem State.setPc_frames (s : State) (pc : Word) : (s.setPc pc).frames = s.frames := rfl
@[simp] theorem State.setPc_ticket (s : State) (pc : Word) : (s.setPc pc).ticket = s.ticket := rfl
@[simp] theorem State.setPc_quantum (s : State) (pc : Word) : (s.setPc pc).quantum = s.quantum := rfl
@[simp] theorem State.setPc_grace (s : State) (pc : Word) : (s.setPc pc).grace = s.grace := rfl
@[simp] theorem State.setPc_reliab (s : State) (pc : Word) : (s.setPc pc).reliab = s.reliab := rfl
@[simp] theorem State.setPc_fabric (s : State) (pc : Word) : (s.setPc pc).fabric = s.fabric := rfl
@[simp] theorem State.setPc_remotes (s : State) (pc : Word) : (s.setPc pc).remotes = s.remotes := rfl
@[simp] theorem State.setPc_rix (s : State) (pc : Word) : (s.setPc pc).rix = s.rix := rfl
@[simp] theorem State.setPc_flights (s : State) (pc : Word) : (s.setPc pc).flights = s.flights := rfl
@[simp] theorem State.setPc_funcs (s : State) (pc : Word) : (s.setPc pc).funcs = s.funcs := rfl
@[simp] theorem State.setPc_queueUse (s : State) (pc : Word) : (s.setPc pc).queueUse = s.queueUse := rfl
@[simp] theorem State.setPc_mgmt (s : State) (pc : Word) : (s.setPc pc).mgmt = s.mgmt := rfl
@[simp] theorem State.setPc_stopped (s : State) (pc : Word) : (s.setPc pc).stopped = s.stopped := rfl
@[simp] theorem State.setPc_inputs (s : State) (pc : Word) : (s.setPc pc).inputs = s.inputs := rfl
@[simp] theorem State.setPc_tick (s : State) (pc : Word) : (s.setPc pc).tick = s.tick := rfl
@[simp] theorem State.setPc_out (s : State) (pc : Word) : (s.setPc pc).out = s.out := rfl

/-! ## `State.setVec` -/

@[simp] theorem State.setVec_part (s : State) (v : Vec) : (s.setVec v).part = s.part := rfl
@[simp] theorem State.setVec_rest (s : State) (v : Vec) : (s.setVec v).rest = s.rest := rfl
@[simp] theorem State.setVec_saved (s : State) (v : Vec) : (s.setVec v).saved = s.saved := rfl
@[simp] theorem State.setVec_ctxs (s : State) (v : Vec) : (s.setVec v).ctxs = s.ctxs := rfl
@[simp] theorem State.setVec_launches (s : State) (v : Vec) : (s.setVec v).launches = s.launches := rfl
@[simp] theorem State.setVec_serial (s : State) (v : Vec) : (s.setVec v).serial = s.serial := rfl
@[simp] theorem State.setVec_tasks (s : State) (v : Vec) : (s.setVec v).tasks = s.tasks := rfl
@[simp] theorem State.setVec_clusters (s : State) (v : Vec) : (s.setVec v).clusters = s.clusters := rfl
@[simp] theorem State.setVec_cmds (s : State) (v : Vec) : (s.setVec v).cmds = s.cmds := rfl
@[simp] theorem State.setVec_cmdId (s : State) (v : Vec) : (s.setVec v).cmdId = s.cmdId := rfl
@[simp] theorem State.setVec_cores (s : State) (v : Vec) : (s.setVec v).cores = s.cores := rfl
@[simp] theorem State.setVec_mem (s : State) (v : Vec) : (s.setVec v).mem = s.mem := rfl
@[simp] theorem State.setVec_lineMeta (s : State) (v : Vec) : (s.setVec v).lineMeta = s.lineMeta := rfl
@[simp] theorem State.setVec_parks (s : State) (v : Vec) : (s.setVec v).parks = s.parks := rfl
@[simp] theorem State.setVec_adds (s : State) (v : Vec) : (s.setVec v).adds = s.adds := rfl
@[simp] theorem State.setVec_migs (s : State) (v : Vec) : (s.setVec v).migs = s.migs := rfl
@[simp] theorem State.setVec_pool (s : State) (v : Vec) : (s.setVec v).pool = s.pool := rfl
@[simp] theorem State.setVec_frames (s : State) (v : Vec) : (s.setVec v).frames = s.frames := rfl
@[simp] theorem State.setVec_ticket (s : State) (v : Vec) : (s.setVec v).ticket = s.ticket := rfl
@[simp] theorem State.setVec_quantum (s : State) (v : Vec) : (s.setVec v).quantum = s.quantum := rfl
@[simp] theorem State.setVec_grace (s : State) (v : Vec) : (s.setVec v).grace = s.grace := rfl
@[simp] theorem State.setVec_reliab (s : State) (v : Vec) : (s.setVec v).reliab = s.reliab := rfl
@[simp] theorem State.setVec_fabric (s : State) (v : Vec) : (s.setVec v).fabric = s.fabric := rfl
@[simp] theorem State.setVec_remotes (s : State) (v : Vec) : (s.setVec v).remotes = s.remotes := rfl
@[simp] theorem State.setVec_rix (s : State) (v : Vec) : (s.setVec v).rix = s.rix := rfl
@[simp] theorem State.setVec_flights (s : State) (v : Vec) : (s.setVec v).flights = s.flights := rfl
@[simp] theorem State.setVec_funcs (s : State) (v : Vec) : (s.setVec v).funcs = s.funcs := rfl
@[simp] theorem State.setVec_queueUse (s : State) (v : Vec) : (s.setVec v).queueUse = s.queueUse := rfl
@[simp] theorem State.setVec_mgmt (s : State) (v : Vec) : (s.setVec v).mgmt = s.mgmt := rfl
@[simp] theorem State.setVec_stopped (s : State) (v : Vec) : (s.setVec v).stopped = s.stopped := rfl
@[simp] theorem State.setVec_inputs (s : State) (v : Vec) : (s.setVec v).inputs = s.inputs := rfl
@[simp] theorem State.setVec_tick (s : State) (v : Vec) : (s.setVec v).tick = s.tick := rfl
@[simp] theorem State.setVec_out (s : State) (v : Vec) : (s.setVec v).out = s.out := rfl

/-! ## `State.advance` -/

@[simp] theorem State.advance_part (s : State) : (s.advance).part = s.part := rfl
@[simp] theorem State.advance_rest (s : State) : (s.advance).rest = s.rest := rfl
@[simp] theorem State.advance_saved (s : State) : (s.advance).saved = s.saved := rfl
@[simp] theorem State.advance_ctxs (s : State) : (s.advance).ctxs = s.ctxs := rfl
@[simp] theorem State.advance_launches (s : State) : (s.advance).launches = s.launches := rfl
@[simp] theorem State.advance_serial (s : State) : (s.advance).serial = s.serial := rfl
@[simp] theorem State.advance_tasks (s : State) : (s.advance).tasks = s.tasks := rfl
@[simp] theorem State.advance_clusters (s : State) : (s.advance).clusters = s.clusters := rfl
@[simp] theorem State.advance_cmds (s : State) : (s.advance).cmds = s.cmds := rfl
@[simp] theorem State.advance_cmdId (s : State) : (s.advance).cmdId = s.cmdId := rfl
@[simp] theorem State.advance_cores (s : State) : (s.advance).cores = s.cores := rfl
@[simp] theorem State.advance_mem (s : State) : (s.advance).mem = s.mem := rfl
@[simp] theorem State.advance_lineMeta (s : State) : (s.advance).lineMeta = s.lineMeta := rfl
@[simp] theorem State.advance_parks (s : State) : (s.advance).parks = s.parks := rfl
@[simp] theorem State.advance_adds (s : State) : (s.advance).adds = s.adds := rfl
@[simp] theorem State.advance_migs (s : State) : (s.advance).migs = s.migs := rfl
@[simp] theorem State.advance_pool (s : State) : (s.advance).pool = s.pool := rfl
@[simp] theorem State.advance_frames (s : State) : (s.advance).frames = s.frames := rfl
@[simp] theorem State.advance_ticket (s : State) : (s.advance).ticket = s.ticket := rfl
@[simp] theorem State.advance_quantum (s : State) : (s.advance).quantum = s.quantum := rfl
@[simp] theorem State.advance_grace (s : State) : (s.advance).grace = s.grace := rfl
@[simp] theorem State.advance_reliab (s : State) : (s.advance).reliab = s.reliab := rfl
@[simp] theorem State.advance_fabric (s : State) : (s.advance).fabric = s.fabric := rfl
@[simp] theorem State.advance_remotes (s : State) : (s.advance).remotes = s.remotes := rfl
@[simp] theorem State.advance_rix (s : State) : (s.advance).rix = s.rix := rfl
@[simp] theorem State.advance_flights (s : State) : (s.advance).flights = s.flights := rfl
@[simp] theorem State.advance_funcs (s : State) : (s.advance).funcs = s.funcs := rfl
@[simp] theorem State.advance_queueUse (s : State) : (s.advance).queueUse = s.queueUse := rfl
@[simp] theorem State.advance_mgmt (s : State) : (s.advance).mgmt = s.mgmt := rfl
@[simp] theorem State.advance_stopped (s : State) : (s.advance).stopped = s.stopped := rfl
@[simp] theorem State.advance_inputs (s : State) : (s.advance).inputs = s.inputs := rfl
@[simp] theorem State.advance_tick (s : State) : (s.advance).tick = s.tick := rfl
@[simp] theorem State.advance_out (s : State) : (s.advance).out = s.out := rfl
@[simp] theorem State.advance_hart (s : State) : (s.advance).hart = s.hart.advance := rfl

/-! ## `State.jump` -/

@[simp] theorem State.jump_part (s : State) (pc : Word) (back : Bool) : (s.jump pc back).part = s.part := rfl
@[simp] theorem State.jump_rest (s : State) (pc : Word) (back : Bool) : (s.jump pc back).rest = s.rest := rfl
@[simp] theorem State.jump_saved (s : State) (pc : Word) (back : Bool) : (s.jump pc back).saved = s.saved := rfl
@[simp] theorem State.jump_ctxs (s : State) (pc : Word) (back : Bool) : (s.jump pc back).ctxs = s.ctxs := rfl
@[simp] theorem State.jump_launches (s : State) (pc : Word) (back : Bool) : (s.jump pc back).launches = s.launches := rfl
@[simp] theorem State.jump_serial (s : State) (pc : Word) (back : Bool) : (s.jump pc back).serial = s.serial := rfl
@[simp] theorem State.jump_tasks (s : State) (pc : Word) (back : Bool) : (s.jump pc back).tasks = s.tasks := rfl
@[simp] theorem State.jump_clusters (s : State) (pc : Word) (back : Bool) : (s.jump pc back).clusters = s.clusters := rfl
@[simp] theorem State.jump_cmds (s : State) (pc : Word) (back : Bool) : (s.jump pc back).cmds = s.cmds := rfl
@[simp] theorem State.jump_cmdId (s : State) (pc : Word) (back : Bool) : (s.jump pc back).cmdId = s.cmdId := rfl
@[simp] theorem State.jump_cores (s : State) (pc : Word) (back : Bool) : (s.jump pc back).cores = s.cores := rfl
@[simp] theorem State.jump_mem (s : State) (pc : Word) (back : Bool) : (s.jump pc back).mem = s.mem := rfl
@[simp] theorem State.jump_lineMeta (s : State) (pc : Word) (back : Bool) : (s.jump pc back).lineMeta = s.lineMeta := rfl
@[simp] theorem State.jump_parks (s : State) (pc : Word) (back : Bool) : (s.jump pc back).parks = s.parks := rfl
@[simp] theorem State.jump_adds (s : State) (pc : Word) (back : Bool) : (s.jump pc back).adds = s.adds := rfl
@[simp] theorem State.jump_migs (s : State) (pc : Word) (back : Bool) : (s.jump pc back).migs = s.migs := rfl
@[simp] theorem State.jump_pool (s : State) (pc : Word) (back : Bool) : (s.jump pc back).pool = s.pool := rfl
@[simp] theorem State.jump_frames (s : State) (pc : Word) (back : Bool) : (s.jump pc back).frames = s.frames := rfl
@[simp] theorem State.jump_ticket (s : State) (pc : Word) (back : Bool) : (s.jump pc back).ticket = s.ticket := rfl
@[simp] theorem State.jump_quantum (s : State) (pc : Word) (back : Bool) : (s.jump pc back).quantum = s.quantum := rfl
@[simp] theorem State.jump_grace (s : State) (pc : Word) (back : Bool) : (s.jump pc back).grace = s.grace := rfl
@[simp] theorem State.jump_reliab (s : State) (pc : Word) (back : Bool) : (s.jump pc back).reliab = s.reliab := rfl
@[simp] theorem State.jump_fabric (s : State) (pc : Word) (back : Bool) : (s.jump pc back).fabric = s.fabric := rfl
@[simp] theorem State.jump_remotes (s : State) (pc : Word) (back : Bool) : (s.jump pc back).remotes = s.remotes := rfl
@[simp] theorem State.jump_rix (s : State) (pc : Word) (back : Bool) : (s.jump pc back).rix = s.rix := rfl
@[simp] theorem State.jump_flights (s : State) (pc : Word) (back : Bool) : (s.jump pc back).flights = s.flights := rfl
@[simp] theorem State.jump_funcs (s : State) (pc : Word) (back : Bool) : (s.jump pc back).funcs = s.funcs := rfl
@[simp] theorem State.jump_queueUse (s : State) (pc : Word) (back : Bool) : (s.jump pc back).queueUse = s.queueUse := rfl
@[simp] theorem State.jump_mgmt (s : State) (pc : Word) (back : Bool) : (s.jump pc back).mgmt = s.mgmt := rfl
@[simp] theorem State.jump_stopped (s : State) (pc : Word) (back : Bool) : (s.jump pc back).stopped = s.stopped := rfl
@[simp] theorem State.jump_inputs (s : State) (pc : Word) (back : Bool) : (s.jump pc back).inputs = s.inputs := rfl
@[simp] theorem State.jump_tick (s : State) (pc : Word) (back : Bool) : (s.jump pc back).tick = s.tick := rfl
@[simp] theorem State.jump_out (s : State) (pc : Word) (back : Bool) : (s.jump pc back).out = s.out := rfl

/-! ## `State.writePhys` -/

@[simp] theorem State.writePhys_part (s : State) (pa : Nat) (bs : List Byte) : (s.writePhys pa bs).part = s.part := rfl
@[simp] theorem State.writePhys_hart (s : State) (pa : Nat) (bs : List Byte) : (s.writePhys pa bs).hart = s.hart := rfl
@[simp] theorem State.writePhys_rest (s : State) (pa : Nat) (bs : List Byte) : (s.writePhys pa bs).rest = s.rest := rfl
@[simp] theorem State.writePhys_saved (s : State) (pa : Nat) (bs : List Byte) : (s.writePhys pa bs).saved = s.saved := rfl
@[simp] theorem State.writePhys_ctxs (s : State) (pa : Nat) (bs : List Byte) : (s.writePhys pa bs).ctxs = s.ctxs := rfl
@[simp] theorem State.writePhys_launches (s : State) (pa : Nat) (bs : List Byte) : (s.writePhys pa bs).launches = s.launches := rfl
@[simp] theorem State.writePhys_serial (s : State) (pa : Nat) (bs : List Byte) : (s.writePhys pa bs).serial = s.serial := rfl
@[simp] theorem State.writePhys_tasks (s : State) (pa : Nat) (bs : List Byte) : (s.writePhys pa bs).tasks = s.tasks := rfl
@[simp] theorem State.writePhys_clusters (s : State) (pa : Nat) (bs : List Byte) : (s.writePhys pa bs).clusters = s.clusters := rfl
@[simp] theorem State.writePhys_cmds (s : State) (pa : Nat) (bs : List Byte) : (s.writePhys pa bs).cmds = s.cmds := rfl
@[simp] theorem State.writePhys_cmdId (s : State) (pa : Nat) (bs : List Byte) : (s.writePhys pa bs).cmdId = s.cmdId := rfl
@[simp] theorem State.writePhys_cores (s : State) (pa : Nat) (bs : List Byte) : (s.writePhys pa bs).cores = s.cores := rfl
@[simp] theorem State.writePhys_lineMeta (s : State) (pa : Nat) (bs : List Byte) : (s.writePhys pa bs).lineMeta = s.lineMeta := rfl
@[simp] theorem State.writePhys_parks (s : State) (pa : Nat) (bs : List Byte) : (s.writePhys pa bs).parks = s.parks := rfl
@[simp] theorem State.writePhys_adds (s : State) (pa : Nat) (bs : List Byte) : (s.writePhys pa bs).adds = s.adds := rfl
@[simp] theorem State.writePhys_migs (s : State) (pa : Nat) (bs : List Byte) : (s.writePhys pa bs).migs = s.migs := rfl
@[simp] theorem State.writePhys_pool (s : State) (pa : Nat) (bs : List Byte) : (s.writePhys pa bs).pool = s.pool := rfl
@[simp] theorem State.writePhys_frames (s : State) (pa : Nat) (bs : List Byte) : (s.writePhys pa bs).frames = s.frames := rfl
@[simp] theorem State.writePhys_ticket (s : State) (pa : Nat) (bs : List Byte) : (s.writePhys pa bs).ticket = s.ticket := rfl
@[simp] theorem State.writePhys_quantum (s : State) (pa : Nat) (bs : List Byte) : (s.writePhys pa bs).quantum = s.quantum := rfl
@[simp] theorem State.writePhys_grace (s : State) (pa : Nat) (bs : List Byte) : (s.writePhys pa bs).grace = s.grace := rfl
@[simp] theorem State.writePhys_reliab (s : State) (pa : Nat) (bs : List Byte) : (s.writePhys pa bs).reliab = s.reliab := rfl
@[simp] theorem State.writePhys_fabric (s : State) (pa : Nat) (bs : List Byte) : (s.writePhys pa bs).fabric = s.fabric := rfl
@[simp] theorem State.writePhys_remotes (s : State) (pa : Nat) (bs : List Byte) : (s.writePhys pa bs).remotes = s.remotes := rfl
@[simp] theorem State.writePhys_rix (s : State) (pa : Nat) (bs : List Byte) : (s.writePhys pa bs).rix = s.rix := rfl
@[simp] theorem State.writePhys_flights (s : State) (pa : Nat) (bs : List Byte) : (s.writePhys pa bs).flights = s.flights := rfl
@[simp] theorem State.writePhys_funcs (s : State) (pa : Nat) (bs : List Byte) : (s.writePhys pa bs).funcs = s.funcs := rfl
@[simp] theorem State.writePhys_queueUse (s : State) (pa : Nat) (bs : List Byte) : (s.writePhys pa bs).queueUse = s.queueUse := rfl
@[simp] theorem State.writePhys_mgmt (s : State) (pa : Nat) (bs : List Byte) : (s.writePhys pa bs).mgmt = s.mgmt := rfl
@[simp] theorem State.writePhys_stopped (s : State) (pa : Nat) (bs : List Byte) : (s.writePhys pa bs).stopped = s.stopped := rfl
@[simp] theorem State.writePhys_inputs (s : State) (pa : Nat) (bs : List Byte) : (s.writePhys pa bs).inputs = s.inputs := rfl
@[simp] theorem State.writePhys_tick (s : State) (pa : Nat) (bs : List Byte) : (s.writePhys pa bs).tick = s.tick := rfl
@[simp] theorem State.writePhys_out (s : State) (pa : Nat) (bs : List Byte) : (s.writePhys pa bs).out = s.out := rfl
@[simp] theorem State.writePhys_mem (s : State) (pa : Nat) (bs : List Byte) : (s.writePhys pa bs).mem = Memory.writeBytes s.mem pa bs := rfl

/-! ## `State.writeWord` -/

@[simp] theorem State.writeWord_part (s : State) (pa : Nat) (w : Word) : (s.writeWord pa w).part = s.part := rfl
@[simp] theorem State.writeWord_hart (s : State) (pa : Nat) (w : Word) : (s.writeWord pa w).hart = s.hart := rfl
@[simp] theorem State.writeWord_rest (s : State) (pa : Nat) (w : Word) : (s.writeWord pa w).rest = s.rest := rfl
@[simp] theorem State.writeWord_saved (s : State) (pa : Nat) (w : Word) : (s.writeWord pa w).saved = s.saved := rfl
@[simp] theorem State.writeWord_ctxs (s : State) (pa : Nat) (w : Word) : (s.writeWord pa w).ctxs = s.ctxs := rfl
@[simp] theorem State.writeWord_launches (s : State) (pa : Nat) (w : Word) : (s.writeWord pa w).launches = s.launches := rfl
@[simp] theorem State.writeWord_serial (s : State) (pa : Nat) (w : Word) : (s.writeWord pa w).serial = s.serial := rfl
@[simp] theorem State.writeWord_tasks (s : State) (pa : Nat) (w : Word) : (s.writeWord pa w).tasks = s.tasks := rfl
@[simp] theorem State.writeWord_clusters (s : State) (pa : Nat) (w : Word) : (s.writeWord pa w).clusters = s.clusters := rfl
@[simp] theorem State.writeWord_cmds (s : State) (pa : Nat) (w : Word) : (s.writeWord pa w).cmds = s.cmds := rfl
@[simp] theorem State.writeWord_cmdId (s : State) (pa : Nat) (w : Word) : (s.writeWord pa w).cmdId = s.cmdId := rfl
@[simp] theorem State.writeWord_cores (s : State) (pa : Nat) (w : Word) : (s.writeWord pa w).cores = s.cores := rfl
@[simp] theorem State.writeWord_lineMeta (s : State) (pa : Nat) (w : Word) : (s.writeWord pa w).lineMeta = s.lineMeta := rfl
@[simp] theorem State.writeWord_parks (s : State) (pa : Nat) (w : Word) : (s.writeWord pa w).parks = s.parks := rfl
@[simp] theorem State.writeWord_adds (s : State) (pa : Nat) (w : Word) : (s.writeWord pa w).adds = s.adds := rfl
@[simp] theorem State.writeWord_migs (s : State) (pa : Nat) (w : Word) : (s.writeWord pa w).migs = s.migs := rfl
@[simp] theorem State.writeWord_pool (s : State) (pa : Nat) (w : Word) : (s.writeWord pa w).pool = s.pool := rfl
@[simp] theorem State.writeWord_frames (s : State) (pa : Nat) (w : Word) : (s.writeWord pa w).frames = s.frames := rfl
@[simp] theorem State.writeWord_ticket (s : State) (pa : Nat) (w : Word) : (s.writeWord pa w).ticket = s.ticket := rfl
@[simp] theorem State.writeWord_quantum (s : State) (pa : Nat) (w : Word) : (s.writeWord pa w).quantum = s.quantum := rfl
@[simp] theorem State.writeWord_grace (s : State) (pa : Nat) (w : Word) : (s.writeWord pa w).grace = s.grace := rfl
@[simp] theorem State.writeWord_reliab (s : State) (pa : Nat) (w : Word) : (s.writeWord pa w).reliab = s.reliab := rfl
@[simp] theorem State.writeWord_fabric (s : State) (pa : Nat) (w : Word) : (s.writeWord pa w).fabric = s.fabric := rfl
@[simp] theorem State.writeWord_remotes (s : State) (pa : Nat) (w : Word) : (s.writeWord pa w).remotes = s.remotes := rfl
@[simp] theorem State.writeWord_rix (s : State) (pa : Nat) (w : Word) : (s.writeWord pa w).rix = s.rix := rfl
@[simp] theorem State.writeWord_flights (s : State) (pa : Nat) (w : Word) : (s.writeWord pa w).flights = s.flights := rfl
@[simp] theorem State.writeWord_funcs (s : State) (pa : Nat) (w : Word) : (s.writeWord pa w).funcs = s.funcs := rfl
@[simp] theorem State.writeWord_queueUse (s : State) (pa : Nat) (w : Word) : (s.writeWord pa w).queueUse = s.queueUse := rfl
@[simp] theorem State.writeWord_mgmt (s : State) (pa : Nat) (w : Word) : (s.writeWord pa w).mgmt = s.mgmt := rfl
@[simp] theorem State.writeWord_stopped (s : State) (pa : Nat) (w : Word) : (s.writeWord pa w).stopped = s.stopped := rfl
@[simp] theorem State.writeWord_inputs (s : State) (pa : Nat) (w : Word) : (s.writeWord pa w).inputs = s.inputs := rfl
@[simp] theorem State.writeWord_tick (s : State) (pa : Nat) (w : Word) : (s.writeWord pa w).tick = s.tick := rfl
@[simp] theorem State.writeWord_out (s : State) (pa : Nat) (w : Word) : (s.writeWord pa w).out = s.out := rfl
@[simp] theorem State.writeWord_mem (s : State) (pa : Nat) (w : Word) : (s.writeWord pa w).mem = Memory.writeBytes s.mem pa (toBytes w.toNat 8) := rfl

/-! ## `State.setMeta` -/

@[simp] theorem State.setMeta_part (s : State) (line : Nat) (m : Meta) : (s.setMeta line m).part = s.part := rfl
@[simp] theorem State.setMeta_hart (s : State) (line : Nat) (m : Meta) : (s.setMeta line m).hart = s.hart := rfl
@[simp] theorem State.setMeta_rest (s : State) (line : Nat) (m : Meta) : (s.setMeta line m).rest = s.rest := rfl
@[simp] theorem State.setMeta_saved (s : State) (line : Nat) (m : Meta) : (s.setMeta line m).saved = s.saved := rfl
@[simp] theorem State.setMeta_ctxs (s : State) (line : Nat) (m : Meta) : (s.setMeta line m).ctxs = s.ctxs := rfl
@[simp] theorem State.setMeta_launches (s : State) (line : Nat) (m : Meta) : (s.setMeta line m).launches = s.launches := rfl
@[simp] theorem State.setMeta_serial (s : State) (line : Nat) (m : Meta) : (s.setMeta line m).serial = s.serial := rfl
@[simp] theorem State.setMeta_tasks (s : State) (line : Nat) (m : Meta) : (s.setMeta line m).tasks = s.tasks := rfl
@[simp] theorem State.setMeta_clusters (s : State) (line : Nat) (m : Meta) : (s.setMeta line m).clusters = s.clusters := rfl
@[simp] theorem State.setMeta_cmds (s : State) (line : Nat) (m : Meta) : (s.setMeta line m).cmds = s.cmds := rfl
@[simp] theorem State.setMeta_cmdId (s : State) (line : Nat) (m : Meta) : (s.setMeta line m).cmdId = s.cmdId := rfl
@[simp] theorem State.setMeta_cores (s : State) (line : Nat) (m : Meta) : (s.setMeta line m).cores = s.cores := rfl
@[simp] theorem State.setMeta_mem (s : State) (line : Nat) (m : Meta) : (s.setMeta line m).mem = s.mem := rfl
@[simp] theorem State.setMeta_parks (s : State) (line : Nat) (m : Meta) : (s.setMeta line m).parks = s.parks := rfl
@[simp] theorem State.setMeta_adds (s : State) (line : Nat) (m : Meta) : (s.setMeta line m).adds = s.adds := rfl
@[simp] theorem State.setMeta_migs (s : State) (line : Nat) (m : Meta) : (s.setMeta line m).migs = s.migs := rfl
@[simp] theorem State.setMeta_pool (s : State) (line : Nat) (m : Meta) : (s.setMeta line m).pool = s.pool := rfl
@[simp] theorem State.setMeta_frames (s : State) (line : Nat) (m : Meta) : (s.setMeta line m).frames = s.frames := rfl
@[simp] theorem State.setMeta_ticket (s : State) (line : Nat) (m : Meta) : (s.setMeta line m).ticket = s.ticket := rfl
@[simp] theorem State.setMeta_quantum (s : State) (line : Nat) (m : Meta) : (s.setMeta line m).quantum = s.quantum := rfl
@[simp] theorem State.setMeta_grace (s : State) (line : Nat) (m : Meta) : (s.setMeta line m).grace = s.grace := rfl
@[simp] theorem State.setMeta_reliab (s : State) (line : Nat) (m : Meta) : (s.setMeta line m).reliab = s.reliab := rfl
@[simp] theorem State.setMeta_fabric (s : State) (line : Nat) (m : Meta) : (s.setMeta line m).fabric = s.fabric := rfl
@[simp] theorem State.setMeta_remotes (s : State) (line : Nat) (m : Meta) : (s.setMeta line m).remotes = s.remotes := rfl
@[simp] theorem State.setMeta_rix (s : State) (line : Nat) (m : Meta) : (s.setMeta line m).rix = s.rix := rfl
@[simp] theorem State.setMeta_flights (s : State) (line : Nat) (m : Meta) : (s.setMeta line m).flights = s.flights := rfl
@[simp] theorem State.setMeta_funcs (s : State) (line : Nat) (m : Meta) : (s.setMeta line m).funcs = s.funcs := rfl
@[simp] theorem State.setMeta_queueUse (s : State) (line : Nat) (m : Meta) : (s.setMeta line m).queueUse = s.queueUse := rfl
@[simp] theorem State.setMeta_mgmt (s : State) (line : Nat) (m : Meta) : (s.setMeta line m).mgmt = s.mgmt := rfl
@[simp] theorem State.setMeta_stopped (s : State) (line : Nat) (m : Meta) : (s.setMeta line m).stopped = s.stopped := rfl
@[simp] theorem State.setMeta_inputs (s : State) (line : Nat) (m : Meta) : (s.setMeta line m).inputs = s.inputs := rfl
@[simp] theorem State.setMeta_tick (s : State) (line : Nat) (m : Meta) : (s.setMeta line m).tick = s.tick := rfl
@[simp] theorem State.setMeta_out (s : State) (line : Nat) (m : Meta) : (s.setMeta line m).out = s.out := rfl
@[simp] theorem State.setMeta_lineMeta (s : State) (line : Nat) (m : Meta) : (s.setMeta line m).lineMeta = Table.put Meta.zero line m s.lineMeta := rfl

/-! ## `State.setPois` -/

@[simp] theorem State.setPois_part (s : State) (line : Nat) (b : Bool) : (s.setPois line b).part = s.part := rfl
@[simp] theorem State.setPois_hart (s : State) (line : Nat) (b : Bool) : (s.setPois line b).hart = s.hart := rfl
@[simp] theorem State.setPois_rest (s : State) (line : Nat) (b : Bool) : (s.setPois line b).rest = s.rest := rfl
@[simp] theorem State.setPois_saved (s : State) (line : Nat) (b : Bool) : (s.setPois line b).saved = s.saved := rfl
@[simp] theorem State.setPois_ctxs (s : State) (line : Nat) (b : Bool) : (s.setPois line b).ctxs = s.ctxs := rfl
@[simp] theorem State.setPois_launches (s : State) (line : Nat) (b : Bool) : (s.setPois line b).launches = s.launches := rfl
@[simp] theorem State.setPois_serial (s : State) (line : Nat) (b : Bool) : (s.setPois line b).serial = s.serial := rfl
@[simp] theorem State.setPois_tasks (s : State) (line : Nat) (b : Bool) : (s.setPois line b).tasks = s.tasks := rfl
@[simp] theorem State.setPois_clusters (s : State) (line : Nat) (b : Bool) : (s.setPois line b).clusters = s.clusters := rfl
@[simp] theorem State.setPois_cmds (s : State) (line : Nat) (b : Bool) : (s.setPois line b).cmds = s.cmds := rfl
@[simp] theorem State.setPois_cmdId (s : State) (line : Nat) (b : Bool) : (s.setPois line b).cmdId = s.cmdId := rfl
@[simp] theorem State.setPois_cores (s : State) (line : Nat) (b : Bool) : (s.setPois line b).cores = s.cores := rfl
@[simp] theorem State.setPois_mem (s : State) (line : Nat) (b : Bool) : (s.setPois line b).mem = s.mem := rfl
@[simp] theorem State.setPois_parks (s : State) (line : Nat) (b : Bool) : (s.setPois line b).parks = s.parks := rfl
@[simp] theorem State.setPois_adds (s : State) (line : Nat) (b : Bool) : (s.setPois line b).adds = s.adds := rfl
@[simp] theorem State.setPois_migs (s : State) (line : Nat) (b : Bool) : (s.setPois line b).migs = s.migs := rfl
@[simp] theorem State.setPois_pool (s : State) (line : Nat) (b : Bool) : (s.setPois line b).pool = s.pool := rfl
@[simp] theorem State.setPois_frames (s : State) (line : Nat) (b : Bool) : (s.setPois line b).frames = s.frames := rfl
@[simp] theorem State.setPois_ticket (s : State) (line : Nat) (b : Bool) : (s.setPois line b).ticket = s.ticket := rfl
@[simp] theorem State.setPois_quantum (s : State) (line : Nat) (b : Bool) : (s.setPois line b).quantum = s.quantum := rfl
@[simp] theorem State.setPois_grace (s : State) (line : Nat) (b : Bool) : (s.setPois line b).grace = s.grace := rfl
@[simp] theorem State.setPois_reliab (s : State) (line : Nat) (b : Bool) : (s.setPois line b).reliab = s.reliab := rfl
@[simp] theorem State.setPois_fabric (s : State) (line : Nat) (b : Bool) : (s.setPois line b).fabric = s.fabric := rfl
@[simp] theorem State.setPois_remotes (s : State) (line : Nat) (b : Bool) : (s.setPois line b).remotes = s.remotes := rfl
@[simp] theorem State.setPois_rix (s : State) (line : Nat) (b : Bool) : (s.setPois line b).rix = s.rix := rfl
@[simp] theorem State.setPois_flights (s : State) (line : Nat) (b : Bool) : (s.setPois line b).flights = s.flights := rfl
@[simp] theorem State.setPois_funcs (s : State) (line : Nat) (b : Bool) : (s.setPois line b).funcs = s.funcs := rfl
@[simp] theorem State.setPois_queueUse (s : State) (line : Nat) (b : Bool) : (s.setPois line b).queueUse = s.queueUse := rfl
@[simp] theorem State.setPois_mgmt (s : State) (line : Nat) (b : Bool) : (s.setPois line b).mgmt = s.mgmt := rfl
@[simp] theorem State.setPois_stopped (s : State) (line : Nat) (b : Bool) : (s.setPois line b).stopped = s.stopped := rfl
@[simp] theorem State.setPois_inputs (s : State) (line : Nat) (b : Bool) : (s.setPois line b).inputs = s.inputs := rfl
@[simp] theorem State.setPois_tick (s : State) (line : Nat) (b : Bool) : (s.setPois line b).tick = s.tick := rfl
@[simp] theorem State.setPois_out (s : State) (line : Nat) (b : Bool) : (s.setPois line b).out = s.out := rfl

/-! ## `State.setLineState` -/

@[simp] theorem State.setLineState_part (s : State) (line st : Nat) : (s.setLineState line st).part = s.part := rfl
@[simp] theorem State.setLineState_hart (s : State) (line st : Nat) : (s.setLineState line st).hart = s.hart := rfl
@[simp] theorem State.setLineState_rest (s : State) (line st : Nat) : (s.setLineState line st).rest = s.rest := rfl
@[simp] theorem State.setLineState_saved (s : State) (line st : Nat) : (s.setLineState line st).saved = s.saved := rfl
@[simp] theorem State.setLineState_ctxs (s : State) (line st : Nat) : (s.setLineState line st).ctxs = s.ctxs := rfl
@[simp] theorem State.setLineState_launches (s : State) (line st : Nat) : (s.setLineState line st).launches = s.launches := rfl
@[simp] theorem State.setLineState_serial (s : State) (line st : Nat) : (s.setLineState line st).serial = s.serial := rfl
@[simp] theorem State.setLineState_tasks (s : State) (line st : Nat) : (s.setLineState line st).tasks = s.tasks := rfl
@[simp] theorem State.setLineState_clusters (s : State) (line st : Nat) : (s.setLineState line st).clusters = s.clusters := rfl
@[simp] theorem State.setLineState_cmds (s : State) (line st : Nat) : (s.setLineState line st).cmds = s.cmds := rfl
@[simp] theorem State.setLineState_cmdId (s : State) (line st : Nat) : (s.setLineState line st).cmdId = s.cmdId := rfl
@[simp] theorem State.setLineState_cores (s : State) (line st : Nat) : (s.setLineState line st).cores = s.cores := rfl
@[simp] theorem State.setLineState_mem (s : State) (line st : Nat) : (s.setLineState line st).mem = s.mem := rfl
@[simp] theorem State.setLineState_parks (s : State) (line st : Nat) : (s.setLineState line st).parks = s.parks := rfl
@[simp] theorem State.setLineState_adds (s : State) (line st : Nat) : (s.setLineState line st).adds = s.adds := rfl
@[simp] theorem State.setLineState_migs (s : State) (line st : Nat) : (s.setLineState line st).migs = s.migs := rfl
@[simp] theorem State.setLineState_pool (s : State) (line st : Nat) : (s.setLineState line st).pool = s.pool := rfl
@[simp] theorem State.setLineState_frames (s : State) (line st : Nat) : (s.setLineState line st).frames = s.frames := rfl
@[simp] theorem State.setLineState_ticket (s : State) (line st : Nat) : (s.setLineState line st).ticket = s.ticket := rfl
@[simp] theorem State.setLineState_quantum (s : State) (line st : Nat) : (s.setLineState line st).quantum = s.quantum := rfl
@[simp] theorem State.setLineState_grace (s : State) (line st : Nat) : (s.setLineState line st).grace = s.grace := rfl
@[simp] theorem State.setLineState_reliab (s : State) (line st : Nat) : (s.setLineState line st).reliab = s.reliab := rfl
@[simp] theorem State.setLineState_fabric (s : State) (line st : Nat) : (s.setLineState line st).fabric = s.fabric := rfl
@[simp] theorem State.setLineState_remotes (s : State) (line st : Nat) : (s.setLineState line st).remotes = s.remotes := rfl
@[simp] theorem State.setLineState_rix (s : State) (line st : Nat) : (s.setLineState line st).rix = s.rix := rfl
@[simp] theorem State.setLineState_flights (s : State) (line st : Nat) : (s.setLineState line st).flights = s.flights := rfl
@[simp] theorem State.setLineState_funcs (s : State) (line st : Nat) : (s.setLineState line st).funcs = s.funcs := rfl
@[simp] theorem State.setLineState_queueUse (s : State) (line st : Nat) : (s.setLineState line st).queueUse = s.queueUse := rfl
@[simp] theorem State.setLineState_mgmt (s : State) (line st : Nat) : (s.setLineState line st).mgmt = s.mgmt := rfl
@[simp] theorem State.setLineState_stopped (s : State) (line st : Nat) : (s.setLineState line st).stopped = s.stopped := rfl
@[simp] theorem State.setLineState_inputs (s : State) (line st : Nat) : (s.setLineState line st).inputs = s.inputs := rfl
@[simp] theorem State.setLineState_tick (s : State) (line st : Nat) : (s.setLineState line st).tick = s.tick := rfl
@[simp] theorem State.setLineState_out (s : State) (line st : Nat) : (s.setLineState line st).out = s.out := rfl

/-! ## `State.setCtx` -/

@[simp] theorem State.setCtx_part (s : State) (n : Nat) (c : Ctx) : (s.setCtx n c).part = s.part := rfl
@[simp] theorem State.setCtx_hart (s : State) (n : Nat) (c : Ctx) : (s.setCtx n c).hart = s.hart := rfl
@[simp] theorem State.setCtx_rest (s : State) (n : Nat) (c : Ctx) : (s.setCtx n c).rest = s.rest := rfl
@[simp] theorem State.setCtx_saved (s : State) (n : Nat) (c : Ctx) : (s.setCtx n c).saved = s.saved := rfl
@[simp] theorem State.setCtx_launches (s : State) (n : Nat) (c : Ctx) : (s.setCtx n c).launches = s.launches := rfl
@[simp] theorem State.setCtx_serial (s : State) (n : Nat) (c : Ctx) : (s.setCtx n c).serial = s.serial := rfl
@[simp] theorem State.setCtx_tasks (s : State) (n : Nat) (c : Ctx) : (s.setCtx n c).tasks = s.tasks := rfl
@[simp] theorem State.setCtx_clusters (s : State) (n : Nat) (c : Ctx) : (s.setCtx n c).clusters = s.clusters := rfl
@[simp] theorem State.setCtx_cmds (s : State) (n : Nat) (c : Ctx) : (s.setCtx n c).cmds = s.cmds := rfl
@[simp] theorem State.setCtx_cmdId (s : State) (n : Nat) (c : Ctx) : (s.setCtx n c).cmdId = s.cmdId := rfl
@[simp] theorem State.setCtx_cores (s : State) (n : Nat) (c : Ctx) : (s.setCtx n c).cores = s.cores := rfl
@[simp] theorem State.setCtx_mem (s : State) (n : Nat) (c : Ctx) : (s.setCtx n c).mem = s.mem := rfl
@[simp] theorem State.setCtx_lineMeta (s : State) (n : Nat) (c : Ctx) : (s.setCtx n c).lineMeta = s.lineMeta := rfl
@[simp] theorem State.setCtx_parks (s : State) (n : Nat) (c : Ctx) : (s.setCtx n c).parks = s.parks := rfl
@[simp] theorem State.setCtx_adds (s : State) (n : Nat) (c : Ctx) : (s.setCtx n c).adds = s.adds := rfl
@[simp] theorem State.setCtx_migs (s : State) (n : Nat) (c : Ctx) : (s.setCtx n c).migs = s.migs := rfl
@[simp] theorem State.setCtx_pool (s : State) (n : Nat) (c : Ctx) : (s.setCtx n c).pool = s.pool := rfl
@[simp] theorem State.setCtx_frames (s : State) (n : Nat) (c : Ctx) : (s.setCtx n c).frames = s.frames := rfl
@[simp] theorem State.setCtx_ticket (s : State) (n : Nat) (c : Ctx) : (s.setCtx n c).ticket = s.ticket := rfl
@[simp] theorem State.setCtx_quantum (s : State) (n : Nat) (c : Ctx) : (s.setCtx n c).quantum = s.quantum := rfl
@[simp] theorem State.setCtx_grace (s : State) (n : Nat) (c : Ctx) : (s.setCtx n c).grace = s.grace := rfl
@[simp] theorem State.setCtx_reliab (s : State) (n : Nat) (c : Ctx) : (s.setCtx n c).reliab = s.reliab := rfl
@[simp] theorem State.setCtx_fabric (s : State) (n : Nat) (c : Ctx) : (s.setCtx n c).fabric = s.fabric := rfl
@[simp] theorem State.setCtx_remotes (s : State) (n : Nat) (c : Ctx) : (s.setCtx n c).remotes = s.remotes := rfl
@[simp] theorem State.setCtx_rix (s : State) (n : Nat) (c : Ctx) : (s.setCtx n c).rix = s.rix := rfl
@[simp] theorem State.setCtx_flights (s : State) (n : Nat) (c : Ctx) : (s.setCtx n c).flights = s.flights := rfl
@[simp] theorem State.setCtx_funcs (s : State) (n : Nat) (c : Ctx) : (s.setCtx n c).funcs = s.funcs := rfl
@[simp] theorem State.setCtx_queueUse (s : State) (n : Nat) (c : Ctx) : (s.setCtx n c).queueUse = s.queueUse := rfl
@[simp] theorem State.setCtx_mgmt (s : State) (n : Nat) (c : Ctx) : (s.setCtx n c).mgmt = s.mgmt := rfl
@[simp] theorem State.setCtx_stopped (s : State) (n : Nat) (c : Ctx) : (s.setCtx n c).stopped = s.stopped := rfl
@[simp] theorem State.setCtx_inputs (s : State) (n : Nat) (c : Ctx) : (s.setCtx n c).inputs = s.inputs := rfl
@[simp] theorem State.setCtx_tick (s : State) (n : Nat) (c : Ctx) : (s.setCtx n c).tick = s.tick := rfl
@[simp] theorem State.setCtx_out (s : State) (n : Nat) (c : Ctx) : (s.setCtx n c).out = s.out := rfl
@[simp] theorem State.setCtx_ctxs (s : State) (n : Nat) (c : Ctx) : (s.setCtx n c).ctxs = Table.put Ctx.none n c s.ctxs := rfl

/-! ## `State.setCore` -/

@[simp] theorem State.setCore_part (s : State) (n : Nat) (c : Core) : (s.setCore n c).part = s.part := rfl
@[simp] theorem State.setCore_hart (s : State) (n : Nat) (c : Core) : (s.setCore n c).hart = s.hart := rfl
@[simp] theorem State.setCore_rest (s : State) (n : Nat) (c : Core) : (s.setCore n c).rest = s.rest := rfl
@[simp] theorem State.setCore_saved (s : State) (n : Nat) (c : Core) : (s.setCore n c).saved = s.saved := rfl
@[simp] theorem State.setCore_ctxs (s : State) (n : Nat) (c : Core) : (s.setCore n c).ctxs = s.ctxs := rfl
@[simp] theorem State.setCore_launches (s : State) (n : Nat) (c : Core) : (s.setCore n c).launches = s.launches := rfl
@[simp] theorem State.setCore_serial (s : State) (n : Nat) (c : Core) : (s.setCore n c).serial = s.serial := rfl
@[simp] theorem State.setCore_tasks (s : State) (n : Nat) (c : Core) : (s.setCore n c).tasks = s.tasks := rfl
@[simp] theorem State.setCore_clusters (s : State) (n : Nat) (c : Core) : (s.setCore n c).clusters = s.clusters := rfl
@[simp] theorem State.setCore_cmds (s : State) (n : Nat) (c : Core) : (s.setCore n c).cmds = s.cmds := rfl
@[simp] theorem State.setCore_cmdId (s : State) (n : Nat) (c : Core) : (s.setCore n c).cmdId = s.cmdId := rfl
@[simp] theorem State.setCore_mem (s : State) (n : Nat) (c : Core) : (s.setCore n c).mem = s.mem := rfl
@[simp] theorem State.setCore_lineMeta (s : State) (n : Nat) (c : Core) : (s.setCore n c).lineMeta = s.lineMeta := rfl
@[simp] theorem State.setCore_parks (s : State) (n : Nat) (c : Core) : (s.setCore n c).parks = s.parks := rfl
@[simp] theorem State.setCore_adds (s : State) (n : Nat) (c : Core) : (s.setCore n c).adds = s.adds := rfl
@[simp] theorem State.setCore_migs (s : State) (n : Nat) (c : Core) : (s.setCore n c).migs = s.migs := rfl
@[simp] theorem State.setCore_pool (s : State) (n : Nat) (c : Core) : (s.setCore n c).pool = s.pool := rfl
@[simp] theorem State.setCore_frames (s : State) (n : Nat) (c : Core) : (s.setCore n c).frames = s.frames := rfl
@[simp] theorem State.setCore_ticket (s : State) (n : Nat) (c : Core) : (s.setCore n c).ticket = s.ticket := rfl
@[simp] theorem State.setCore_quantum (s : State) (n : Nat) (c : Core) : (s.setCore n c).quantum = s.quantum := rfl
@[simp] theorem State.setCore_grace (s : State) (n : Nat) (c : Core) : (s.setCore n c).grace = s.grace := rfl
@[simp] theorem State.setCore_reliab (s : State) (n : Nat) (c : Core) : (s.setCore n c).reliab = s.reliab := rfl
@[simp] theorem State.setCore_fabric (s : State) (n : Nat) (c : Core) : (s.setCore n c).fabric = s.fabric := rfl
@[simp] theorem State.setCore_remotes (s : State) (n : Nat) (c : Core) : (s.setCore n c).remotes = s.remotes := rfl
@[simp] theorem State.setCore_rix (s : State) (n : Nat) (c : Core) : (s.setCore n c).rix = s.rix := rfl
@[simp] theorem State.setCore_flights (s : State) (n : Nat) (c : Core) : (s.setCore n c).flights = s.flights := rfl
@[simp] theorem State.setCore_funcs (s : State) (n : Nat) (c : Core) : (s.setCore n c).funcs = s.funcs := rfl
@[simp] theorem State.setCore_queueUse (s : State) (n : Nat) (c : Core) : (s.setCore n c).queueUse = s.queueUse := rfl
@[simp] theorem State.setCore_mgmt (s : State) (n : Nat) (c : Core) : (s.setCore n c).mgmt = s.mgmt := rfl
@[simp] theorem State.setCore_stopped (s : State) (n : Nat) (c : Core) : (s.setCore n c).stopped = s.stopped := rfl
@[simp] theorem State.setCore_inputs (s : State) (n : Nat) (c : Core) : (s.setCore n c).inputs = s.inputs := rfl
@[simp] theorem State.setCore_tick (s : State) (n : Nat) (c : Core) : (s.setCore n c).tick = s.tick := rfl
@[simp] theorem State.setCore_out (s : State) (n : Nat) (c : Core) : (s.setCore n c).out = s.out := rfl
@[simp] theorem State.setCore_cores (s : State) (n : Nat) (c : Core) : (s.setCore n c).cores = Table.put Core.reset n c s.cores := rfl

/-! ## `State.setCluster` -/

@[simp] theorem State.setCluster_part (s : State) (n : Nat) (c : Cluster) : (s.setCluster n c).part = s.part := rfl
@[simp] theorem State.setCluster_hart (s : State) (n : Nat) (c : Cluster) : (s.setCluster n c).hart = s.hart := rfl
@[simp] theorem State.setCluster_rest (s : State) (n : Nat) (c : Cluster) : (s.setCluster n c).rest = s.rest := rfl
@[simp] theorem State.setCluster_saved (s : State) (n : Nat) (c : Cluster) : (s.setCluster n c).saved = s.saved := rfl
@[simp] theorem State.setCluster_ctxs (s : State) (n : Nat) (c : Cluster) : (s.setCluster n c).ctxs = s.ctxs := rfl
@[simp] theorem State.setCluster_launches (s : State) (n : Nat) (c : Cluster) : (s.setCluster n c).launches = s.launches := rfl
@[simp] theorem State.setCluster_serial (s : State) (n : Nat) (c : Cluster) : (s.setCluster n c).serial = s.serial := rfl
@[simp] theorem State.setCluster_tasks (s : State) (n : Nat) (c : Cluster) : (s.setCluster n c).tasks = s.tasks := rfl
@[simp] theorem State.setCluster_cmds (s : State) (n : Nat) (c : Cluster) : (s.setCluster n c).cmds = s.cmds := rfl
@[simp] theorem State.setCluster_cmdId (s : State) (n : Nat) (c : Cluster) : (s.setCluster n c).cmdId = s.cmdId := rfl
@[simp] theorem State.setCluster_cores (s : State) (n : Nat) (c : Cluster) : (s.setCluster n c).cores = s.cores := rfl
@[simp] theorem State.setCluster_mem (s : State) (n : Nat) (c : Cluster) : (s.setCluster n c).mem = s.mem := rfl
@[simp] theorem State.setCluster_lineMeta (s : State) (n : Nat) (c : Cluster) : (s.setCluster n c).lineMeta = s.lineMeta := rfl
@[simp] theorem State.setCluster_parks (s : State) (n : Nat) (c : Cluster) : (s.setCluster n c).parks = s.parks := rfl
@[simp] theorem State.setCluster_adds (s : State) (n : Nat) (c : Cluster) : (s.setCluster n c).adds = s.adds := rfl
@[simp] theorem State.setCluster_migs (s : State) (n : Nat) (c : Cluster) : (s.setCluster n c).migs = s.migs := rfl
@[simp] theorem State.setCluster_pool (s : State) (n : Nat) (c : Cluster) : (s.setCluster n c).pool = s.pool := rfl
@[simp] theorem State.setCluster_frames (s : State) (n : Nat) (c : Cluster) : (s.setCluster n c).frames = s.frames := rfl
@[simp] theorem State.setCluster_ticket (s : State) (n : Nat) (c : Cluster) : (s.setCluster n c).ticket = s.ticket := rfl
@[simp] theorem State.setCluster_quantum (s : State) (n : Nat) (c : Cluster) : (s.setCluster n c).quantum = s.quantum := rfl
@[simp] theorem State.setCluster_grace (s : State) (n : Nat) (c : Cluster) : (s.setCluster n c).grace = s.grace := rfl
@[simp] theorem State.setCluster_reliab (s : State) (n : Nat) (c : Cluster) : (s.setCluster n c).reliab = s.reliab := rfl
@[simp] theorem State.setCluster_fabric (s : State) (n : Nat) (c : Cluster) : (s.setCluster n c).fabric = s.fabric := rfl
@[simp] theorem State.setCluster_remotes (s : State) (n : Nat) (c : Cluster) : (s.setCluster n c).remotes = s.remotes := rfl
@[simp] theorem State.setCluster_rix (s : State) (n : Nat) (c : Cluster) : (s.setCluster n c).rix = s.rix := rfl
@[simp] theorem State.setCluster_flights (s : State) (n : Nat) (c : Cluster) : (s.setCluster n c).flights = s.flights := rfl
@[simp] theorem State.setCluster_funcs (s : State) (n : Nat) (c : Cluster) : (s.setCluster n c).funcs = s.funcs := rfl
@[simp] theorem State.setCluster_queueUse (s : State) (n : Nat) (c : Cluster) : (s.setCluster n c).queueUse = s.queueUse := rfl
@[simp] theorem State.setCluster_mgmt (s : State) (n : Nat) (c : Cluster) : (s.setCluster n c).mgmt = s.mgmt := rfl
@[simp] theorem State.setCluster_stopped (s : State) (n : Nat) (c : Cluster) : (s.setCluster n c).stopped = s.stopped := rfl
@[simp] theorem State.setCluster_inputs (s : State) (n : Nat) (c : Cluster) : (s.setCluster n c).inputs = s.inputs := rfl
@[simp] theorem State.setCluster_tick (s : State) (n : Nat) (c : Cluster) : (s.setCluster n c).tick = s.tick := rfl
@[simp] theorem State.setCluster_out (s : State) (n : Nat) (c : Cluster) : (s.setCluster n c).out = s.out := rfl
@[simp] theorem State.setCluster_clusters (s : State) (n : Nat) (c : Cluster) : (s.setCluster n c).clusters = Table.put Cluster.reset n c s.clusters := rfl

/-! ## `State.setFunc` -/

@[simp] theorem State.setFunc_part (s : State) (n : Nat) (f : Func) : (s.setFunc n f).part = s.part := rfl
@[simp] theorem State.setFunc_hart (s : State) (n : Nat) (f : Func) : (s.setFunc n f).hart = s.hart := rfl
@[simp] theorem State.setFunc_rest (s : State) (n : Nat) (f : Func) : (s.setFunc n f).rest = s.rest := rfl
@[simp] theorem State.setFunc_saved (s : State) (n : Nat) (f : Func) : (s.setFunc n f).saved = s.saved := rfl
@[simp] theorem State.setFunc_ctxs (s : State) (n : Nat) (f : Func) : (s.setFunc n f).ctxs = s.ctxs := rfl
@[simp] theorem State.setFunc_launches (s : State) (n : Nat) (f : Func) : (s.setFunc n f).launches = s.launches := rfl
@[simp] theorem State.setFunc_serial (s : State) (n : Nat) (f : Func) : (s.setFunc n f).serial = s.serial := rfl
@[simp] theorem State.setFunc_tasks (s : State) (n : Nat) (f : Func) : (s.setFunc n f).tasks = s.tasks := rfl
@[simp] theorem State.setFunc_clusters (s : State) (n : Nat) (f : Func) : (s.setFunc n f).clusters = s.clusters := rfl
@[simp] theorem State.setFunc_cmds (s : State) (n : Nat) (f : Func) : (s.setFunc n f).cmds = s.cmds := rfl
@[simp] theorem State.setFunc_cmdId (s : State) (n : Nat) (f : Func) : (s.setFunc n f).cmdId = s.cmdId := rfl
@[simp] theorem State.setFunc_cores (s : State) (n : Nat) (f : Func) : (s.setFunc n f).cores = s.cores := rfl
@[simp] theorem State.setFunc_mem (s : State) (n : Nat) (f : Func) : (s.setFunc n f).mem = s.mem := rfl
@[simp] theorem State.setFunc_lineMeta (s : State) (n : Nat) (f : Func) : (s.setFunc n f).lineMeta = s.lineMeta := rfl
@[simp] theorem State.setFunc_parks (s : State) (n : Nat) (f : Func) : (s.setFunc n f).parks = s.parks := rfl
@[simp] theorem State.setFunc_adds (s : State) (n : Nat) (f : Func) : (s.setFunc n f).adds = s.adds := rfl
@[simp] theorem State.setFunc_migs (s : State) (n : Nat) (f : Func) : (s.setFunc n f).migs = s.migs := rfl
@[simp] theorem State.setFunc_pool (s : State) (n : Nat) (f : Func) : (s.setFunc n f).pool = s.pool := rfl
@[simp] theorem State.setFunc_frames (s : State) (n : Nat) (f : Func) : (s.setFunc n f).frames = s.frames := rfl
@[simp] theorem State.setFunc_ticket (s : State) (n : Nat) (f : Func) : (s.setFunc n f).ticket = s.ticket := rfl
@[simp] theorem State.setFunc_quantum (s : State) (n : Nat) (f : Func) : (s.setFunc n f).quantum = s.quantum := rfl
@[simp] theorem State.setFunc_grace (s : State) (n : Nat) (f : Func) : (s.setFunc n f).grace = s.grace := rfl
@[simp] theorem State.setFunc_reliab (s : State) (n : Nat) (f : Func) : (s.setFunc n f).reliab = s.reliab := rfl
@[simp] theorem State.setFunc_fabric (s : State) (n : Nat) (f : Func) : (s.setFunc n f).fabric = s.fabric := rfl
@[simp] theorem State.setFunc_remotes (s : State) (n : Nat) (f : Func) : (s.setFunc n f).remotes = s.remotes := rfl
@[simp] theorem State.setFunc_rix (s : State) (n : Nat) (f : Func) : (s.setFunc n f).rix = s.rix := rfl
@[simp] theorem State.setFunc_flights (s : State) (n : Nat) (f : Func) : (s.setFunc n f).flights = s.flights := rfl
@[simp] theorem State.setFunc_queueUse (s : State) (n : Nat) (f : Func) : (s.setFunc n f).queueUse = s.queueUse := rfl
@[simp] theorem State.setFunc_mgmt (s : State) (n : Nat) (f : Func) : (s.setFunc n f).mgmt = s.mgmt := rfl
@[simp] theorem State.setFunc_stopped (s : State) (n : Nat) (f : Func) : (s.setFunc n f).stopped = s.stopped := rfl
@[simp] theorem State.setFunc_inputs (s : State) (n : Nat) (f : Func) : (s.setFunc n f).inputs = s.inputs := rfl
@[simp] theorem State.setFunc_tick (s : State) (n : Nat) (f : Func) : (s.setFunc n f).tick = s.tick := rfl
@[simp] theorem State.setFunc_out (s : State) (n : Nat) (f : Func) : (s.setFunc n f).out = s.out := rfl
@[simp] theorem State.setFunc_funcs (s : State) (n : Nat) (f : Func) : (s.setFunc n f).funcs = Table.put Func.reset n f s.funcs := rfl

/-! ## `State.setBank` -/

@[simp] theorem State.setBank_part (s : State) (die bank : Nat) (b : Bank) : (s.setBank die bank b).part = s.part := rfl
@[simp] theorem State.setBank_hart (s : State) (die bank : Nat) (b : Bank) : (s.setBank die bank b).hart = s.hart := rfl
@[simp] theorem State.setBank_rest (s : State) (die bank : Nat) (b : Bank) : (s.setBank die bank b).rest = s.rest := rfl
@[simp] theorem State.setBank_saved (s : State) (die bank : Nat) (b : Bank) : (s.setBank die bank b).saved = s.saved := rfl
@[simp] theorem State.setBank_ctxs (s : State) (die bank : Nat) (b : Bank) : (s.setBank die bank b).ctxs = s.ctxs := rfl
@[simp] theorem State.setBank_launches (s : State) (die bank : Nat) (b : Bank) : (s.setBank die bank b).launches = s.launches := rfl
@[simp] theorem State.setBank_serial (s : State) (die bank : Nat) (b : Bank) : (s.setBank die bank b).serial = s.serial := rfl
@[simp] theorem State.setBank_tasks (s : State) (die bank : Nat) (b : Bank) : (s.setBank die bank b).tasks = s.tasks := rfl
@[simp] theorem State.setBank_clusters (s : State) (die bank : Nat) (b : Bank) : (s.setBank die bank b).clusters = s.clusters := rfl
@[simp] theorem State.setBank_cmds (s : State) (die bank : Nat) (b : Bank) : (s.setBank die bank b).cmds = s.cmds := rfl
@[simp] theorem State.setBank_cmdId (s : State) (die bank : Nat) (b : Bank) : (s.setBank die bank b).cmdId = s.cmdId := rfl
@[simp] theorem State.setBank_cores (s : State) (die bank : Nat) (b : Bank) : (s.setBank die bank b).cores = s.cores := rfl
@[simp] theorem State.setBank_mem (s : State) (die bank : Nat) (b : Bank) : (s.setBank die bank b).mem = s.mem := rfl
@[simp] theorem State.setBank_lineMeta (s : State) (die bank : Nat) (b : Bank) : (s.setBank die bank b).lineMeta = s.lineMeta := rfl
@[simp] theorem State.setBank_parks (s : State) (die bank : Nat) (b : Bank) : (s.setBank die bank b).parks = s.parks := rfl
@[simp] theorem State.setBank_adds (s : State) (die bank : Nat) (b : Bank) : (s.setBank die bank b).adds = s.adds := rfl
@[simp] theorem State.setBank_migs (s : State) (die bank : Nat) (b : Bank) : (s.setBank die bank b).migs = s.migs := rfl
@[simp] theorem State.setBank_pool (s : State) (die bank : Nat) (b : Bank) : (s.setBank die bank b).pool = s.pool := rfl
@[simp] theorem State.setBank_frames (s : State) (die bank : Nat) (b : Bank) : (s.setBank die bank b).frames = s.frames := rfl
@[simp] theorem State.setBank_ticket (s : State) (die bank : Nat) (b : Bank) : (s.setBank die bank b).ticket = s.ticket := rfl
@[simp] theorem State.setBank_quantum (s : State) (die bank : Nat) (b : Bank) : (s.setBank die bank b).quantum = s.quantum := rfl
@[simp] theorem State.setBank_grace (s : State) (die bank : Nat) (b : Bank) : (s.setBank die bank b).grace = s.grace := rfl
@[simp] theorem State.setBank_fabric (s : State) (die bank : Nat) (b : Bank) : (s.setBank die bank b).fabric = s.fabric := rfl
@[simp] theorem State.setBank_remotes (s : State) (die bank : Nat) (b : Bank) : (s.setBank die bank b).remotes = s.remotes := rfl
@[simp] theorem State.setBank_rix (s : State) (die bank : Nat) (b : Bank) : (s.setBank die bank b).rix = s.rix := rfl
@[simp] theorem State.setBank_flights (s : State) (die bank : Nat) (b : Bank) : (s.setBank die bank b).flights = s.flights := rfl
@[simp] theorem State.setBank_funcs (s : State) (die bank : Nat) (b : Bank) : (s.setBank die bank b).funcs = s.funcs := rfl
@[simp] theorem State.setBank_queueUse (s : State) (die bank : Nat) (b : Bank) : (s.setBank die bank b).queueUse = s.queueUse := rfl
@[simp] theorem State.setBank_mgmt (s : State) (die bank : Nat) (b : Bank) : (s.setBank die bank b).mgmt = s.mgmt := rfl
@[simp] theorem State.setBank_stopped (s : State) (die bank : Nat) (b : Bank) : (s.setBank die bank b).stopped = s.stopped := rfl
@[simp] theorem State.setBank_inputs (s : State) (die bank : Nat) (b : Bank) : (s.setBank die bank b).inputs = s.inputs := rfl
@[simp] theorem State.setBank_tick (s : State) (die bank : Nat) (b : Bank) : (s.setBank die bank b).tick = s.tick := rfl
@[simp] theorem State.setBank_out (s : State) (die bank : Nat) (b : Bank) : (s.setBank die bank b).out = s.out := rfl

/-! ## `State.setChan` -/

@[simp] theorem State.setChan_part (s : State) (n : Nat) (c : Channel) : (s.setChan n c).part = s.part := rfl
@[simp] theorem State.setChan_hart (s : State) (n : Nat) (c : Channel) : (s.setChan n c).hart = s.hart := rfl
@[simp] theorem State.setChan_rest (s : State) (n : Nat) (c : Channel) : (s.setChan n c).rest = s.rest := rfl
@[simp] theorem State.setChan_saved (s : State) (n : Nat) (c : Channel) : (s.setChan n c).saved = s.saved := rfl
@[simp] theorem State.setChan_ctxs (s : State) (n : Nat) (c : Channel) : (s.setChan n c).ctxs = s.ctxs := rfl
@[simp] theorem State.setChan_launches (s : State) (n : Nat) (c : Channel) : (s.setChan n c).launches = s.launches := rfl
@[simp] theorem State.setChan_serial (s : State) (n : Nat) (c : Channel) : (s.setChan n c).serial = s.serial := rfl
@[simp] theorem State.setChan_tasks (s : State) (n : Nat) (c : Channel) : (s.setChan n c).tasks = s.tasks := rfl
@[simp] theorem State.setChan_clusters (s : State) (n : Nat) (c : Channel) : (s.setChan n c).clusters = s.clusters := rfl
@[simp] theorem State.setChan_cmds (s : State) (n : Nat) (c : Channel) : (s.setChan n c).cmds = s.cmds := rfl
@[simp] theorem State.setChan_cmdId (s : State) (n : Nat) (c : Channel) : (s.setChan n c).cmdId = s.cmdId := rfl
@[simp] theorem State.setChan_cores (s : State) (n : Nat) (c : Channel) : (s.setChan n c).cores = s.cores := rfl
@[simp] theorem State.setChan_mem (s : State) (n : Nat) (c : Channel) : (s.setChan n c).mem = s.mem := rfl
@[simp] theorem State.setChan_lineMeta (s : State) (n : Nat) (c : Channel) : (s.setChan n c).lineMeta = s.lineMeta := rfl
@[simp] theorem State.setChan_parks (s : State) (n : Nat) (c : Channel) : (s.setChan n c).parks = s.parks := rfl
@[simp] theorem State.setChan_adds (s : State) (n : Nat) (c : Channel) : (s.setChan n c).adds = s.adds := rfl
@[simp] theorem State.setChan_migs (s : State) (n : Nat) (c : Channel) : (s.setChan n c).migs = s.migs := rfl
@[simp] theorem State.setChan_pool (s : State) (n : Nat) (c : Channel) : (s.setChan n c).pool = s.pool := rfl
@[simp] theorem State.setChan_frames (s : State) (n : Nat) (c : Channel) : (s.setChan n c).frames = s.frames := rfl
@[simp] theorem State.setChan_ticket (s : State) (n : Nat) (c : Channel) : (s.setChan n c).ticket = s.ticket := rfl
@[simp] theorem State.setChan_quantum (s : State) (n : Nat) (c : Channel) : (s.setChan n c).quantum = s.quantum := rfl
@[simp] theorem State.setChan_grace (s : State) (n : Nat) (c : Channel) : (s.setChan n c).grace = s.grace := rfl
@[simp] theorem State.setChan_fabric (s : State) (n : Nat) (c : Channel) : (s.setChan n c).fabric = s.fabric := rfl
@[simp] theorem State.setChan_remotes (s : State) (n : Nat) (c : Channel) : (s.setChan n c).remotes = s.remotes := rfl
@[simp] theorem State.setChan_rix (s : State) (n : Nat) (c : Channel) : (s.setChan n c).rix = s.rix := rfl
@[simp] theorem State.setChan_flights (s : State) (n : Nat) (c : Channel) : (s.setChan n c).flights = s.flights := rfl
@[simp] theorem State.setChan_funcs (s : State) (n : Nat) (c : Channel) : (s.setChan n c).funcs = s.funcs := rfl
@[simp] theorem State.setChan_queueUse (s : State) (n : Nat) (c : Channel) : (s.setChan n c).queueUse = s.queueUse := rfl
@[simp] theorem State.setChan_mgmt (s : State) (n : Nat) (c : Channel) : (s.setChan n c).mgmt = s.mgmt := rfl
@[simp] theorem State.setChan_stopped (s : State) (n : Nat) (c : Channel) : (s.setChan n c).stopped = s.stopped := rfl
@[simp] theorem State.setChan_inputs (s : State) (n : Nat) (c : Channel) : (s.setChan n c).inputs = s.inputs := rfl
@[simp] theorem State.setChan_tick (s : State) (n : Nat) (c : Channel) : (s.setChan n c).tick = s.tick := rfl
@[simp] theorem State.setChan_out (s : State) (n : Nat) (c : Channel) : (s.setChan n c).out = s.out := rfl

/-! ## `State.bumpEvseq` -/

@[simp] theorem State.bumpEvseq_part (s : State) (die : Nat) : (s.bumpEvseq die).part = s.part := rfl
@[simp] theorem State.bumpEvseq_hart (s : State) (die : Nat) : (s.bumpEvseq die).hart = s.hart := rfl
@[simp] theorem State.bumpEvseq_rest (s : State) (die : Nat) : (s.bumpEvseq die).rest = s.rest := rfl
@[simp] theorem State.bumpEvseq_saved (s : State) (die : Nat) : (s.bumpEvseq die).saved = s.saved := rfl
@[simp] theorem State.bumpEvseq_ctxs (s : State) (die : Nat) : (s.bumpEvseq die).ctxs = s.ctxs := rfl
@[simp] theorem State.bumpEvseq_launches (s : State) (die : Nat) : (s.bumpEvseq die).launches = s.launches := rfl
@[simp] theorem State.bumpEvseq_serial (s : State) (die : Nat) : (s.bumpEvseq die).serial = s.serial := rfl
@[simp] theorem State.bumpEvseq_tasks (s : State) (die : Nat) : (s.bumpEvseq die).tasks = s.tasks := rfl
@[simp] theorem State.bumpEvseq_clusters (s : State) (die : Nat) : (s.bumpEvseq die).clusters = s.clusters := rfl
@[simp] theorem State.bumpEvseq_cmds (s : State) (die : Nat) : (s.bumpEvseq die).cmds = s.cmds := rfl
@[simp] theorem State.bumpEvseq_cmdId (s : State) (die : Nat) : (s.bumpEvseq die).cmdId = s.cmdId := rfl
@[simp] theorem State.bumpEvseq_cores (s : State) (die : Nat) : (s.bumpEvseq die).cores = s.cores := rfl
@[simp] theorem State.bumpEvseq_mem (s : State) (die : Nat) : (s.bumpEvseq die).mem = s.mem := rfl
@[simp] theorem State.bumpEvseq_lineMeta (s : State) (die : Nat) : (s.bumpEvseq die).lineMeta = s.lineMeta := rfl
@[simp] theorem State.bumpEvseq_parks (s : State) (die : Nat) : (s.bumpEvseq die).parks = s.parks := rfl
@[simp] theorem State.bumpEvseq_adds (s : State) (die : Nat) : (s.bumpEvseq die).adds = s.adds := rfl
@[simp] theorem State.bumpEvseq_migs (s : State) (die : Nat) : (s.bumpEvseq die).migs = s.migs := rfl
@[simp] theorem State.bumpEvseq_pool (s : State) (die : Nat) : (s.bumpEvseq die).pool = s.pool := rfl
@[simp] theorem State.bumpEvseq_frames (s : State) (die : Nat) : (s.bumpEvseq die).frames = s.frames := rfl
@[simp] theorem State.bumpEvseq_ticket (s : State) (die : Nat) : (s.bumpEvseq die).ticket = s.ticket := rfl
@[simp] theorem State.bumpEvseq_quantum (s : State) (die : Nat) : (s.bumpEvseq die).quantum = s.quantum := rfl
@[simp] theorem State.bumpEvseq_grace (s : State) (die : Nat) : (s.bumpEvseq die).grace = s.grace := rfl
@[simp] theorem State.bumpEvseq_fabric (s : State) (die : Nat) : (s.bumpEvseq die).fabric = s.fabric := rfl
@[simp] theorem State.bumpEvseq_remotes (s : State) (die : Nat) : (s.bumpEvseq die).remotes = s.remotes := rfl
@[simp] theorem State.bumpEvseq_rix (s : State) (die : Nat) : (s.bumpEvseq die).rix = s.rix := rfl
@[simp] theorem State.bumpEvseq_flights (s : State) (die : Nat) : (s.bumpEvseq die).flights = s.flights := rfl
@[simp] theorem State.bumpEvseq_funcs (s : State) (die : Nat) : (s.bumpEvseq die).funcs = s.funcs := rfl
@[simp] theorem State.bumpEvseq_queueUse (s : State) (die : Nat) : (s.bumpEvseq die).queueUse = s.queueUse := rfl
@[simp] theorem State.bumpEvseq_mgmt (s : State) (die : Nat) : (s.bumpEvseq die).mgmt = s.mgmt := rfl
@[simp] theorem State.bumpEvseq_stopped (s : State) (die : Nat) : (s.bumpEvseq die).stopped = s.stopped := rfl
@[simp] theorem State.bumpEvseq_inputs (s : State) (die : Nat) : (s.bumpEvseq die).inputs = s.inputs := rfl
@[simp] theorem State.bumpEvseq_tick (s : State) (die : Nat) : (s.bumpEvseq die).tick = s.tick := rfl
@[simp] theorem State.bumpEvseq_out (s : State) (die : Nat) : (s.bumpEvseq die).out = s.out := rfl

/-! ## `State.setPort` -/

@[simp] theorem State.setPort_part (s : State) (n : Nat) (p : Port) : (s.setPort n p).part = s.part := rfl
@[simp] theorem State.setPort_hart (s : State) (n : Nat) (p : Port) : (s.setPort n p).hart = s.hart := rfl
@[simp] theorem State.setPort_rest (s : State) (n : Nat) (p : Port) : (s.setPort n p).rest = s.rest := rfl
@[simp] theorem State.setPort_saved (s : State) (n : Nat) (p : Port) : (s.setPort n p).saved = s.saved := rfl
@[simp] theorem State.setPort_ctxs (s : State) (n : Nat) (p : Port) : (s.setPort n p).ctxs = s.ctxs := rfl
@[simp] theorem State.setPort_launches (s : State) (n : Nat) (p : Port) : (s.setPort n p).launches = s.launches := rfl
@[simp] theorem State.setPort_serial (s : State) (n : Nat) (p : Port) : (s.setPort n p).serial = s.serial := rfl
@[simp] theorem State.setPort_tasks (s : State) (n : Nat) (p : Port) : (s.setPort n p).tasks = s.tasks := rfl
@[simp] theorem State.setPort_clusters (s : State) (n : Nat) (p : Port) : (s.setPort n p).clusters = s.clusters := rfl
@[simp] theorem State.setPort_cmds (s : State) (n : Nat) (p : Port) : (s.setPort n p).cmds = s.cmds := rfl
@[simp] theorem State.setPort_cmdId (s : State) (n : Nat) (p : Port) : (s.setPort n p).cmdId = s.cmdId := rfl
@[simp] theorem State.setPort_cores (s : State) (n : Nat) (p : Port) : (s.setPort n p).cores = s.cores := rfl
@[simp] theorem State.setPort_mem (s : State) (n : Nat) (p : Port) : (s.setPort n p).mem = s.mem := rfl
@[simp] theorem State.setPort_lineMeta (s : State) (n : Nat) (p : Port) : (s.setPort n p).lineMeta = s.lineMeta := rfl
@[simp] theorem State.setPort_parks (s : State) (n : Nat) (p : Port) : (s.setPort n p).parks = s.parks := rfl
@[simp] theorem State.setPort_adds (s : State) (n : Nat) (p : Port) : (s.setPort n p).adds = s.adds := rfl
@[simp] theorem State.setPort_migs (s : State) (n : Nat) (p : Port) : (s.setPort n p).migs = s.migs := rfl
@[simp] theorem State.setPort_pool (s : State) (n : Nat) (p : Port) : (s.setPort n p).pool = s.pool := rfl
@[simp] theorem State.setPort_frames (s : State) (n : Nat) (p : Port) : (s.setPort n p).frames = s.frames := rfl
@[simp] theorem State.setPort_ticket (s : State) (n : Nat) (p : Port) : (s.setPort n p).ticket = s.ticket := rfl
@[simp] theorem State.setPort_quantum (s : State) (n : Nat) (p : Port) : (s.setPort n p).quantum = s.quantum := rfl
@[simp] theorem State.setPort_grace (s : State) (n : Nat) (p : Port) : (s.setPort n p).grace = s.grace := rfl
@[simp] theorem State.setPort_reliab (s : State) (n : Nat) (p : Port) : (s.setPort n p).reliab = s.reliab := rfl
@[simp] theorem State.setPort_remotes (s : State) (n : Nat) (p : Port) : (s.setPort n p).remotes = s.remotes := rfl
@[simp] theorem State.setPort_rix (s : State) (n : Nat) (p : Port) : (s.setPort n p).rix = s.rix := rfl
@[simp] theorem State.setPort_flights (s : State) (n : Nat) (p : Port) : (s.setPort n p).flights = s.flights := rfl
@[simp] theorem State.setPort_funcs (s : State) (n : Nat) (p : Port) : (s.setPort n p).funcs = s.funcs := rfl
@[simp] theorem State.setPort_queueUse (s : State) (n : Nat) (p : Port) : (s.setPort n p).queueUse = s.queueUse := rfl
@[simp] theorem State.setPort_mgmt (s : State) (n : Nat) (p : Port) : (s.setPort n p).mgmt = s.mgmt := rfl
@[simp] theorem State.setPort_stopped (s : State) (n : Nat) (p : Port) : (s.setPort n p).stopped = s.stopped := rfl
@[simp] theorem State.setPort_inputs (s : State) (n : Nat) (p : Port) : (s.setPort n p).inputs = s.inputs := rfl
@[simp] theorem State.setPort_tick (s : State) (n : Nat) (p : Port) : (s.setPort n p).tick = s.tick := rfl
@[simp] theorem State.setPort_out (s : State) (n : Nat) (p : Port) : (s.setPort n p).out = s.out := rfl

/-! ## `State.emit` -/

@[simp] theorem State.emit_part (s : State) (o : Out) : (s.emit o).part = s.part := rfl
@[simp] theorem State.emit_hart (s : State) (o : Out) : (s.emit o).hart = s.hart := rfl
@[simp] theorem State.emit_rest (s : State) (o : Out) : (s.emit o).rest = s.rest := rfl
@[simp] theorem State.emit_saved (s : State) (o : Out) : (s.emit o).saved = s.saved := rfl
@[simp] theorem State.emit_ctxs (s : State) (o : Out) : (s.emit o).ctxs = s.ctxs := rfl
@[simp] theorem State.emit_launches (s : State) (o : Out) : (s.emit o).launches = s.launches := rfl
@[simp] theorem State.emit_serial (s : State) (o : Out) : (s.emit o).serial = s.serial := rfl
@[simp] theorem State.emit_tasks (s : State) (o : Out) : (s.emit o).tasks = s.tasks := rfl
@[simp] theorem State.emit_clusters (s : State) (o : Out) : (s.emit o).clusters = s.clusters := rfl
@[simp] theorem State.emit_cmds (s : State) (o : Out) : (s.emit o).cmds = s.cmds := rfl
@[simp] theorem State.emit_cmdId (s : State) (o : Out) : (s.emit o).cmdId = s.cmdId := rfl
@[simp] theorem State.emit_cores (s : State) (o : Out) : (s.emit o).cores = s.cores := rfl
@[simp] theorem State.emit_mem (s : State) (o : Out) : (s.emit o).mem = s.mem := rfl
@[simp] theorem State.emit_lineMeta (s : State) (o : Out) : (s.emit o).lineMeta = s.lineMeta := rfl
@[simp] theorem State.emit_parks (s : State) (o : Out) : (s.emit o).parks = s.parks := rfl
@[simp] theorem State.emit_adds (s : State) (o : Out) : (s.emit o).adds = s.adds := rfl
@[simp] theorem State.emit_migs (s : State) (o : Out) : (s.emit o).migs = s.migs := rfl
@[simp] theorem State.emit_pool (s : State) (o : Out) : (s.emit o).pool = s.pool := rfl
@[simp] theorem State.emit_frames (s : State) (o : Out) : (s.emit o).frames = s.frames := rfl
@[simp] theorem State.emit_ticket (s : State) (o : Out) : (s.emit o).ticket = s.ticket := rfl
@[simp] theorem State.emit_quantum (s : State) (o : Out) : (s.emit o).quantum = s.quantum := rfl
@[simp] theorem State.emit_grace (s : State) (o : Out) : (s.emit o).grace = s.grace := rfl
@[simp] theorem State.emit_reliab (s : State) (o : Out) : (s.emit o).reliab = s.reliab := rfl
@[simp] theorem State.emit_fabric (s : State) (o : Out) : (s.emit o).fabric = s.fabric := rfl
@[simp] theorem State.emit_remotes (s : State) (o : Out) : (s.emit o).remotes = s.remotes := rfl
@[simp] theorem State.emit_rix (s : State) (o : Out) : (s.emit o).rix = s.rix := rfl
@[simp] theorem State.emit_flights (s : State) (o : Out) : (s.emit o).flights = s.flights := rfl
@[simp] theorem State.emit_funcs (s : State) (o : Out) : (s.emit o).funcs = s.funcs := rfl
@[simp] theorem State.emit_queueUse (s : State) (o : Out) : (s.emit o).queueUse = s.queueUse := rfl
@[simp] theorem State.emit_mgmt (s : State) (o : Out) : (s.emit o).mgmt = s.mgmt := rfl
@[simp] theorem State.emit_stopped (s : State) (o : Out) : (s.emit o).stopped = s.stopped := rfl
@[simp] theorem State.emit_inputs (s : State) (o : Out) : (s.emit o).inputs = s.inputs := rfl
@[simp] theorem State.emit_tick (s : State) (o : Out) : (s.emit o).tick = s.tick := rfl
@[simp] theorem State.emit_out (s : State) (o : Out) : (s.emit o).out = s.out ++ [o] := rfl

/-! ## `State.nextTick` -/

@[simp] theorem State.nextTick_part (s : State) : (s.nextTick).part = s.part := rfl
@[simp] theorem State.nextTick_hart (s : State) : (s.nextTick).hart = s.hart := rfl
@[simp] theorem State.nextTick_rest (s : State) : (s.nextTick).rest = s.rest := rfl
@[simp] theorem State.nextTick_saved (s : State) : (s.nextTick).saved = s.saved := rfl
@[simp] theorem State.nextTick_ctxs (s : State) : (s.nextTick).ctxs = s.ctxs := rfl
@[simp] theorem State.nextTick_launches (s : State) : (s.nextTick).launches = s.launches := rfl
@[simp] theorem State.nextTick_serial (s : State) : (s.nextTick).serial = s.serial := rfl
@[simp] theorem State.nextTick_tasks (s : State) : (s.nextTick).tasks = s.tasks := rfl
@[simp] theorem State.nextTick_clusters (s : State) : (s.nextTick).clusters = s.clusters := rfl
@[simp] theorem State.nextTick_cmds (s : State) : (s.nextTick).cmds = s.cmds := rfl
@[simp] theorem State.nextTick_cmdId (s : State) : (s.nextTick).cmdId = s.cmdId := rfl
@[simp] theorem State.nextTick_cores (s : State) : (s.nextTick).cores = s.cores := rfl
@[simp] theorem State.nextTick_mem (s : State) : (s.nextTick).mem = s.mem := rfl
@[simp] theorem State.nextTick_lineMeta (s : State) : (s.nextTick).lineMeta = s.lineMeta := rfl
@[simp] theorem State.nextTick_parks (s : State) : (s.nextTick).parks = s.parks := rfl
@[simp] theorem State.nextTick_adds (s : State) : (s.nextTick).adds = s.adds := rfl
@[simp] theorem State.nextTick_migs (s : State) : (s.nextTick).migs = s.migs := rfl
@[simp] theorem State.nextTick_pool (s : State) : (s.nextTick).pool = s.pool := rfl
@[simp] theorem State.nextTick_frames (s : State) : (s.nextTick).frames = s.frames := rfl
@[simp] theorem State.nextTick_ticket (s : State) : (s.nextTick).ticket = s.ticket := rfl
@[simp] theorem State.nextTick_quantum (s : State) : (s.nextTick).quantum = s.quantum := rfl
@[simp] theorem State.nextTick_grace (s : State) : (s.nextTick).grace = s.grace := rfl
@[simp] theorem State.nextTick_reliab (s : State) : (s.nextTick).reliab = s.reliab := rfl
@[simp] theorem State.nextTick_fabric (s : State) : (s.nextTick).fabric = s.fabric := rfl
@[simp] theorem State.nextTick_remotes (s : State) : (s.nextTick).remotes = s.remotes := rfl
@[simp] theorem State.nextTick_rix (s : State) : (s.nextTick).rix = s.rix := rfl
@[simp] theorem State.nextTick_flights (s : State) : (s.nextTick).flights = s.flights := rfl
@[simp] theorem State.nextTick_funcs (s : State) : (s.nextTick).funcs = s.funcs := rfl
@[simp] theorem State.nextTick_queueUse (s : State) : (s.nextTick).queueUse = s.queueUse := rfl
@[simp] theorem State.nextTick_mgmt (s : State) : (s.nextTick).mgmt = s.mgmt := rfl
@[simp] theorem State.nextTick_stopped (s : State) : (s.nextTick).stopped = s.stopped := rfl
@[simp] theorem State.nextTick_inputs (s : State) : (s.nextTick).inputs = s.inputs := rfl
@[simp] theorem State.nextTick_out (s : State) : (s.nextTick).out = s.out := rfl
@[simp] theorem State.nextTick_tick (s : State) : (s.nextTick).tick = s.tick + 1 := rfl

/-! ## `State.settle` -/

@[simp] theorem State.settle_part (s : State) (a : Agent) : (s.settle a).part = s.part := rfl
@[simp] theorem State.settle_hart (s : State) (a : Agent) : (s.settle a).hart = s.hart := rfl
@[simp] theorem State.settle_rest (s : State) (a : Agent) : (s.settle a).rest = s.rest := rfl
@[simp] theorem State.settle_saved (s : State) (a : Agent) : (s.settle a).saved = s.saved := rfl
@[simp] theorem State.settle_ctxs (s : State) (a : Agent) : (s.settle a).ctxs = s.ctxs := rfl
@[simp] theorem State.settle_launches (s : State) (a : Agent) : (s.settle a).launches = s.launches := rfl
@[simp] theorem State.settle_serial (s : State) (a : Agent) : (s.settle a).serial = s.serial := rfl
@[simp] theorem State.settle_tasks (s : State) (a : Agent) : (s.settle a).tasks = s.tasks := rfl
@[simp] theorem State.settle_clusters (s : State) (a : Agent) : (s.settle a).clusters = s.clusters := rfl
@[simp] theorem State.settle_cmds (s : State) (a : Agent) : (s.settle a).cmds = s.cmds := rfl
@[simp] theorem State.settle_cmdId (s : State) (a : Agent) : (s.settle a).cmdId = s.cmdId := rfl
@[simp] theorem State.settle_cores (s : State) (a : Agent) : (s.settle a).cores = s.cores := rfl
@[simp] theorem State.settle_mem (s : State) (a : Agent) : (s.settle a).mem = s.mem := rfl
@[simp] theorem State.settle_lineMeta (s : State) (a : Agent) : (s.settle a).lineMeta = s.lineMeta := rfl
@[simp] theorem State.settle_parks (s : State) (a : Agent) : (s.settle a).parks = s.parks := rfl
@[simp] theorem State.settle_adds (s : State) (a : Agent) : (s.settle a).adds = s.adds := rfl
@[simp] theorem State.settle_migs (s : State) (a : Agent) : (s.settle a).migs = s.migs := rfl
@[simp] theorem State.settle_pool (s : State) (a : Agent) : (s.settle a).pool = s.pool := rfl
@[simp] theorem State.settle_frames (s : State) (a : Agent) : (s.settle a).frames = s.frames := rfl
@[simp] theorem State.settle_ticket (s : State) (a : Agent) : (s.settle a).ticket = s.ticket := rfl
@[simp] theorem State.settle_quantum (s : State) (a : Agent) : (s.settle a).quantum = s.quantum := rfl
@[simp] theorem State.settle_grace (s : State) (a : Agent) : (s.settle a).grace = s.grace := rfl
@[simp] theorem State.settle_reliab (s : State) (a : Agent) : (s.settle a).reliab = s.reliab := rfl
@[simp] theorem State.settle_fabric (s : State) (a : Agent) : (s.settle a).fabric = s.fabric := rfl
@[simp] theorem State.settle_funcs (s : State) (a : Agent) : (s.settle a).funcs = s.funcs := rfl
@[simp] theorem State.settle_queueUse (s : State) (a : Agent) : (s.settle a).queueUse = s.queueUse := rfl
@[simp] theorem State.settle_mgmt (s : State) (a : Agent) : (s.settle a).mgmt = s.mgmt := rfl
@[simp] theorem State.settle_stopped (s : State) (a : Agent) : (s.settle a).stopped = s.stopped := rfl
@[simp] theorem State.settle_inputs (s : State) (a : Agent) : (s.settle a).inputs = s.inputs := rfl
@[simp] theorem State.settle_tick (s : State) (a : Agent) : (s.settle a).tick = s.tick := rfl
@[simp] theorem State.settle_out (s : State) (a : Agent) : (s.settle a).out = s.out := rfl

end Sys2Proof.Machine
end

