-- ==== Sys2Proof/Laws/Scalar.lean ====
section
/-! SUPPORT. Everything that a register write and an advance do. -/
set_option Elab.async false
namespace Sys2Proof.Machine

/-- A register read after a register write (03 Table 3.2). -/
theorem Hart.rg_setG (h : Hart) (d r : BitVec 5) (v : Word) :
    (h.setG d v).rg r = if r = 0 then 0 else if r = d then v else h.rg r := by
  unfold Hart.setG Hart.rg
  by_cases hr : r = 0
  · simp only [if_pos hr]
  · simp only [if_neg hr]
    by_cases hd : d = 0
    · have hrd : r ≠ d := fun e => hr (e.trans hd)
      simp only [if_pos hd, if_neg hrd]
    · simp only [if_neg hd]
      by_cases h' : r = d
      · subst h'; simp
      · simp only [if_neg h']
        have : d.toNat ≠ r.toNat := fun e => h' (BitVec.eq_of_toNat_eq e.symm)
        simp [this]

/-- The same for the acting sequencer. -/
theorem State.rg_setG (s : State) (d r : BitVec 5) (v : Word) :
    (s.setG d v).rg r = if r = 0 then 0 else if r = d then v else s.rg r := Hart.rg_setG s.hart d r v

/-- An advance leaves the g registers. -/
@[simp] theorem Hart.rg_advance (h : Hart) (r : BitVec 5) : h.advance.rg r = h.rg r := rfl

/-- An advance leaves the g registers. -/
@[simp] theorem State.rg_advance (s : State) (r : BitVec 5) : s.advance.rg r = s.rg r := rfl

/-- A register write changes g registers alone. -/
theorem Hart.setG_same (h : Hart) (d : BitVec 5) (v : Word) : h.setG d v = { h with g := (h.setG d v).g } := by
  unfold Hart.setG
  split <;> rfl

@[simp] theorem Hart.setG_pc (h : Hart) (d : BitVec 5) (v : Word) : (h.setG d v).pc = h.pc := by rw [Hart.setG_same]
@[simp] theorem Hart.setG_loops (h : Hart) (d : BitVec 5) (v : Word) : (h.setG d v).loops = h.loops := by rw [Hart.setG_same]
@[simp] theorem Hart.setG_cause (h : Hart) (d : BitVec 5) (v : Word) : (h.setG d v).cause = h.cause := by rw [Hart.setG_same]
@[simp] theorem Hart.setG_vec (h : Hart) (d : BitVec 5) (v : Word) : (h.setG d v).vec = h.vec := by rw [Hart.setG_same]
@[simp] theorem Hart.setG_handling (h : Hart) (d : BitVec 5) (v : Word) : (h.setG d v).handling = h.handling := by
  simp [Hart.handling]

/-- The loop-end step where no loop ends (06 R149). -/
theorem loopEnd_plain (b : Bool) (q : Word) (l : List Loop)
    (h : ∀ e ∈ l.head?, ¬ (e.last.setWidth 64 = q ∧ e.h = b)) : loopEnd b q l = (l, q + 8, false) := by
  cases l with
  | nil => rfl
  | cons e t => simp only [loopEnd, if_neg (h e rfl)]

/-- An advance from the same PC, loop stack and handling state goes on as from there. -/
theorem State.fallsThrough_advance (s t : State) (hp : t.hart.pc = s.hart.pc) (hl : t.hart.loops = s.hart.loops)
    (hc : t.hart.cause = s.hart.cause) : FallsThrough s t.advance := by
  have e : loopEnd t.hart.handling t.hart.pc t.hart.loops = loopEnd s.hart.handling s.hart.pc s.hart.loops := by
    rw [hp, hl, show t.hart.handling = s.hart.handling by simp [Hart.handling, hc]]
  exact ⟨by show (loopEnd _ _ _).2.1 = _; rw [e]; rfl, by show (loopEnd _ _ _).1 = _; rw [e]; rfl⟩

/-- Where no loop ends, an instruction that falls through goes to the next one (06 R149). -/
theorem FallsThrough.plain {s t : State} (h : FallsThrough s t) (hp : s.plainPc) :
    t.hart.pc = s.hart.pc + 8 ∧ t.hart.loops = s.hart.loops := by
  have e := loopEnd_plain s.hart.handling s.hart.pc s.hart.loops hp
  exact ⟨h.1.trans (by show (loopEnd _ _ _).2.1 = _; rw [e]), h.2.trans (by show (loopEnd _ _ _).1 = _; rw [e])⟩

/-- Where control goes stands with the acting sequencer alone. -/
theorem FallsThrough.of_hart {s t u : State} (h : FallsThrough s t) (e : u.hart = t.hart) : FallsThrough s u := by
  unfold FallsThrough at h ⊢
  rw [e]
  exact h

/-- A register write followed by an advance: the register, and nothing else. -/
theorem setG_advance_frame (s : State) (d : BitVec 5) (v : Word) : ScalarFrame s (s.setG d v).advance d v := by
  refine ⟨rfl, ?_, fun r => State.rg_setG s d r v⟩
  unfold Hart.sameButScalar State.advance State.setG Hart.advance
  rw [Hart.setG_same]

/-- What an instruction that writes one register and advances does. -/
theorem writes_of_writeG (i : Instr) (s : State) (d : BitVec 5) (v : Word) (h : exec i s = s.writeG d v) :
    Writes i s d v :=
  ⟨_, h, setG_advance_frame s d v, State.fallsThrough_advance s _ (Hart.setG_pc ..) (Hart.setG_loops ..) (Hart.setG_cause ..)⟩

end Sys2Proof.Machine
end

