-- ==== Sys2Proof/Laws/Control.lean ====
section
/-! SUPPORT. What a transfer of control and the delivery of a trap do. -/
set_option Elab.async false
namespace Sys2Proof.Machine

/-- No loop ends at the PC. -/
theorem State.atLoopEnd_false {s : State} (h : s.plainPc) : s.hart.atLoopEnd = false := by
  unfold State.plainPc at h
  unfold Hart.atLoopEnd
  split
  · rfl
  · rename_i e t he
    have := h e (by simp [he])
    by_cases h1 : e.h = s.hart.handling <;> by_cases h2 : e.last.setWidth 64 = s.hart.pc <;> simp_all

/-- The innermost loop ends at the PC. -/
theorem State.atLoopEnd_true {s : State} (h : ¬ s.plainPc) : s.hart.atLoopEnd = true := by
  unfold State.plainPc at h
  unfold Hart.atLoopEnd
  split
  · rename_i he; simp [he] at h
  · rename_i e t he
    simp [he] at h
    simp [h]

/-- A jump with a register written changes the register and the place in the program. -/
theorem jump_setG_frame (s : State) (pc : Word) (b : Bool) (d : BitVec 5) (v : Word) :
    ScalarFrame s ((s.jump pc b).setG d v) d v := by
  refine ⟨rfl, ?_, fun r => State.rg_setG _ d r v⟩
  unfold Hart.sameButScalar State.jump State.setG
  rw [Hart.setG_same]

/-- A jump changes the place in the program. -/
theorem jump_frame (s : State) (pc : Word) (b : Bool) : ScalarFrame s (s.jump pc b) 0 0 := by
  refine ⟨rfl, rfl, fun r => ?_⟩
  show s.hart.rg r = if r = 0 then 0 else if r = 0 then 0 else s.hart.rg r
  by_cases hr : r = 0
  · rw [if_pos hr]; simp only [hr, Hart.rg, if_pos]
  · rw [if_neg hr, if_neg hr]

/-- A step that jumps. -/
theorem jumps_of_jump {i : Instr} {s : State} {pc : Word} {b : Bool} (e : exec i s = .next (s.jump pc b)) :
    Jumps i s pc 0 0 := ⟨_, e, jump_frame s pc b, rfl, rfl⟩

/-- A step that jumps and writes a register. -/
theorem jumps_of_jump_setG {i : Instr} {s : State} {pc : Word} {b : Bool} {d : BitVec 5} {v : Word}
    (e : exec i s = .next ((s.jump pc b).setG d v)) : Jumps i s pc d v :=
  ⟨_, e, jump_setG_frame s pc b d v, Hart.setG_pc .., Hart.setG_loops ..⟩

/-- A delivered trap (22 R430). -/
theorem State.takeTrap_taken (s : State) (c : Cause) (h : s.canTrap) (hc : c.code < 256) :
    TrapTaken s (s.takeTrap c) c.code (c.sub % 65536) (c.epc &&& 0xFFFFFFFFFFFFFFF8#64) c.tval := by
  unfold State.takeTrap
  rw [if_neg (by simp [h.1]), if_neg h.2]
  have hs := Nat.mod_lt c.sub (show 65536 > 0 by decide)
  refine ⟨rfl, rfl, ?_, ?_, ?_, ?_, ?_, ?_⟩ <;>
    simp only [State.deliver, Cause.word, bit, wbits, field, bitOf, BitVec.toNat_ofNat] <;>
    generalize c.sub % 65536 = x at * <;> generalize c.code = y at * <;>
    cases c.das <;> cases c.vec <;> cases s.hart.level <;>
    simp only [show (Level.program == Level.supervisor) = false from rfl,
      show (Level.supervisor == Level.supervisor) = true from rfl]
  all_goals simp
  all_goals omega

/-- An instruction whose word traps with a cause of 04 Table 4.7. -/
theorem traps_of_trapWord (i : Instr) (s : State) (w : Word) (code : Nat) (hc : code < 256) (h : s.canTrap)
    (e : exec i s = .next (s.trapWord w code)) : TrapsHere i s code w := ⟨_, e, s.takeTrap_taken _ h hc⟩

/-- The end of an instruction changes nothing else outside the acting sequencer than what became of its answers. -/
theorem State.sameButSeq_endInstr {s t : State} (h : s.sameButSeq t) : s.sameButSeq t.endInstr := by
  unfold State.sameButSeq at h ⊢
  unfold State.endInstr State.settle
  rw [h]

/-- A computation that traps at once, where DAS asks for nothing. -/
theorem traps_of_raise (i : Instr) (s : State) (w tval : Word) (m : M Unit) (c : Nat) (hc : c < 256) (h : s.canTrap)
    (hd : dasAsks w c false = false) (e : exec i s = s.run w m) (hm : m s = (.error (.trap c tval 0 false), s)) :
    TrapsHere i s c tval := by
  let t : State := { s with rix := 0 }
  have hr : exec i s = .next (t.endInstr.takeTrap (t.causeOf w c tval 0 false)) := by
    rw [e, State.run_trap hm hd]; rfl
  have ht := t.endInstr.takeTrap_taken (t.causeOf w c tval 0 false) h hc
  refine ⟨_, hr, ?_, ht.2.1, ht.2.2⟩
  have := ht.1
  unfold State.sameButSeq at this ⊢
  rw [this]; rfl

end Sys2Proof.Machine
end

