-- ==== Sys2Proof/Laws/Formats.lean ====
section
/-! SUPPORT. The fields of an encoded word are the fields that were encoded (04 Table 4.1). -/
set_option Elab.async false
namespace Sys2Proof

/-- OP of an encoded word of format RR. -/
theorem opOf_encRr (op : BitVec 8) (fn : BitVec 6) (f : RrF) : opOf (encRr op fn f) = op.toNat := by
  unfold opOf encRr
  simp (disch := decide) only [BitVec.extractLsb'_append_eq_of_le]
  simp

/-- FN of an encoded word of format RR. -/
theorem fnOf_encRr (op : BitVec 8) (fn : BitVec 6) (f : RrF) : fnOf (encRr op fn f) = fn.toNat := by
  unfold fnOf encRr
  simp (disch := decide) only [BitVec.extractLsb'_append_eq_of_le, BitVec.extractLsb'_append_eq_of_add_le]
  simp

/-- FN of an encoded word of format RR, as bits. -/
theorem fnBits_encRr (op : BitVec 8) (fn : BitVec 6) (f : RrF) : (encRr op fn f).extractLsb' 50 6 = fn := by
  unfold encRr
  simp (disch := decide) only [BitVec.extractLsb'_append_eq_of_le, BitVec.extractLsb'_append_eq_of_add_le]
  simp

/-- The fields of an encoded word of format RR. -/
theorem rrOf_encRr (op : BitVec 8) (fn : BitVec 6) (f : RrF) : rrOf (encRr op fn f) = f := by
  cases f
  unfold rrOf encRr
  simp (disch := decide) only [BitVec.extractLsb'_append_eq_of_le, BitVec.extractLsb'_append_eq_of_add_le]
  simp

/-- OP of an encoded word of format RI. -/
theorem opOf_encRi (op : BitVec 8) (fn : BitVec 6) (f : RiF) : opOf (encRi op fn f) = op.toNat := by
  unfold opOf encRi
  simp (disch := decide) only [BitVec.extractLsb'_append_eq_of_le]
  simp

/-- FN of an encoded word of format RI. -/
theorem fnOf_encRi (op : BitVec 8) (fn : BitVec 6) (f : RiF) : fnOf (encRi op fn f) = fn.toNat := by
  unfold fnOf encRi
  simp (disch := decide) only [BitVec.extractLsb'_append_eq_of_le, BitVec.extractLsb'_append_eq_of_add_le]
  simp

/-- FN of an encoded word of format RI, as bits. -/
theorem fnBits_encRi (op : BitVec 8) (fn : BitVec 6) (f : RiF) : (encRi op fn f).extractLsb' 50 6 = fn := by
  unfold encRi
  simp (disch := decide) only [BitVec.extractLsb'_append_eq_of_le, BitVec.extractLsb'_append_eq_of_add_le]
  simp

/-- The fields of an encoded word of format RI. -/
theorem riOf_encRi (op : BitVec 8) (fn : BitVec 6) (f : RiF) : riOf (encRi op fn f) = f := by
  cases f
  unfold riOf encRi
  simp (disch := decide) only [BitVec.extractLsb'_append_eq_of_le, BitVec.extractLsb'_append_eq_of_add_le]
  simp

/-- OP of an encoded word of format LI. -/
theorem opOf_encLi (op : BitVec 8) (fn : BitVec 6) (f : LiF) : opOf (encLi op fn f) = op.toNat := by
  unfold opOf encLi
  simp (disch := decide) only [BitVec.extractLsb'_append_eq_of_le]
  simp

/-- FN of an encoded word of format LI. -/
theorem fnOf_encLi (op : BitVec 8) (fn : BitVec 6) (f : LiF) : fnOf (encLi op fn f) = fn.toNat := by
  unfold fnOf encLi
  simp (disch := decide) only [BitVec.extractLsb'_append_eq_of_le, BitVec.extractLsb'_append_eq_of_add_le]
  simp

/-- FN of an encoded word of format LI, as bits. -/
theorem fnBits_encLi (op : BitVec 8) (fn : BitVec 6) (f : LiF) : (encLi op fn f).extractLsb' 50 6 = fn := by
  unfold encLi
  simp (disch := decide) only [BitVec.extractLsb'_append_eq_of_le, BitVec.extractLsb'_append_eq_of_add_le]
  simp

/-- The fields of an encoded word of format LI. -/
theorem liOf_encLi (op : BitVec 8) (fn : BitVec 6) (f : LiF) : liOf (encLi op fn f) = f := by
  cases f
  unfold liOf encLi
  simp (disch := decide) only [BitVec.extractLsb'_append_eq_of_le, BitVec.extractLsb'_append_eq_of_add_le]
  simp

/-- OP of an encoded word of format BR. -/
theorem opOf_encBr (op : BitVec 8) (fn : BitVec 6) (f : BrF) : opOf (encBr op fn f) = op.toNat := by
  unfold opOf encBr
  simp (disch := decide) only [BitVec.extractLsb'_append_eq_of_le]
  simp

/-- FN of an encoded word of format BR. -/
theorem fnOf_encBr (op : BitVec 8) (fn : BitVec 6) (f : BrF) : fnOf (encBr op fn f) = fn.toNat := by
  unfold fnOf encBr
  simp (disch := decide) only [BitVec.extractLsb'_append_eq_of_le, BitVec.extractLsb'_append_eq_of_add_le]
  simp

/-- FN of an encoded word of format BR, as bits. -/
theorem fnBits_encBr (op : BitVec 8) (fn : BitVec 6) (f : BrF) : (encBr op fn f).extractLsb' 50 6 = fn := by
  unfold encBr
  simp (disch := decide) only [BitVec.extractLsb'_append_eq_of_le, BitVec.extractLsb'_append_eq_of_add_le]
  simp

/-- The fields of an encoded word of format BR. -/
theorem brOf_encBr (op : BitVec 8) (fn : BitVec 6) (f : BrF) : brOf (encBr op fn f) = f := by
  cases f
  unfold brOf encBr
  simp (disch := decide) only [BitVec.extractLsb'_append_eq_of_le, BitVec.extractLsb'_append_eq_of_add_le]
  simp

/-- OP of an encoded word of format VV. -/
theorem opOf_encVv (op : BitVec 8) (fn : BitVec 6) (f : VvF) : opOf (encVv op fn f) = op.toNat := by
  unfold opOf encVv
  simp (disch := decide) only [BitVec.extractLsb'_append_eq_of_le]
  simp

/-- FN of an encoded word of format VV. -/
theorem fnOf_encVv (op : BitVec 8) (fn : BitVec 6) (f : VvF) : fnOf (encVv op fn f) = fn.toNat := by
  unfold fnOf encVv
  simp (disch := decide) only [BitVec.extractLsb'_append_eq_of_le, BitVec.extractLsb'_append_eq_of_add_le]
  simp

/-- FN of an encoded word of format VV, as bits. -/
theorem fnBits_encVv (op : BitVec 8) (fn : BitVec 6) (f : VvF) : (encVv op fn f).extractLsb' 50 6 = fn := by
  unfold encVv
  simp (disch := decide) only [BitVec.extractLsb'_append_eq_of_le, BitVec.extractLsb'_append_eq_of_add_le]
  simp

/-- The fields of an encoded word of format VV. -/
theorem vvOf_encVv (op : BitVec 8) (fn : BitVec 6) (f : VvF) : vvOf (encVv op fn f) = f := by
  cases f
  unfold vvOf encVv
  simp (disch := decide) only [BitVec.extractLsb'_append_eq_of_le, BitVec.extractLsb'_append_eq_of_add_le]
  simp

/-- OP of an encoded word of format VM. -/
theorem opOf_encVm (op : BitVec 8) (fn : BitVec 6) (f : VmF) : opOf (encVm op fn f) = op.toNat := by
  unfold opOf encVm
  simp (disch := decide) only [BitVec.extractLsb'_append_eq_of_le]
  simp

/-- FN of an encoded word of format VM. -/
theorem fnOf_encVm (op : BitVec 8) (fn : BitVec 6) (f : VmF) : fnOf (encVm op fn f) = fn.toNat := by
  unfold fnOf encVm
  simp (disch := decide) only [BitVec.extractLsb'_append_eq_of_le, BitVec.extractLsb'_append_eq_of_add_le]
  simp

/-- FN of an encoded word of format VM, as bits. -/
theorem fnBits_encVm (op : BitVec 8) (fn : BitVec 6) (f : VmF) : (encVm op fn f).extractLsb' 50 6 = fn := by
  unfold encVm
  simp (disch := decide) only [BitVec.extractLsb'_append_eq_of_le, BitVec.extractLsb'_append_eq_of_add_le]
  simp

/-- The fields of an encoded word of format VM. -/
theorem vmOf_encVm (op : BitVec 8) (fn : BitVec 6) (f : VmF) : vmOf (encVm op fn f) = f := by
  cases f
  unfold vmOf encVm
  simp (disch := decide) only [BitVec.extractLsb'_append_eq_of_le, BitVec.extractLsb'_append_eq_of_add_le]
  simp

/-- OP of an encoded word of format SG. -/
theorem opOf_encSg (op : BitVec 8) (fn : BitVec 6) (f : SgF) : opOf (encSg op fn f) = op.toNat := by
  unfold opOf encSg
  simp (disch := decide) only [BitVec.extractLsb'_append_eq_of_le]
  simp

/-- FN of an encoded word of format SG. -/
theorem fnOf_encSg (op : BitVec 8) (fn : BitVec 6) (f : SgF) : fnOf (encSg op fn f) = fn.toNat := by
  unfold fnOf encSg
  simp (disch := decide) only [BitVec.extractLsb'_append_eq_of_le, BitVec.extractLsb'_append_eq_of_add_le]
  simp

/-- FN of an encoded word of format SG, as bits. -/
theorem fnBits_encSg (op : BitVec 8) (fn : BitVec 6) (f : SgF) : (encSg op fn f).extractLsb' 50 6 = fn := by
  unfold encSg
  simp (disch := decide) only [BitVec.extractLsb'_append_eq_of_le, BitVec.extractLsb'_append_eq_of_add_le]
  simp

/-- The fields of an encoded word of format SG. -/
theorem sgOf_encSg (op : BitVec 8) (fn : BitVec 6) (f : SgF) : sgOf (encSg op fn f) = f := by
  cases f
  unfold sgOf encSg
  simp (disch := decide) only [BitVec.extractLsb'_append_eq_of_le, BitVec.extractLsb'_append_eq_of_add_le]
  simp

/-- OP of an encoded word of format CL. -/
theorem opOf_encCl (op : BitVec 8) (fn : BitVec 6) (f : ClF) : opOf (encCl op fn f) = op.toNat := by
  unfold opOf encCl
  simp (disch := decide) only [BitVec.extractLsb'_append_eq_of_le]
  simp

/-- FN of an encoded word of format CL. -/
theorem fnOf_encCl (op : BitVec 8) (fn : BitVec 6) (f : ClF) : fnOf (encCl op fn f) = fn.toNat := by
  unfold fnOf encCl
  simp (disch := decide) only [BitVec.extractLsb'_append_eq_of_le, BitVec.extractLsb'_append_eq_of_add_le]
  simp

/-- FN of an encoded word of format CL, as bits. -/
theorem fnBits_encCl (op : BitVec 8) (fn : BitVec 6) (f : ClF) : (encCl op fn f).extractLsb' 50 6 = fn := by
  unfold encCl
  simp (disch := decide) only [BitVec.extractLsb'_append_eq_of_le, BitVec.extractLsb'_append_eq_of_add_le]
  simp

/-- The fields of an encoded word of format CL. -/
theorem clOf_encCl (op : BitVec 8) (fn : BitVec 6) (f : ClF) : clOf (encCl op fn f) = f := by
  cases f
  unfold clOf encCl
  simp (disch := decide) only [BitVec.extractLsb'_append_eq_of_le, BitVec.extractLsb'_append_eq_of_add_le]
  simp

/-- OP of an encoded word of format SY. -/
theorem opOf_encSy (op : BitVec 8) (fn : BitVec 6) (f : SyF) : opOf (encSy op fn f) = op.toNat := by
  unfold opOf encSy
  simp (disch := decide) only [BitVec.extractLsb'_append_eq_of_le]
  simp

/-- FN of an encoded word of format SY. -/
theorem fnOf_encSy (op : BitVec 8) (fn : BitVec 6) (f : SyF) : fnOf (encSy op fn f) = fn.toNat := by
  unfold fnOf encSy
  simp (disch := decide) only [BitVec.extractLsb'_append_eq_of_le, BitVec.extractLsb'_append_eq_of_add_le]
  simp

/-- FN of an encoded word of format SY, as bits. -/
theorem fnBits_encSy (op : BitVec 8) (fn : BitVec 6) (f : SyF) : (encSy op fn f).extractLsb' 50 6 = fn := by
  unfold encSy
  simp (disch := decide) only [BitVec.extractLsb'_append_eq_of_le, BitVec.extractLsb'_append_eq_of_add_le]
  simp

/-- The fields of an encoded word of format SY. -/
theorem syOf_encSy (op : BitVec 8) (fn : BitVec 6) (f : SyF) : syOf (encSy op fn f) = f := by
  cases f
  unfold syOf encSy
  simp (disch := decide) only [BitVec.extractLsb'_append_eq_of_le, BitVec.extractLsb'_append_eq_of_add_le]
  simp

/-- OP of an encoded word of format BT. -/
theorem opOf_encBt (op : BitVec 8) (fn : BitVec 6) (f : BtF) : opOf (encBt op fn f) = op.toNat := by
  unfold opOf encBt
  simp (disch := decide) only [BitVec.extractLsb'_append_eq_of_le]
  simp

/-- FN of an encoded word of format BT. -/
theorem fnOf_encBt (op : BitVec 8) (fn : BitVec 6) (f : BtF) : fnOf (encBt op fn f) = fn.toNat := by
  unfold fnOf encBt
  simp (disch := decide) only [BitVec.extractLsb'_append_eq_of_le, BitVec.extractLsb'_append_eq_of_add_le]
  simp

/-- FN of an encoded word of format BT, as bits. -/
theorem fnBits_encBt (op : BitVec 8) (fn : BitVec 6) (f : BtF) : (encBt op fn f).extractLsb' 50 6 = fn := by
  unfold encBt
  simp (disch := decide) only [BitVec.extractLsb'_append_eq_of_le, BitVec.extractLsb'_append_eq_of_add_le]
  simp

/-- The fields of an encoded word of format BT. -/
theorem btOf_encBt (op : BitVec 8) (fn : BitVec 6) (f : BtF) : btOf (encBt op fn f) = f := by
  cases f
  unfold btOf encBt
  simp (disch := decide) only [BitVec.extractLsb'_append_eq_of_le, BitVec.extractLsb'_append_eq_of_add_le]
  simp

/-- The bits below the fields of format RR are zero. -/
theorem low_encRr (op : BitVec 8) (fn : BitVec 6) (f : RrF) : (encRr op fn f).extractLsb' 0 30 = 0#30 := by
  unfold encRr
  simp (disch := decide) only [BitVec.extractLsb'_append_eq_of_add_le]
  simp

/-- The bits below the fields of format CL are zero. -/
theorem low_encCl (op : BitVec 8) (fn : BitVec 6) (f : ClF) : (encCl op fn f).extractLsb' 0 17 = 0#17 := by
  unfold encCl
  simp (disch := decide) only [BitVec.extractLsb'_append_eq_of_add_le]
  simp

/-- The bits below the fields of format BT are zero. -/
theorem low_encBt (op : BitVec 8) (fn : BitVec 6) (f : BtF) : (encBt op fn f).extractLsb' 0 26 = 0#26 := by
  unfold encBt
  simp (disch := decide) only [BitVec.extractLsb'_append_eq_of_add_le]
  simp

/-- The unused bits between the fields of format BT are zero. -/
theorem mid_encBt (op : BitVec 8) (fn : BitVec 6) (f : BtF) : (encBt op fn f).extractLsb' 30 5 = 0#5 := by
  unfold encBt
  simp (disch := decide) only [BitVec.extractLsb'_append_eq_of_le, BitVec.extractLsb'_append_eq_of_add_le]
  simp

/-- A code of 3 bits in FN of an encoded word of format RR. -/
theorem fn3_encRr (op : BitVec 8) (x : BitVec 3) (f : RrF) : (encRr op (x.setWidth 6) f).extractLsb' 50 3 = x := by
  unfold encRr
  simp (disch := decide) only [BitVec.extractLsb'_append_eq_of_le, BitVec.extractLsb'_append_eq_of_add_le]
  ext i hi
  have h6 : i < 6 := by omega
  simp [h6, BitVec.getLsbD_eq_getElem, hi]

/-- A code of 3 bits in FN of an encoded word of format BR. -/
theorem fn3_encBr (op : BitVec 8) (x : BitVec 3) (f : BrF) : (encBr op (x.setWidth 6) f).extractLsb' 50 3 = x := by
  unfold encBr
  simp (disch := decide) only [BitVec.extractLsb'_append_eq_of_le, BitVec.extractLsb'_append_eq_of_add_le]
  ext i hi
  have h6 : i < 6 := by omega
  simp [h6, BitVec.getLsbD_eq_getElem, hi]

/-- A code of 2 bits in FN of an encoded word of format RI. -/
theorem fn2_encRi (op : BitVec 8) (x : BitVec 2) (f : RiF) : (encRi op (x.setWidth 6) f).extractLsb' 50 2 = x := by
  unfold encRi
  simp (disch := decide) only [BitVec.extractLsb'_append_eq_of_le, BitVec.extractLsb'_append_eq_of_add_le]
  ext i hi
  have h6 : i < 6 := by omega
  simp [h6, BitVec.getLsbD_eq_getElem, hi]

/-- A code of 2 bits in FN of an encoded word of format SG. -/
theorem fn2_encSg (op : BitVec 8) (x : BitVec 2) (f : SgF) : (encSg op (x.setWidth 6) f).extractLsb' 50 2 = x := by
  unfold encSg
  simp (disch := decide) only [BitVec.extractLsb'_append_eq_of_le, BitVec.extractLsb'_append_eq_of_add_le]
  ext i hi
  have h6 : i < 6 := by omega
  simp [h6, BitVec.getLsbD_eq_getElem, hi]

end Sys2Proof
end

