-- ==== Sys2Proof/Laws/PerInstr.lean ====
section
/-! SUPPORT. The round trip of encoding, instruction by instruction (04 Tables 4.1, 4.6, 4.7). -/
namespace Sys2Proof

/-- Decoding the word of a well-formed instruction gives it back; a close of a chute is spelled by the word of an open,
for bit 8 of a register tells them apart (R414). -/
def Laws.RoundTrip.Statement (i : Instr) : Prop :=
  ∀ w, encode i = some w → i.wf = true → decode w = .ok
    (match i with
     | .chputClose f => .chputOpen f
     | .chgetClose f => .chgetOpen f
     | i => i)

/-- A word that passes the checks of Table 4.7 decodes to its operation with its operands. -/
theorem decode_of_checks (o : Op) (w : Word) (hr : decodeRaw w = some o) (hf : formatOk w = true)
    (hl : (Legal.rsvdOk o w && Legal.codeOk o w && Legal.comboOk o w) = true) : decode w = .ok (o.toInstr w) := by
  simp only [Bool.and_eq_true] at hl
  simp [decode, decodeOp, hr, hf, hl]

/-- The operation codes of format RR whose words leave bits [29:0] out. -/
def isRrOp (op : Nat) : Bool :=
  decide (op = 0x01 ∨ op = 0x03 ∨ op = 0x04 ∨ op = 0x1B ∨ op = 0x1D ∨ op = 0x1E ∨ op = 0x63 ∨ op = 0x66 ∨ op = 0x80
    ∨ op = 0x81 ∨ op = 0x82 ∨ op = 0x89 ∨ op = 0x93 ∨ op = 0x94 ∨ op = 0x95)

/-- The format check of a word of format RR. -/
theorem formatOk_rr (w : Word) (h : isRrOp (opOf w) = true) (hl : w.extractLsb' 0 30 = 0#30) : formatOk w = true := by
  have h := of_decide_eq_true h
  simp only [formatOk, if_pos h, hl]; rfl

/-- The format check of a word of format CL. -/
theorem formatOk_cl (w : Word) (h : (!isRrOp (opOf w) && decide (0x70 ≤ opOf w ∧ opOf w ≤ 0x7D)) = true)
    (hl : w.extractLsb' 0 17 = 0#17) : formatOk w = true := by
  simp only [Bool.and_eq_true, decide_eq_true_eq, isRrOp, Bool.not_eq_true', decide_eq_false_iff_not] at h
  simp only [formatOk, if_neg h.1, if_pos h.2, hl]; rfl

/-- The format check of a word of format BT. -/
theorem formatOk_bt (w : Word) (h : opOf w = 0x88) (hl : w.extractLsb' 0 26 = 0#26) (hm : w.extractLsb' 30 5 = 0#5) :
    formatOk w = true := by
  simp only [formatOk, h, hl, hm]; rfl

/-- The format check of a word of any other format. -/
theorem formatOk_other (w : Word)
    (h : (!isRrOp (opOf w) && !decide (0x70 ≤ opOf w ∧ opOf w ≤ 0x7D) && decide (opOf w ≠ 0x88)) = true) :
    formatOk w = true := by
  simp only [Bool.and_eq_true, decide_eq_true_eq, isRrOp, Bool.not_eq_true', decide_eq_false_iff_not] at h
  simp only [formatOk, if_neg h.1.1, if_neg h.1.2, if_neg h.2]

/-- The round trip from the four facts about an instruction's word. -/
theorem roundTrip_of (i j : Instr) (o p : Op) (w : Word) (he : encode i = some w) (ho : i.op = some o)
    (hr : Legal.rsvdOk o w = true → Legal.codeOk o w = true → decodeRaw w = some p) (hf : formatOk w = true)
    (hp : (Legal.rsvdOk p w && Legal.codeOk p w && Legal.comboOk p w)
      = (Legal.rsvdOk o w && Legal.codeOk o w && Legal.comboOk o w)) (hi : p.toInstr w = j) :
    ∀ v, encode i = some v → i.wf = true → decode v = .ok j := by
  intro v hv hw
  rw [he] at hv
  cases hv
  simp only [Instr.wf, ho, he] at hw
  have hc : Legal.rsvdOk o w = true ∧ Legal.codeOk o w = true := by
    simp only [Bool.and_eq_true] at hw
    exact hw.1
  rw [decode_of_checks p w (hr hc.1 hc.2) hf (hp.trans hw), hi]

/-- The round trip of a constructor that is no instruction word. -/
theorem roundTrip_event (i j : Instr) (he : encode i = none) :
    ∀ v, encode i = some v → i.wf = true → decode v = .ok j := by
  intro v hv
  rw [he] at hv
  cases hv

namespace Laws
set_option Elab.async false

theorem RoundTrip.add (f : RrF) : RoundTrip.Statement (.add f) :=
  roundTrip_of (.add f) (.add f) .add .add (encRr 0x01 0 f) rfl rfl (by intro _ _; unfold decodeRaw; rw [opOf_encRr, fnOf_encRr]; rfl) (by exact formatOk_rr _ (by rw [opOf_encRr]; decide) (low_encRr _ _ _)) rfl (by exact congrArg Instr.add (rrOf_encRr _ _ _))
theorem RoundTrip.sub (f : RrF) : RoundTrip.Statement (.sub f) :=
  roundTrip_of (.sub f) (.sub f) .sub .sub (encRr 0x01 1 f) rfl rfl (by intro _ _; unfold decodeRaw; rw [opOf_encRr, fnOf_encRr]; rfl) (by exact formatOk_rr _ (by rw [opOf_encRr]; decide) (low_encRr _ _ _)) rfl (by exact congrArg Instr.sub (rrOf_encRr _ _ _))
theorem RoundTrip.mul (f : RrF) : RoundTrip.Statement (.mul f) :=
  roundTrip_of (.mul f) (.mul f) .mul .mul (encRr 0x01 2 f) rfl rfl (by intro _ _; unfold decodeRaw; rw [opOf_encRr, fnOf_encRr]; rfl) (by exact formatOk_rr _ (by rw [opOf_encRr]; decide) (low_encRr _ _ _)) rfl (by exact congrArg Instr.mul (rrOf_encRr _ _ _))
theorem RoundTrip.mulh (f : RrF) : RoundTrip.Statement (.mulh f) :=
  roundTrip_of (.mulh f) (.mulh f) .mulh .mulh (encRr 0x01 3 f) rfl rfl (by intro _ _; unfold decodeRaw; rw [opOf_encRr, fnOf_encRr]; rfl) (by exact formatOk_rr _ (by rw [opOf_encRr]; decide) (low_encRr _ _ _)) rfl (by exact congrArg Instr.mulh (rrOf_encRr _ _ _))
theorem RoundTrip.mulhn (f : RrF) : RoundTrip.Statement (.mulhn f) :=
  roundTrip_of (.mulhn f) (.mulhn f) .mulhn .mulhn (encRr 0x01 4 f) rfl rfl (by intro _ _; unfold decodeRaw; rw [opOf_encRr, fnOf_encRr]; rfl) (by exact formatOk_rr _ (by rw [opOf_encRr]; decide) (low_encRr _ _ _)) rfl (by exact congrArg Instr.mulhn (rrOf_encRr _ _ _))
theorem RoundTrip.div (f : RrF) : RoundTrip.Statement (.div f) :=
  roundTrip_of (.div f) (.div f) .div .div (encRr 0x01 5 f) rfl rfl (by intro _ _; unfold decodeRaw; rw [opOf_encRr, fnOf_encRr]; rfl) (by exact formatOk_rr _ (by rw [opOf_encRr]; decide) (low_encRr _ _ _)) rfl (by exact congrArg Instr.div (rrOf_encRr _ _ _))
theorem RoundTrip.divn (f : RrF) : RoundTrip.Statement (.divn f) :=
  roundTrip_of (.divn f) (.divn f) .divn .divn (encRr 0x01 6 f) rfl rfl (by intro _ _; unfold decodeRaw; rw [opOf_encRr, fnOf_encRr]; rfl) (by exact formatOk_rr _ (by rw [opOf_encRr]; decide) (low_encRr _ _ _)) rfl (by exact congrArg Instr.divn (rrOf_encRr _ _ _))
theorem RoundTrip.rem (f : RrF) : RoundTrip.Statement (.rem f) :=
  roundTrip_of (.rem f) (.rem f) .rem .rem (encRr 0x01 7 f) rfl rfl (by intro _ _; unfold decodeRaw; rw [opOf_encRr, fnOf_encRr]; rfl) (by exact formatOk_rr _ (by rw [opOf_encRr]; decide) (low_encRr _ _ _)) rfl (by exact congrArg Instr.rem (rrOf_encRr _ _ _))
theorem RoundTrip.remn (f : RrF) : RoundTrip.Statement (.remn f) :=
  roundTrip_of (.remn f) (.remn f) .remn .remn (encRr 0x01 8 f) rfl rfl (by intro _ _; unfold decodeRaw; rw [opOf_encRr, fnOf_encRr]; rfl) (by exact formatOk_rr _ (by rw [opOf_encRr]; decide) (low_encRr _ _ _)) rfl (by exact congrArg Instr.remn (rrOf_encRr _ _ _))
theorem RoundTrip.and (f : RrF) : RoundTrip.Statement (.and f) :=
  roundTrip_of (.and f) (.and f) .and .and (encRr 0x01 9 f) rfl rfl (by intro _ _; unfold decodeRaw; rw [opOf_encRr, fnOf_encRr]; rfl) (by exact formatOk_rr _ (by rw [opOf_encRr]; decide) (low_encRr _ _ _)) rfl (by exact congrArg Instr.and (rrOf_encRr _ _ _))
theorem RoundTrip.or (f : RrF) : RoundTrip.Statement (.or f) :=
  roundTrip_of (.or f) (.or f) .or .or (encRr 0x01 10 f) rfl rfl (by intro _ _; unfold decodeRaw; rw [opOf_encRr, fnOf_encRr]; rfl) (by exact formatOk_rr _ (by rw [opOf_encRr]; decide) (low_encRr _ _ _)) rfl (by exact congrArg Instr.or (rrOf_encRr _ _ _))
theorem RoundTrip.xor (f : RrF) : RoundTrip.Statement (.xor f) :=
  roundTrip_of (.xor f) (.xor f) .xor .xor (encRr 0x01 11 f) rfl rfl (by intro _ _; unfold decodeRaw; rw [opOf_encRr, fnOf_encRr]; rfl) (by exact formatOk_rr _ (by rw [opOf_encRr]; decide) (low_encRr _ _ _)) rfl (by exact congrArg Instr.xor (rrOf_encRr _ _ _))
theorem RoundTrip.andn (f : RrF) : RoundTrip.Statement (.andn f) :=
  roundTrip_of (.andn f) (.andn f) .andn .andn (encRr 0x01 12 f) rfl rfl (by intro _ _; unfold decodeRaw; rw [opOf_encRr, fnOf_encRr]; rfl) (by exact formatOk_rr _ (by rw [opOf_encRr]; decide) (low_encRr _ _ _)) rfl (by exact congrArg Instr.andn (rrOf_encRr _ _ _))
theorem RoundTrip.shl (f : RrF) : RoundTrip.Statement (.shl f) :=
  roundTrip_of (.shl f) (.shl f) .shl .shl (encRr 0x01 13 f) rfl rfl (by intro _ _; unfold decodeRaw; rw [opOf_encRr, fnOf_encRr]; rfl) (by exact formatOk_rr _ (by rw [opOf_encRr]; decide) (low_encRr _ _ _)) rfl (by exact congrArg Instr.shl (rrOf_encRr _ _ _))
theorem RoundTrip.shr (f : RrF) : RoundTrip.Statement (.shr f) :=
  roundTrip_of (.shr f) (.shr f) .shr .shr (encRr 0x01 14 f) rfl rfl (by intro _ _; unfold decodeRaw; rw [opOf_encRr, fnOf_encRr]; rfl) (by exact formatOk_rr _ (by rw [opOf_encRr]; decide) (low_encRr _ _ _)) rfl (by exact congrArg Instr.shr (rrOf_encRr _ _ _))
theorem RoundTrip.sra (f : RrF) : RoundTrip.Statement (.sra f) :=
  roundTrip_of (.sra f) (.sra f) .sra .sra (encRr 0x01 15 f) rfl rfl (by intro _ _; unfold decodeRaw; rw [opOf_encRr, fnOf_encRr]; rfl) (by exact formatOk_rr _ (by rw [opOf_encRr]; decide) (low_encRr _ _ _)) rfl (by exact congrArg Instr.sra (rrOf_encRr _ _ _))
theorem RoundTrip.rotl (f : RrF) : RoundTrip.Statement (.rotl f) :=
  roundTrip_of (.rotl f) (.rotl f) .rotl .rotl (encRr 0x01 16 f) rfl rfl (by intro _ _; unfold decodeRaw; rw [opOf_encRr, fnOf_encRr]; rfl) (by exact formatOk_rr _ (by rw [opOf_encRr]; decide) (low_encRr _ _ _)) rfl (by exact congrArg Instr.rotl (rrOf_encRr _ _ _))
theorem RoundTrip.min (f : RrF) : RoundTrip.Statement (.min f) :=
  roundTrip_of (.min f) (.min f) .min .min (encRr 0x01 17 f) rfl rfl (by intro _ _; unfold decodeRaw; rw [opOf_encRr, fnOf_encRr]; rfl) (by exact formatOk_rr _ (by rw [opOf_encRr]; decide) (low_encRr _ _ _)) rfl (by exact congrArg Instr.min (rrOf_encRr _ _ _))
theorem RoundTrip.max (f : RrF) : RoundTrip.Statement (.max f) :=
  roundTrip_of (.max f) (.max f) .max .max (encRr 0x01 18 f) rfl rfl (by intro _ _; unfold decodeRaw; rw [opOf_encRr, fnOf_encRr]; rfl) (by exact formatOk_rr _ (by rw [opOf_encRr]; decide) (low_encRr _ _ _)) rfl (by exact congrArg Instr.max (rrOf_encRr _ _ _))
theorem RoundTrip.minn (f : RrF) : RoundTrip.Statement (.minn f) :=
  roundTrip_of (.minn f) (.minn f) .minn .minn (encRr 0x01 19 f) rfl rfl (by intro _ _; unfold decodeRaw; rw [opOf_encRr, fnOf_encRr]; rfl) (by exact formatOk_rr _ (by rw [opOf_encRr]; decide) (low_encRr _ _ _)) rfl (by exact congrArg Instr.minn (rrOf_encRr _ _ _))
theorem RoundTrip.maxn (f : RrF) : RoundTrip.Statement (.maxn f) :=
  roundTrip_of (.maxn f) (.maxn f) .maxn .maxn (encRr 0x01 20 f) rfl rfl (by intro _ _; unfold decodeRaw; rw [opOf_encRr, fnOf_encRr]; rfl) (by exact formatOk_rr _ (by rw [opOf_encRr]; decide) (low_encRr _ _ _)) rfl (by exact congrArg Instr.maxn (rrOf_encRr _ _ _))
theorem RoundTrip.sel (f : RrF) : RoundTrip.Statement (.sel f) :=
  roundTrip_of (.sel f) (.sel f) .sel .sel (encRr 0x01 21 f) rfl rfl (by intro _ _; unfold decodeRaw; rw [opOf_encRr, fnOf_encRr]; rfl) (by exact formatOk_rr _ (by rw [opOf_encRr]; decide) (low_encRr _ _ _)) rfl (by exact congrArg Instr.sel (rrOf_encRr _ _ _))
theorem RoundTrip.fshl (f : RrF) : RoundTrip.Statement (.fshl f) :=
  roundTrip_of (.fshl f) (.fshl f) .fshl .fshl (encRr 0x01 22 f) rfl rfl (by intro _ _; unfold decodeRaw; rw [opOf_encRr, fnOf_encRr]; rfl) (by exact formatOk_rr _ (by rw [opOf_encRr]; decide) (low_encRr _ _ _)) rfl (by exact congrArg Instr.fshl (rrOf_encRr _ _ _))
theorem RoundTrip.fshr (f : RrF) : RoundTrip.Statement (.fshr f) :=
  roundTrip_of (.fshr f) (.fshr f) .fshr .fshr (encRr 0x01 23 f) rfl rfl (by intro _ _; unfold decodeRaw; rw [opOf_encRr, fnOf_encRr]; rfl) (by exact formatOk_rr _ (by rw [opOf_encRr]; decide) (low_encRr _ _ _)) rfl (by exact congrArg Instr.fshr (rrOf_encRr _ _ _))
theorem RoundTrip.addi (f : RiF) : RoundTrip.Statement (.addi f) :=
  roundTrip_of (.addi f) (.addi f) .addi .addi (encRi 0x02 0 f) rfl rfl (by intro _ _; unfold decodeRaw; rw [opOf_encRi, fnOf_encRi]; rfl) (by exact formatOk_other _ (by rw [opOf_encRi]; decide)) rfl (by exact congrArg Instr.addi (riOf_encRi _ _ _))
theorem RoundTrip.andi (f : RiF) : RoundTrip.Statement (.andi f) :=
  roundTrip_of (.andi f) (.andi f) .andi .andi (encRi 0x02 1 f) rfl rfl (by intro _ _; unfold decodeRaw; rw [opOf_encRi, fnOf_encRi]; rfl) (by exact formatOk_other _ (by rw [opOf_encRi]; decide)) rfl (by exact congrArg Instr.andi (riOf_encRi _ _ _))
theorem RoundTrip.ori (f : RiF) : RoundTrip.Statement (.ori f) :=
  roundTrip_of (.ori f) (.ori f) .ori .ori (encRi 0x02 2 f) rfl rfl (by intro _ _; unfold decodeRaw; rw [opOf_encRi, fnOf_encRi]; rfl) (by exact formatOk_other _ (by rw [opOf_encRi]; decide)) rfl (by exact congrArg Instr.ori (riOf_encRi _ _ _))
theorem RoundTrip.xori (f : RiF) : RoundTrip.Statement (.xori f) :=
  roundTrip_of (.xori f) (.xori f) .xori .xori (encRi 0x02 3 f) rfl rfl (by intro _ _; unfold decodeRaw; rw [opOf_encRi, fnOf_encRi]; rfl) (by exact formatOk_other _ (by rw [opOf_encRi]; decide)) rfl (by exact congrArg Instr.xori (riOf_encRi _ _ _))
theorem RoundTrip.shli (f : RiF) : RoundTrip.Statement (.shli f) :=
  roundTrip_of (.shli f) (.shli f) .shli .shli (encRi 0x02 4 f) rfl rfl (by intro _ _; unfold decodeRaw; rw [opOf_encRi, fnOf_encRi]; rfl) (by exact formatOk_other _ (by rw [opOf_encRi]; decide)) rfl (by exact congrArg Instr.shli (riOf_encRi _ _ _))
theorem RoundTrip.shri (f : RiF) : RoundTrip.Statement (.shri f) :=
  roundTrip_of (.shri f) (.shri f) .shri .shri (encRi 0x02 5 f) rfl rfl (by intro _ _; unfold decodeRaw; rw [opOf_encRi, fnOf_encRi]; rfl) (by exact formatOk_other _ (by rw [opOf_encRi]; decide)) rfl (by exact congrArg Instr.shri (riOf_encRi _ _ _))
theorem RoundTrip.srai (f : RiF) : RoundTrip.Statement (.srai f) :=
  roundTrip_of (.srai f) (.srai f) .srai .srai (encRi 0x02 6 f) rfl rfl (by intro _ _; unfold decodeRaw; rw [opOf_encRi, fnOf_encRi]; rfl) (by exact formatOk_other _ (by rw [opOf_encRi]; decide)) rfl (by exact congrArg Instr.srai (riOf_encRi _ _ _))
theorem RoundTrip.rotli (f : RiF) : RoundTrip.Statement (.rotli f) :=
  roundTrip_of (.rotli f) (.rotli f) .rotli .rotli (encRi 0x02 7 f) rfl rfl (by intro _ _; unfold decodeRaw; rw [opOf_encRi, fnOf_encRi]; rfl) (by exact formatOk_other _ (by rw [opOf_encRi]; decide)) rfl (by exact congrArg Instr.rotli (riOf_encRi _ _ _))
theorem RoundTrip.bext (f : RiF) : RoundTrip.Statement (.bext f) :=
  roundTrip_of (.bext f) (.bext f) .bext .bext (encRi 0x02 8 f) rfl rfl (by intro _ _; unfold decodeRaw; rw [opOf_encRi, fnOf_encRi]; rfl) (by exact formatOk_other _ (by rw [opOf_encRi]; decide)) rfl (by exact congrArg Instr.bext (riOf_encRi _ _ _))
theorem RoundTrip.bins (f : RiF) : RoundTrip.Statement (.bins f) :=
  roundTrip_of (.bins f) (.bins f) .bins .bins (encRi 0x02 9 f) rfl rfl (by intro _ _; unfold decodeRaw; rw [opOf_encRi, fnOf_encRi]; rfl) (by exact formatOk_other _ (by rw [opOf_encRi]; decide)) rfl (by exact congrArg Instr.bins (riOf_encRi _ _ _))
theorem RoundTrip.clz (f : RrF) : RoundTrip.Statement (.clz f) :=
  roundTrip_of (.clz f) (.clz f) .clz .clz (encRr 0x03 0 f) rfl rfl (by intro _ _; unfold decodeRaw; rw [opOf_encRr, fnOf_encRr]; rfl) (by exact formatOk_rr _ (by rw [opOf_encRr]; decide) (low_encRr _ _ _)) rfl (by exact congrArg Instr.clz (rrOf_encRr _ _ _))
theorem RoundTrip.ctz (f : RrF) : RoundTrip.Statement (.ctz f) :=
  roundTrip_of (.ctz f) (.ctz f) .ctz .ctz (encRr 0x03 1 f) rfl rfl (by intro _ _; unfold decodeRaw; rw [opOf_encRr, fnOf_encRr]; rfl) (by exact formatOk_rr _ (by rw [opOf_encRr]; decide) (low_encRr _ _ _)) rfl (by exact congrArg Instr.ctz (rrOf_encRr _ _ _))
theorem RoundTrip.popc (f : RrF) : RoundTrip.Statement (.popc f) :=
  roundTrip_of (.popc f) (.popc f) .popc .popc (encRr 0x03 2 f) rfl rfl (by intro _ _; unfold decodeRaw; rw [opOf_encRr, fnOf_encRr]; rfl) (by exact formatOk_rr _ (by rw [opOf_encRr]; decide) (low_encRr _ _ _)) rfl (by exact congrArg Instr.popc (rrOf_encRr _ _ _))
theorem RoundTrip.rdls (f : RrF) : RoundTrip.Statement (.rdls f) :=
  roundTrip_of (.rdls f) (.rdls f) .rdls .rdls (encRr 0x03 3 f) rfl rfl (by intro _ _; unfold decodeRaw; rw [opOf_encRr, fnOf_encRr]; rfl) (by exact formatOk_rr _ (by rw [opOf_encRr]; decide) (low_encRr _ _ _)) rfl (by exact congrArg Instr.rdls (rrOf_encRr _ _ _))
theorem RoundTrip.setc (cc : BitVec 3) (f : RrF) : RoundTrip.Statement (.setc cc f) :=
  roundTrip_of (.setc cc f) (.setc cc f) .setc .setc (encRr 0x04 (cc.setWidth 6) f) rfl rfl (by intro _ h; have h := of_decide_eq_true h; rw [fnOf_encRr] at h; unfold decodeRaw; rw [opOf_encRr, fnOf_encRr]; exact if_pos h) (by exact formatOk_rr _ (by rw [opOf_encRr]; decide) (low_encRr _ _ _)) rfl (by exact congr (congrArg Instr.setc (fn3_encRr _ _ _)) (rrOf_encRr _ _ _))
theorem RoundTrip.li (f : LiF) : RoundTrip.Statement (.li f) :=
  roundTrip_of (.li f) (.li f) .li .li (encLi 0x05 0 f) rfl rfl (by intro _ _; unfold decodeRaw; rw [opOf_encLi, fnOf_encLi]; rfl) (by exact formatOk_other _ (by rw [opOf_encLi]; decide)) rfl (by exact congrArg Instr.li (liOf_encLi _ _ _))
theorem RoundTrip.lih (f : LiF) : RoundTrip.Statement (.lih f) :=
  roundTrip_of (.lih f) (.lih f) .lih .lih (encLi 0x05 1 f) rfl rfl (by intro _ _; unfold decodeRaw; rw [opOf_encLi, fnOf_encLi]; rfl) (by exact formatOk_other _ (by rw [opOf_encLi]; decide)) rfl (by exact congrArg Instr.lih (liOf_encLi _ _ _))
theorem RoundTrip.pcadd (f : RiF) : RoundTrip.Statement (.pcadd f) :=
  roundTrip_of (.pcadd f) (.pcadd f) .pcadd .pcadd (encRi 0x06 0 f) rfl rfl (by intro _ _; unfold decodeRaw; rw [opOf_encRi, fnOf_encRi]; rfl) (by exact formatOk_other _ (by rw [opOf_encRi]; decide)) rfl (by exact congrArg Instr.pcadd (riOf_encRi _ _ _))
theorem RoundTrip.ld (sz : BitVec 2) (f : RiF) : RoundTrip.Statement (.ld sz f) :=
  roundTrip_of (.ld sz f) (.ld sz f) .ld .ld (encRi 0x10 (sz.setWidth 6) f) rfl rfl (by intro _ _; unfold decodeRaw; rw [opOf_encRi, fnOf_encRi]; exact if_pos (by have h := sz.isLt; simp; omega)) (by exact formatOk_other _ (by rw [opOf_encRi]; decide)) rfl (by exact congr (congrArg Instr.ld (fn2_encRi _ _ _)) (riOf_encRi _ _ _))
theorem RoundTrip.st (sz : BitVec 2) (f : RiF) : RoundTrip.Statement (.st sz f) :=
  roundTrip_of (.st sz f) (.st sz f) .st .st (encRi 0x11 (sz.setWidth 6) f) rfl rfl (by intro _ _; unfold decodeRaw; rw [opOf_encRi, fnOf_encRi]; exact if_pos (by have h := sz.isLt; simp; omega)) (by exact formatOk_other _ (by rw [opOf_encRi]; decide)) rfl (by exact congr (congrArg Instr.st (fn2_encRi _ _ _)) (riOf_encRi _ _ _))
theorem RoundTrip.ldOrdered (f : VmF) : RoundTrip.Statement (.ldOrdered f) :=
  roundTrip_of (.ldOrdered f) (.ldOrdered f) .ldOrdered .ldOrdered (encVm 0x12 0 f) rfl rfl (by intro _ _; unfold decodeRaw; rw [opOf_encVm, fnOf_encVm]; rfl) (by exact formatOk_other _ (by rw [opOf_encVm]; decide)) rfl (by exact congrArg Instr.ldOrdered (vmOf_encVm _ _ _))
theorem RoundTrip.stOrdered (f : VmF) : RoundTrip.Statement (.stOrdered f) :=
  roundTrip_of (.stOrdered f) (.stOrdered f) .stOrdered .stOrdered (encVm 0x13 0 f) rfl rfl (by intro _ _; unfold decodeRaw; rw [opOf_encVm, fnOf_encVm]; rfl) (by exact formatOk_other _ (by rw [opOf_encVm]; decide)) rfl (by exact congrArg Instr.stOrdered (vmOf_encVm _ _ _))
theorem RoundTrip.bc (cc : BitVec 3) (f : BrF) : RoundTrip.Statement (.bc cc f) :=
  roundTrip_of (.bc cc f) (.bc cc f) .bc .bc (encBr 0x18 (cc.setWidth 6) f) rfl rfl (by intro _ h; have h := of_decide_eq_true h; rw [fnOf_encBr] at h; unfold decodeRaw; rw [opOf_encBr, fnOf_encBr]; exact if_pos h) (by exact formatOk_other _ (by rw [opOf_encBr]; decide)) rfl (by exact congr (congrArg Instr.bc (fn3_encBr _ _ _)) (brOf_encBr _ _ _))
theorem RoundTrip.j (f : BrF) : RoundTrip.Statement (.j f) :=
  roundTrip_of (.j f) (.j f) .j .j (encBr 0x19 0 f) rfl rfl (by intro _ _; unfold decodeRaw; rw [opOf_encBr, fnOf_encBr]; rfl) (by exact formatOk_other _ (by rw [opOf_encBr]; decide)) rfl (by exact congrArg Instr.j (brOf_encBr _ _ _))
theorem RoundTrip.jl (f : BrF) : RoundTrip.Statement (.jl f) :=
  roundTrip_of (.jl f) (.jl f) .jl .jl (encBr 0x1A 0 f) rfl rfl (by intro _ _; unfold decodeRaw; rw [opOf_encBr, fnOf_encBr]; rfl) (by exact formatOk_other _ (by rw [opOf_encBr]; decide)) rfl (by exact congrArg Instr.jl (brOf_encBr _ _ _))
theorem RoundTrip.jr (f : RrF) : RoundTrip.Statement (.jr f) :=
  roundTrip_of (.jr f) (.jr f) .jr .jr (encRr 0x1B 0 f) rfl rfl (by intro _ _; unfold decodeRaw; rw [opOf_encRr, fnOf_encRr]; rfl) (by exact formatOk_rr _ (by rw [opOf_encRr]; decide) (low_encRr _ _ _)) rfl (by exact congrArg Instr.jr (rrOf_encRr _ _ _))
theorem RoundTrip.loop (f : BrF) : RoundTrip.Statement (.loop f) :=
  roundTrip_of (.loop f) (.loop f) .loop .loop (encBr 0x1C 0 f) rfl rfl (by intro _ _; unfold decodeRaw; rw [opOf_encBr, fnOf_encBr]; rfl) (by exact formatOk_other _ (by rw [opOf_encBr]; decide)) rfl (by exact congrArg Instr.loop (brOf_encBr _ _ _))
theorem RoundTrip.lbrk (f : RrF) : RoundTrip.Statement (.lbrk f) :=
  roundTrip_of (.lbrk f) (.lbrk f) .lbrk .lbrk (encRr 0x1D 0 f) rfl rfl (by intro _ _; unfold decodeRaw; rw [opOf_encRr, fnOf_encRr]; rfl) (by exact formatOk_rr _ (by rw [opOf_encRr]; decide) (low_encRr _ _ _)) rfl (by exact congrArg Instr.lbrk (rrOf_encRr _ _ _))
theorem RoundTrip.nop (f : RrF) : RoundTrip.Statement (.nop f) :=
  roundTrip_of (.nop f) (.nop f) .nop .nop (encRr 0x1E 0 f) rfl rfl (by intro _ _; unfold decodeRaw; rw [opOf_encRr, fnOf_encRr]; rfl) (by exact formatOk_rr _ (by rw [opOf_encRr]; decide) (low_encRr _ _ _)) rfl (by exact congrArg Instr.nop (rrOf_encRr _ _ _))
theorem RoundTrip.vaddVv (f : VvF) : RoundTrip.Statement (.vaddVv f) :=
  roundTrip_of (.vaddVv f) (.vaddVv f) .vaddVv .vaddVv (encVv 0x20 0 f) rfl rfl (by intro _ _; unfold decodeRaw; rw [opOf_encVv, fnOf_encVv]; rfl) (by exact formatOk_other _ (by rw [opOf_encVv]; decide)) rfl (by exact congrArg Instr.vaddVv (vvOf_encVv _ _ _))
theorem RoundTrip.vaddVs (f : VvF) : RoundTrip.Statement (.vaddVs f) :=
  roundTrip_of (.vaddVs f) (.vaddVs f) .vaddVs .vaddVs (encVv 0x28 0 f) rfl rfl (by intro _ _; unfold decodeRaw; rw [opOf_encVv, fnOf_encVv]; rfl) (by exact formatOk_other _ (by rw [opOf_encVv]; decide)) rfl (by exact congrArg Instr.vaddVs (vvOf_encVv _ _ _))
theorem RoundTrip.vaddVi (f : VvF) : RoundTrip.Statement (.vaddVi f) :=
  roundTrip_of (.vaddVi f) (.vaddVi f) .vaddVi .vaddVi (encVv 0x30 0 f) rfl rfl (by intro _ _; unfold decodeRaw; rw [opOf_encVv, fnOf_encVv]; rfl) (by exact formatOk_other _ (by rw [opOf_encVv]; decide)) rfl (by exact congrArg Instr.vaddVi (vvOf_encVv _ _ _))
theorem RoundTrip.vsubVv (f : VvF) : RoundTrip.Statement (.vsubVv f) :=
  roundTrip_of (.vsubVv f) (.vsubVv f) .vsubVv .vsubVv (encVv 0x20 1 f) rfl rfl (by intro _ _; unfold decodeRaw; rw [opOf_encVv, fnOf_encVv]; rfl) (by exact formatOk_other _ (by rw [opOf_encVv]; decide)) rfl (by exact congrArg Instr.vsubVv (vvOf_encVv _ _ _))
theorem RoundTrip.vsubVs (f : VvF) : RoundTrip.Statement (.vsubVs f) :=
  roundTrip_of (.vsubVs f) (.vsubVs f) .vsubVs .vsubVs (encVv 0x28 1 f) rfl rfl (by intro _ _; unfold decodeRaw; rw [opOf_encVv, fnOf_encVv]; rfl) (by exact formatOk_other _ (by rw [opOf_encVv]; decide)) rfl (by exact congrArg Instr.vsubVs (vvOf_encVv _ _ _))
theorem RoundTrip.vsubVi (f : VvF) : RoundTrip.Statement (.vsubVi f) :=
  roundTrip_of (.vsubVi f) (.vsubVi f) .vsubVi .vsubVi (encVv 0x30 1 f) rfl rfl (by intro _ _; unfold decodeRaw; rw [opOf_encVv, fnOf_encVv]; rfl) (by exact formatOk_other _ (by rw [opOf_encVv]; decide)) rfl (by exact congrArg Instr.vsubVi (vvOf_encVv _ _ _))
theorem RoundTrip.vmulVv (f : VvF) : RoundTrip.Statement (.vmulVv f) :=
  roundTrip_of (.vmulVv f) (.vmulVv f) .vmulVv .vmulVv (encVv 0x20 2 f) rfl rfl (by intro _ _; unfold decodeRaw; rw [opOf_encVv, fnOf_encVv]; rfl) (by exact formatOk_other _ (by rw [opOf_encVv]; decide)) rfl (by exact congrArg Instr.vmulVv (vvOf_encVv _ _ _))
theorem RoundTrip.vmulVs (f : VvF) : RoundTrip.Statement (.vmulVs f) :=
  roundTrip_of (.vmulVs f) (.vmulVs f) .vmulVs .vmulVs (encVv 0x28 2 f) rfl rfl (by intro _ _; unfold decodeRaw; rw [opOf_encVv, fnOf_encVv]; rfl) (by exact formatOk_other _ (by rw [opOf_encVv]; decide)) rfl (by exact congrArg Instr.vmulVs (vvOf_encVv _ _ _))
theorem RoundTrip.vmulVi (f : VvF) : RoundTrip.Statement (.vmulVi f) :=
  roundTrip_of (.vmulVi f) (.vmulVi f) .vmulVi .vmulVi (encVv 0x30 2 f) rfl rfl (by intro _ _; unfold decodeRaw; rw [opOf_encVv, fnOf_encVv]; rfl) (by exact formatOk_other _ (by rw [opOf_encVv]; decide)) rfl (by exact congrArg Instr.vmulVi (vvOf_encVv _ _ _))
theorem RoundTrip.vmulhVv (f : VvF) : RoundTrip.Statement (.vmulhVv f) :=
  roundTrip_of (.vmulhVv f) (.vmulhVv f) .vmulhVv .vmulhVv (encVv 0x20 3 f) rfl rfl (by intro _ _; unfold decodeRaw; rw [opOf_encVv, fnOf_encVv]; rfl) (by exact formatOk_other _ (by rw [opOf_encVv]; decide)) rfl (by exact congrArg Instr.vmulhVv (vvOf_encVv _ _ _))
theorem RoundTrip.vmulhVs (f : VvF) : RoundTrip.Statement (.vmulhVs f) :=
  roundTrip_of (.vmulhVs f) (.vmulhVs f) .vmulhVs .vmulhVs (encVv 0x28 3 f) rfl rfl (by intro _ _; unfold decodeRaw; rw [opOf_encVv, fnOf_encVv]; rfl) (by exact formatOk_other _ (by rw [opOf_encVv]; decide)) rfl (by exact congrArg Instr.vmulhVs (vvOf_encVv _ _ _))
theorem RoundTrip.vmulhVi (f : VvF) : RoundTrip.Statement (.vmulhVi f) :=
  roundTrip_of (.vmulhVi f) (.vmulhVi f) .vmulhVi .vmulhVi (encVv 0x30 3 f) rfl rfl (by intro _ _; unfold decodeRaw; rw [opOf_encVv, fnOf_encVv]; rfl) (by exact formatOk_other _ (by rw [opOf_encVv]; decide)) rfl (by exact congrArg Instr.vmulhVi (vvOf_encVv _ _ _))
theorem RoundTrip.vmacVv (f : VvF) : RoundTrip.Statement (.vmacVv f) :=
  roundTrip_of (.vmacVv f) (.vmacVv f) .vmacVv .vmacVv (encVv 0x20 4 f) rfl rfl (by intro _ _; unfold decodeRaw; rw [opOf_encVv, fnOf_encVv]; rfl) (by exact formatOk_other _ (by rw [opOf_encVv]; decide)) rfl (by exact congrArg Instr.vmacVv (vvOf_encVv _ _ _))
theorem RoundTrip.vmacVs (f : VvF) : RoundTrip.Statement (.vmacVs f) :=
  roundTrip_of (.vmacVs f) (.vmacVs f) .vmacVs .vmacVs (encVv 0x28 4 f) rfl rfl (by intro _ _; unfold decodeRaw; rw [opOf_encVv, fnOf_encVv]; rfl) (by exact formatOk_other _ (by rw [opOf_encVv]; decide)) rfl (by exact congrArg Instr.vmacVs (vvOf_encVv _ _ _))
theorem RoundTrip.vmacVi (f : VvF) : RoundTrip.Statement (.vmacVi f) :=
  roundTrip_of (.vmacVi f) (.vmacVi f) .vmacVi .vmacVi (encVv 0x30 4 f) rfl rfl (by intro _ _; unfold decodeRaw; rw [opOf_encVv, fnOf_encVv]; rfl) (by exact formatOk_other _ (by rw [opOf_encVv]; decide)) rfl (by exact congrArg Instr.vmacVi (vvOf_encVv _ _ _))
theorem RoundTrip.vaddsVv (f : VvF) : RoundTrip.Statement (.vaddsVv f) :=
  roundTrip_of (.vaddsVv f) (.vaddsVv f) .vaddsVv .vaddsVv (encVv 0x20 5 f) rfl rfl (by intro _ _; unfold decodeRaw; rw [opOf_encVv, fnOf_encVv]; rfl) (by exact formatOk_other _ (by rw [opOf_encVv]; decide)) rfl (by exact congrArg Instr.vaddsVv (vvOf_encVv _ _ _))
theorem RoundTrip.vaddsVs (f : VvF) : RoundTrip.Statement (.vaddsVs f) :=
  roundTrip_of (.vaddsVs f) (.vaddsVs f) .vaddsVs .vaddsVs (encVv 0x28 5 f) rfl rfl (by intro _ _; unfold decodeRaw; rw [opOf_encVv, fnOf_encVv]; rfl) (by exact formatOk_other _ (by rw [opOf_encVv]; decide)) rfl (by exact congrArg Instr.vaddsVs (vvOf_encVv _ _ _))
theorem RoundTrip.vaddsVi (f : VvF) : RoundTrip.Statement (.vaddsVi f) :=
  roundTrip_of (.vaddsVi f) (.vaddsVi f) .vaddsVi .vaddsVi (encVv 0x30 5 f) rfl rfl (by intro _ _; unfold decodeRaw; rw [opOf_encVv, fnOf_encVv]; rfl) (by exact formatOk_other _ (by rw [opOf_encVv]; decide)) rfl (by exact congrArg Instr.vaddsVi (vvOf_encVv _ _ _))
theorem RoundTrip.vsubsVv (f : VvF) : RoundTrip.Statement (.vsubsVv f) :=
  roundTrip_of (.vsubsVv f) (.vsubsVv f) .vsubsVv .vsubsVv (encVv 0x20 6 f) rfl rfl (by intro _ _; unfold decodeRaw; rw [opOf_encVv, fnOf_encVv]; rfl) (by exact formatOk_other _ (by rw [opOf_encVv]; decide)) rfl (by exact congrArg Instr.vsubsVv (vvOf_encVv _ _ _))
theorem RoundTrip.vsubsVs (f : VvF) : RoundTrip.Statement (.vsubsVs f) :=
  roundTrip_of (.vsubsVs f) (.vsubsVs f) .vsubsVs .vsubsVs (encVv 0x28 6 f) rfl rfl (by intro _ _; unfold decodeRaw; rw [opOf_encVv, fnOf_encVv]; rfl) (by exact formatOk_other _ (by rw [opOf_encVv]; decide)) rfl (by exact congrArg Instr.vsubsVs (vvOf_encVv _ _ _))
theorem RoundTrip.vsubsVi (f : VvF) : RoundTrip.Statement (.vsubsVi f) :=
  roundTrip_of (.vsubsVi f) (.vsubsVi f) .vsubsVi .vsubsVi (encVv 0x30 6 f) rfl rfl (by intro _ _; unfold decodeRaw; rw [opOf_encVv, fnOf_encVv]; rfl) (by exact formatOk_other _ (by rw [opOf_encVv]; decide)) rfl (by exact congrArg Instr.vsubsVi (vvOf_encVv _ _ _))
theorem RoundTrip.vavgVv (f : VvF) : RoundTrip.Statement (.vavgVv f) :=
  roundTrip_of (.vavgVv f) (.vavgVv f) .vavgVv .vavgVv (encVv 0x20 7 f) rfl rfl (by intro _ _; unfold decodeRaw; rw [opOf_encVv, fnOf_encVv]; rfl) (by exact formatOk_other _ (by rw [opOf_encVv]; decide)) rfl (by exact congrArg Instr.vavgVv (vvOf_encVv _ _ _))
theorem RoundTrip.vavgVs (f : VvF) : RoundTrip.Statement (.vavgVs f) :=
  roundTrip_of (.vavgVs f) (.vavgVs f) .vavgVs .vavgVs (encVv 0x28 7 f) rfl rfl (by intro _ _; unfold decodeRaw; rw [opOf_encVv, fnOf_encVv]; rfl) (by exact formatOk_other _ (by rw [opOf_encVv]; decide)) rfl (by exact congrArg Instr.vavgVs (vvOf_encVv _ _ _))
theorem RoundTrip.vavgVi (f : VvF) : RoundTrip.Statement (.vavgVi f) :=
  roundTrip_of (.vavgVi f) (.vavgVi f) .vavgVi .vavgVi (encVv 0x30 7 f) rfl rfl (by intro _ _; unfold decodeRaw; rw [opOf_encVv, fnOf_encVv]; rfl) (by exact formatOk_other _ (by rw [opOf_encVv]; decide)) rfl (by exact congrArg Instr.vavgVi (vvOf_encVv _ _ _))
theorem RoundTrip.vabsdVv (f : VvF) : RoundTrip.Statement (.vabsdVv f) :=
  roundTrip_of (.vabsdVv f) (.vabsdVv f) .vabsdVv .vabsdVv (encVv 0x20 8 f) rfl rfl (by intro _ _; unfold decodeRaw; rw [opOf_encVv, fnOf_encVv]; rfl) (by exact formatOk_other _ (by rw [opOf_encVv]; decide)) rfl (by exact congrArg Instr.vabsdVv (vvOf_encVv _ _ _))
theorem RoundTrip.vabsdVs (f : VvF) : RoundTrip.Statement (.vabsdVs f) :=
  roundTrip_of (.vabsdVs f) (.vabsdVs f) .vabsdVs .vabsdVs (encVv 0x28 8 f) rfl rfl (by intro _ _; unfold decodeRaw; rw [opOf_encVv, fnOf_encVv]; rfl) (by exact formatOk_other _ (by rw [opOf_encVv]; decide)) rfl (by exact congrArg Instr.vabsdVs (vvOf_encVv _ _ _))
theorem RoundTrip.vabsdVi (f : VvF) : RoundTrip.Statement (.vabsdVi f) :=
  roundTrip_of (.vabsdVi f) (.vabsdVi f) .vabsdVi .vabsdVi (encVv 0x30 8 f) rfl rfl (by intro _ _; unfold decodeRaw; rw [opOf_encVv, fnOf_encVv]; rfl) (by exact formatOk_other _ (by rw [opOf_encVv]; decide)) rfl (by exact congrArg Instr.vabsdVi (vvOf_encVv _ _ _))
theorem RoundTrip.vminVv (f : VvF) : RoundTrip.Statement (.vminVv f) :=
  roundTrip_of (.vminVv f) (.vminVv f) .vminVv .vminVv (encVv 0x20 9 f) rfl rfl (by intro _ _; unfold decodeRaw; rw [opOf_encVv, fnOf_encVv]; rfl) (by exact formatOk_other _ (by rw [opOf_encVv]; decide)) rfl (by exact congrArg Instr.vminVv (vvOf_encVv _ _ _))
theorem RoundTrip.vminVs (f : VvF) : RoundTrip.Statement (.vminVs f) :=
  roundTrip_of (.vminVs f) (.vminVs f) .vminVs .vminVs (encVv 0x28 9 f) rfl rfl (by intro _ _; unfold decodeRaw; rw [opOf_encVv, fnOf_encVv]; rfl) (by exact formatOk_other _ (by rw [opOf_encVv]; decide)) rfl (by exact congrArg Instr.vminVs (vvOf_encVv _ _ _))
theorem RoundTrip.vminVi (f : VvF) : RoundTrip.Statement (.vminVi f) :=
  roundTrip_of (.vminVi f) (.vminVi f) .vminVi .vminVi (encVv 0x30 9 f) rfl rfl (by intro _ _; unfold decodeRaw; rw [opOf_encVv, fnOf_encVv]; rfl) (by exact formatOk_other _ (by rw [opOf_encVv]; decide)) rfl (by exact congrArg Instr.vminVi (vvOf_encVv _ _ _))
theorem RoundTrip.vmaxVv (f : VvF) : RoundTrip.Statement (.vmaxVv f) :=
  roundTrip_of (.vmaxVv f) (.vmaxVv f) .vmaxVv .vmaxVv (encVv 0x20 10 f) rfl rfl (by intro _ _; unfold decodeRaw; rw [opOf_encVv, fnOf_encVv]; rfl) (by exact formatOk_other _ (by rw [opOf_encVv]; decide)) rfl (by exact congrArg Instr.vmaxVv (vvOf_encVv _ _ _))
theorem RoundTrip.vmaxVs (f : VvF) : RoundTrip.Statement (.vmaxVs f) :=
  roundTrip_of (.vmaxVs f) (.vmaxVs f) .vmaxVs .vmaxVs (encVv 0x28 10 f) rfl rfl (by intro _ _; unfold decodeRaw; rw [opOf_encVv, fnOf_encVv]; rfl) (by exact formatOk_other _ (by rw [opOf_encVv]; decide)) rfl (by exact congrArg Instr.vmaxVs (vvOf_encVv _ _ _))
theorem RoundTrip.vmaxVi (f : VvF) : RoundTrip.Statement (.vmaxVi f) :=
  roundTrip_of (.vmaxVi f) (.vmaxVi f) .vmaxVi .vmaxVi (encVv 0x30 10 f) rfl rfl (by intro _ _; unfold decodeRaw; rw [opOf_encVv, fnOf_encVv]; rfl) (by exact formatOk_other _ (by rw [opOf_encVv]; decide)) rfl (by exact congrArg Instr.vmaxVi (vvOf_encVv _ _ _))
theorem RoundTrip.vandVv (f : VvF) : RoundTrip.Statement (.vandVv f) :=
  roundTrip_of (.vandVv f) (.vandVv f) .vandVv .vandVv (encVv 0x20 11 f) rfl rfl (by intro _ _; unfold decodeRaw; rw [opOf_encVv, fnOf_encVv]; rfl) (by exact formatOk_other _ (by rw [opOf_encVv]; decide)) rfl (by exact congrArg Instr.vandVv (vvOf_encVv _ _ _))
theorem RoundTrip.vandVs (f : VvF) : RoundTrip.Statement (.vandVs f) :=
  roundTrip_of (.vandVs f) (.vandVs f) .vandVs .vandVs (encVv 0x28 11 f) rfl rfl (by intro _ _; unfold decodeRaw; rw [opOf_encVv, fnOf_encVv]; rfl) (by exact formatOk_other _ (by rw [opOf_encVv]; decide)) rfl (by exact congrArg Instr.vandVs (vvOf_encVv _ _ _))
theorem RoundTrip.vandVi (f : VvF) : RoundTrip.Statement (.vandVi f) :=
  roundTrip_of (.vandVi f) (.vandVi f) .vandVi .vandVi (encVv 0x30 11 f) rfl rfl (by intro _ _; unfold decodeRaw; rw [opOf_encVv, fnOf_encVv]; rfl) (by exact formatOk_other _ (by rw [opOf_encVv]; decide)) rfl (by exact congrArg Instr.vandVi (vvOf_encVv _ _ _))
theorem RoundTrip.vorVv (f : VvF) : RoundTrip.Statement (.vorVv f) :=
  roundTrip_of (.vorVv f) (.vorVv f) .vorVv .vorVv (encVv 0x20 12 f) rfl rfl (by intro _ _; unfold decodeRaw; rw [opOf_encVv, fnOf_encVv]; rfl) (by exact formatOk_other _ (by rw [opOf_encVv]; decide)) rfl (by exact congrArg Instr.vorVv (vvOf_encVv _ _ _))
theorem RoundTrip.vorVs (f : VvF) : RoundTrip.Statement (.vorVs f) :=
  roundTrip_of (.vorVs f) (.vorVs f) .vorVs .vorVs (encVv 0x28 12 f) rfl rfl (by intro _ _; unfold decodeRaw; rw [opOf_encVv, fnOf_encVv]; rfl) (by exact formatOk_other _ (by rw [opOf_encVv]; decide)) rfl (by exact congrArg Instr.vorVs (vvOf_encVv _ _ _))
theorem RoundTrip.vorVi (f : VvF) : RoundTrip.Statement (.vorVi f) :=
  roundTrip_of (.vorVi f) (.vorVi f) .vorVi .vorVi (encVv 0x30 12 f) rfl rfl (by intro _ _; unfold decodeRaw; rw [opOf_encVv, fnOf_encVv]; rfl) (by exact formatOk_other _ (by rw [opOf_encVv]; decide)) rfl (by exact congrArg Instr.vorVi (vvOf_encVv _ _ _))
theorem RoundTrip.vxorVv (f : VvF) : RoundTrip.Statement (.vxorVv f) :=
  roundTrip_of (.vxorVv f) (.vxorVv f) .vxorVv .vxorVv (encVv 0x20 13 f) rfl rfl (by intro _ _; unfold decodeRaw; rw [opOf_encVv, fnOf_encVv]; rfl) (by exact formatOk_other _ (by rw [opOf_encVv]; decide)) rfl (by exact congrArg Instr.vxorVv (vvOf_encVv _ _ _))
theorem RoundTrip.vxorVs (f : VvF) : RoundTrip.Statement (.vxorVs f) :=
  roundTrip_of (.vxorVs f) (.vxorVs f) .vxorVs .vxorVs (encVv 0x28 13 f) rfl rfl (by intro _ _; unfold decodeRaw; rw [opOf_encVv, fnOf_encVv]; rfl) (by exact formatOk_other _ (by rw [opOf_encVv]; decide)) rfl (by exact congrArg Instr.vxorVs (vvOf_encVv _ _ _))
theorem RoundTrip.vxorVi (f : VvF) : RoundTrip.Statement (.vxorVi f) :=
  roundTrip_of (.vxorVi f) (.vxorVi f) .vxorVi .vxorVi (encVv 0x30 13 f) rfl rfl (by intro _ _; unfold decodeRaw; rw [opOf_encVv, fnOf_encVv]; rfl) (by exact formatOk_other _ (by rw [opOf_encVv]; decide)) rfl (by exact congrArg Instr.vxorVi (vvOf_encVv _ _ _))
theorem RoundTrip.vshlVv (f : VvF) : RoundTrip.Statement (.vshlVv f) :=
  roundTrip_of (.vshlVv f) (.vshlVv f) .vshlVv .vshlVv (encVv 0x20 14 f) rfl rfl (by intro _ _; unfold decodeRaw; rw [opOf_encVv, fnOf_encVv]; rfl) (by exact formatOk_other _ (by rw [opOf_encVv]; decide)) rfl (by exact congrArg Instr.vshlVv (vvOf_encVv _ _ _))
theorem RoundTrip.vshlVs (f : VvF) : RoundTrip.Statement (.vshlVs f) :=
  roundTrip_of (.vshlVs f) (.vshlVs f) .vshlVs .vshlVs (encVv 0x28 14 f) rfl rfl (by intro _ _; unfold decodeRaw; rw [opOf_encVv, fnOf_encVv]; rfl) (by exact formatOk_other _ (by rw [opOf_encVv]; decide)) rfl (by exact congrArg Instr.vshlVs (vvOf_encVv _ _ _))
theorem RoundTrip.vshlVi (f : VvF) : RoundTrip.Statement (.vshlVi f) :=
  roundTrip_of (.vshlVi f) (.vshlVi f) .vshlVi .vshlVi (encVv 0x30 14 f) rfl rfl (by intro _ _; unfold decodeRaw; rw [opOf_encVv, fnOf_encVv]; rfl) (by exact formatOk_other _ (by rw [opOf_encVv]; decide)) rfl (by exact congrArg Instr.vshlVi (vvOf_encVv _ _ _))
theorem RoundTrip.vshrVv (f : VvF) : RoundTrip.Statement (.vshrVv f) :=
  roundTrip_of (.vshrVv f) (.vshrVv f) .vshrVv .vshrVv (encVv 0x20 15 f) rfl rfl (by intro _ _; unfold decodeRaw; rw [opOf_encVv, fnOf_encVv]; rfl) (by exact formatOk_other _ (by rw [opOf_encVv]; decide)) rfl (by exact congrArg Instr.vshrVv (vvOf_encVv _ _ _))
theorem RoundTrip.vshrVs (f : VvF) : RoundTrip.Statement (.vshrVs f) :=
  roundTrip_of (.vshrVs f) (.vshrVs f) .vshrVs .vshrVs (encVv 0x28 15 f) rfl rfl (by intro _ _; unfold decodeRaw; rw [opOf_encVv, fnOf_encVv]; rfl) (by exact formatOk_other _ (by rw [opOf_encVv]; decide)) rfl (by exact congrArg Instr.vshrVs (vvOf_encVv _ _ _))
theorem RoundTrip.vshrVi (f : VvF) : RoundTrip.Statement (.vshrVi f) :=
  roundTrip_of (.vshrVi f) (.vshrVi f) .vshrVi .vshrVi (encVv 0x30 15 f) rfl rfl (by intro _ _; unfold decodeRaw; rw [opOf_encVv, fnOf_encVv]; rfl) (by exact formatOk_other _ (by rw [opOf_encVv]; decide)) rfl (by exact congrArg Instr.vshrVi (vvOf_encVv _ _ _))
theorem RoundTrip.vsraVv (f : VvF) : RoundTrip.Statement (.vsraVv f) :=
  roundTrip_of (.vsraVv f) (.vsraVv f) .vsraVv .vsraVv (encVv 0x20 16 f) rfl rfl (by intro _ _; unfold decodeRaw; rw [opOf_encVv, fnOf_encVv]; rfl) (by exact formatOk_other _ (by rw [opOf_encVv]; decide)) rfl (by exact congrArg Instr.vsraVv (vvOf_encVv _ _ _))
theorem RoundTrip.vsraVs (f : VvF) : RoundTrip.Statement (.vsraVs f) :=
  roundTrip_of (.vsraVs f) (.vsraVs f) .vsraVs .vsraVs (encVv 0x28 16 f) rfl rfl (by intro _ _; unfold decodeRaw; rw [opOf_encVv, fnOf_encVv]; rfl) (by exact formatOk_other _ (by rw [opOf_encVv]; decide)) rfl (by exact congrArg Instr.vsraVs (vvOf_encVv _ _ _))
theorem RoundTrip.vsraVi (f : VvF) : RoundTrip.Statement (.vsraVi f) :=
  roundTrip_of (.vsraVi f) (.vsraVi f) .vsraVi .vsraVi (encVv 0x30 16 f) rfl rfl (by intro _ _; unfold decodeRaw; rw [opOf_encVv, fnOf_encVv]; rfl) (by exact formatOk_other _ (by rw [opOf_encVv]; decide)) rfl (by exact congrArg Instr.vsraVi (vvOf_encVv _ _ _))
theorem RoundTrip.vfshlVv (f : VvF) : RoundTrip.Statement (.vfshlVv f) :=
  roundTrip_of (.vfshlVv f) (.vfshlVv f) .vfshlVv .vfshlVv (encVv 0x20 17 f) rfl rfl (by intro _ _; unfold decodeRaw; rw [opOf_encVv, fnOf_encVv]; rfl) (by exact formatOk_other _ (by rw [opOf_encVv]; decide)) rfl (by exact congrArg Instr.vfshlVv (vvOf_encVv _ _ _))
theorem RoundTrip.vfshlVs (f : VvF) : RoundTrip.Statement (.vfshlVs f) :=
  roundTrip_of (.vfshlVs f) (.vfshlVs f) .vfshlVs .vfshlVs (encVv 0x28 17 f) rfl rfl (by intro _ _; unfold decodeRaw; rw [opOf_encVv, fnOf_encVv]; rfl) (by exact formatOk_other _ (by rw [opOf_encVv]; decide)) rfl (by exact congrArg Instr.vfshlVs (vvOf_encVv _ _ _))
theorem RoundTrip.vfshlVi (f : VvF) : RoundTrip.Statement (.vfshlVi f) :=
  roundTrip_of (.vfshlVi f) (.vfshlVi f) .vfshlVi .vfshlVi (encVv 0x30 17 f) rfl rfl (by intro _ _; unfold decodeRaw; rw [opOf_encVv, fnOf_encVv]; rfl) (by exact formatOk_other _ (by rw [opOf_encVv]; decide)) rfl (by exact congrArg Instr.vfshlVi (vvOf_encVv _ _ _))
theorem RoundTrip.vfshrVv (f : VvF) : RoundTrip.Statement (.vfshrVv f) :=
  roundTrip_of (.vfshrVv f) (.vfshrVv f) .vfshrVv .vfshrVv (encVv 0x20 18 f) rfl rfl (by intro _ _; unfold decodeRaw; rw [opOf_encVv, fnOf_encVv]; rfl) (by exact formatOk_other _ (by rw [opOf_encVv]; decide)) rfl (by exact congrArg Instr.vfshrVv (vvOf_encVv _ _ _))
theorem RoundTrip.vfshrVs (f : VvF) : RoundTrip.Statement (.vfshrVs f) :=
  roundTrip_of (.vfshrVs f) (.vfshrVs f) .vfshrVs .vfshrVs (encVv 0x28 18 f) rfl rfl (by intro _ _; unfold decodeRaw; rw [opOf_encVv, fnOf_encVv]; rfl) (by exact formatOk_other _ (by rw [opOf_encVv]; decide)) rfl (by exact congrArg Instr.vfshrVs (vvOf_encVv _ _ _))
theorem RoundTrip.vfshrVi (f : VvF) : RoundTrip.Statement (.vfshrVi f) :=
  roundTrip_of (.vfshrVi f) (.vfshrVi f) .vfshrVi .vfshrVi (encVv 0x30 18 f) rfl rfl (by intro _ _; unfold decodeRaw; rw [opOf_encVv, fnOf_encVv]; rfl) (by exact formatOk_other _ (by rw [opOf_encVv]; decide)) rfl (by exact congrArg Instr.vfshrVi (vvOf_encVv _ _ _))
theorem RoundTrip.vclz (f : VvF) : RoundTrip.Statement (.vclz f) :=
  roundTrip_of (.vclz f) (.vclz f) .vclz .vclz (encVv 0x21 0 f) rfl rfl (by intro _ _; unfold decodeRaw; rw [opOf_encVv, fnOf_encVv]; rfl) (by exact formatOk_other _ (by rw [opOf_encVv]; decide)) rfl (by exact congrArg Instr.vclz (vvOf_encVv _ _ _))
theorem RoundTrip.vpopc (f : VvF) : RoundTrip.Statement (.vpopc f) :=
  roundTrip_of (.vpopc f) (.vpopc f) .vpopc .vpopc (encVv 0x21 1 f) rfl rfl (by intro _ _; unfold decodeRaw; rw [opOf_encVv, fnOf_encVv]; rfl) (by exact formatOk_other _ (by rw [opOf_encVv]; decide)) rfl (by exact congrArg Instr.vpopc (vvOf_encVv _ _ _))
theorem RoundTrip.vcmp (f : VvF) : RoundTrip.Statement (.vcmp f) :=
  roundTrip_of (.vcmp f) (.vcmp f) .vcmp .vcmp (encVv 0x21 2 f) rfl rfl (by intro _ _; unfold decodeRaw; rw [opOf_encVv, fnOf_encVv]; rfl) (by exact formatOk_other _ (by rw [opOf_encVv]; decide)) rfl (by exact congrArg Instr.vcmp (vvOf_encVv _ _ _))
theorem RoundTrip.vsel (f : VvF) : RoundTrip.Statement (.vsel f) :=
  roundTrip_of (.vsel f) (.vsel f) .vsel .vsel (encVv 0x21 3 f) rfl rfl (by intro _ _; unfold decodeRaw; rw [opOf_encVv, fnOf_encVv]; rfl) (by exact formatOk_other _ (by rw [opOf_encVv]; decide)) rfl (by exact congrArg Instr.vsel (vvOf_encVv _ _ _))
theorem RoundTrip.vwid (f : VvF) : RoundTrip.Statement (.vwid f) :=
  roundTrip_of (.vwid f) (.vwid f) .vwid .vwid (encVv 0x21 4 f) rfl rfl (by intro _ _; unfold decodeRaw; rw [opOf_encVv, fnOf_encVv]; rfl) (by exact formatOk_other _ (by rw [opOf_encVv]; decide)) rfl (by exact congrArg Instr.vwid (vvOf_encVv _ _ _))
theorem RoundTrip.vnar (f : VvF) : RoundTrip.Statement (.vnar f) :=
  roundTrip_of (.vnar f) (.vnar f) .vnar .vnar (encVv 0x21 5 f) rfl rfl (by intro _ _; unfold decodeRaw; rw [opOf_encVv, fnOf_encVv]; rfl) (by exact formatOk_other _ (by rw [opOf_encVv]; decide)) rfl (by exact congrArg Instr.vnar (vvOf_encVv _ _ _))
theorem RoundTrip.vpxu (f : VvF) : RoundTrip.Statement (.vpxu f) :=
  roundTrip_of (.vpxu f) (.vpxu f) .vpxu .vpxu (encVv 0x22 0 f) rfl rfl (by intro _ _; unfold decodeRaw; rw [opOf_encVv, fnOf_encVv]; rfl) (by exact formatOk_other _ (by rw [opOf_encVv]; decide)) rfl (by exact congrArg Instr.vpxu (vvOf_encVv _ _ _))
theorem RoundTrip.vpxp (f : VvF) : RoundTrip.Statement (.vpxp f) :=
  roundTrip_of (.vpxp f) (.vpxp f) .vpxp .vpxp (encVv 0x22 1 f) rfl rfl (by intro _ _; unfold decodeRaw; rw [opOf_encVv, fnOf_encVv]; rfl) (by exact formatOk_other _ (by rw [opOf_encVv]; decide)) rfl (by exact congrArg Instr.vpxp (vvOf_encVv _ _ _))
theorem RoundTrip.vfaddVv (f : VvF) : RoundTrip.Statement (.vfaddVv f) :=
  roundTrip_of (.vfaddVv f) (.vfaddVv f) .vfaddVv .vfaddVv (encVv 0x24 0 f) rfl rfl (by intro _ _; unfold decodeRaw; rw [opOf_encVv, fnOf_encVv]; rfl) (by exact formatOk_other _ (by rw [opOf_encVv]; decide)) rfl (by exact congrArg Instr.vfaddVv (vvOf_encVv _ _ _))
theorem RoundTrip.vfaddVs (f : VvF) : RoundTrip.Statement (.vfaddVs f) :=
  roundTrip_of (.vfaddVs f) (.vfaddVs f) .vfaddVs .vfaddVs (encVv 0x2C 0 f) rfl rfl (by intro _ _; unfold decodeRaw; rw [opOf_encVv, fnOf_encVv]; rfl) (by exact formatOk_other _ (by rw [opOf_encVv]; decide)) rfl (by exact congrArg Instr.vfaddVs (vvOf_encVv _ _ _))
theorem RoundTrip.vfsubVv (f : VvF) : RoundTrip.Statement (.vfsubVv f) :=
  roundTrip_of (.vfsubVv f) (.vfsubVv f) .vfsubVv .vfsubVv (encVv 0x24 1 f) rfl rfl (by intro _ _; unfold decodeRaw; rw [opOf_encVv, fnOf_encVv]; rfl) (by exact formatOk_other _ (by rw [opOf_encVv]; decide)) rfl (by exact congrArg Instr.vfsubVv (vvOf_encVv _ _ _))
theorem RoundTrip.vfsubVs (f : VvF) : RoundTrip.Statement (.vfsubVs f) :=
  roundTrip_of (.vfsubVs f) (.vfsubVs f) .vfsubVs .vfsubVs (encVv 0x2C 1 f) rfl rfl (by intro _ _; unfold decodeRaw; rw [opOf_encVv, fnOf_encVv]; rfl) (by exact formatOk_other _ (by rw [opOf_encVv]; decide)) rfl (by exact congrArg Instr.vfsubVs (vvOf_encVv _ _ _))
theorem RoundTrip.vfmulVv (f : VvF) : RoundTrip.Statement (.vfmulVv f) :=
  roundTrip_of (.vfmulVv f) (.vfmulVv f) .vfmulVv .vfmulVv (encVv 0x24 2 f) rfl rfl (by intro _ _; unfold decodeRaw; rw [opOf_encVv, fnOf_encVv]; rfl) (by exact formatOk_other _ (by rw [opOf_encVv]; decide)) rfl (by exact congrArg Instr.vfmulVv (vvOf_encVv _ _ _))
theorem RoundTrip.vfmulVs (f : VvF) : RoundTrip.Statement (.vfmulVs f) :=
  roundTrip_of (.vfmulVs f) (.vfmulVs f) .vfmulVs .vfmulVs (encVv 0x2C 2 f) rfl rfl (by intro _ _; unfold decodeRaw; rw [opOf_encVv, fnOf_encVv]; rfl) (by exact formatOk_other _ (by rw [opOf_encVv]; decide)) rfl (by exact congrArg Instr.vfmulVs (vvOf_encVv _ _ _))
theorem RoundTrip.vfmaVv (f : VvF) : RoundTrip.Statement (.vfmaVv f) :=
  roundTrip_of (.vfmaVv f) (.vfmaVv f) .vfmaVv .vfmaVv (encVv 0x24 3 f) rfl rfl (by intro _ _; unfold decodeRaw; rw [opOf_encVv, fnOf_encVv]; rfl) (by exact formatOk_other _ (by rw [opOf_encVv]; decide)) rfl (by exact congrArg Instr.vfmaVv (vvOf_encVv _ _ _))
theorem RoundTrip.vfmaVs (f : VvF) : RoundTrip.Statement (.vfmaVs f) :=
  roundTrip_of (.vfmaVs f) (.vfmaVs f) .vfmaVs .vfmaVs (encVv 0x2C 3 f) rfl rfl (by intro _ _; unfold decodeRaw; rw [opOf_encVv, fnOf_encVv]; rfl) (by exact formatOk_other _ (by rw [opOf_encVv]; decide)) rfl (by exact congrArg Instr.vfmaVs (vvOf_encVv _ _ _))
theorem RoundTrip.vfminVv (f : VvF) : RoundTrip.Statement (.vfminVv f) :=
  roundTrip_of (.vfminVv f) (.vfminVv f) .vfminVv .vfminVv (encVv 0x24 4 f) rfl rfl (by intro _ _; unfold decodeRaw; rw [opOf_encVv, fnOf_encVv]; rfl) (by exact formatOk_other _ (by rw [opOf_encVv]; decide)) rfl (by exact congrArg Instr.vfminVv (vvOf_encVv _ _ _))
theorem RoundTrip.vfminVs (f : VvF) : RoundTrip.Statement (.vfminVs f) :=
  roundTrip_of (.vfminVs f) (.vfminVs f) .vfminVs .vfminVs (encVv 0x2C 4 f) rfl rfl (by intro _ _; unfold decodeRaw; rw [opOf_encVv, fnOf_encVv]; rfl) (by exact formatOk_other _ (by rw [opOf_encVv]; decide)) rfl (by exact congrArg Instr.vfminVs (vvOf_encVv _ _ _))
theorem RoundTrip.vfmaxVv (f : VvF) : RoundTrip.Statement (.vfmaxVv f) :=
  roundTrip_of (.vfmaxVv f) (.vfmaxVv f) .vfmaxVv .vfmaxVv (encVv 0x24 5 f) rfl rfl (by intro _ _; unfold decodeRaw; rw [opOf_encVv, fnOf_encVv]; rfl) (by exact formatOk_other _ (by rw [opOf_encVv]; decide)) rfl (by exact congrArg Instr.vfmaxVv (vvOf_encVv _ _ _))
theorem RoundTrip.vfmaxVs (f : VvF) : RoundTrip.Statement (.vfmaxVs f) :=
  roundTrip_of (.vfmaxVs f) (.vfmaxVs f) .vfmaxVs .vfmaxVs (encVv 0x2C 5 f) rfl rfl (by intro _ _; unfold decodeRaw; rw [opOf_encVv, fnOf_encVv]; rfl) (by exact formatOk_other _ (by rw [opOf_encVv]; decide)) rfl (by exact congrArg Instr.vfmaxVs (vvOf_encVv _ _ _))
theorem RoundTrip.vfdivVv (f : VvF) : RoundTrip.Statement (.vfdivVv f) :=
  roundTrip_of (.vfdivVv f) (.vfdivVv f) .vfdivVv .vfdivVv (encVv 0x24 6 f) rfl rfl (by intro _ _; unfold decodeRaw; rw [opOf_encVv, fnOf_encVv]; rfl) (by exact formatOk_other _ (by rw [opOf_encVv]; decide)) rfl (by exact congrArg Instr.vfdivVv (vvOf_encVv _ _ _))
theorem RoundTrip.vfdivVs (f : VvF) : RoundTrip.Statement (.vfdivVs f) :=
  roundTrip_of (.vfdivVs f) (.vfdivVs f) .vfdivVs .vfdivVs (encVv 0x2C 6 f) rfl rfl (by intro _ _; unfold decodeRaw; rw [opOf_encVv, fnOf_encVv]; rfl) (by exact formatOk_other _ (by rw [opOf_encVv]; decide)) rfl (by exact congrArg Instr.vfdivVs (vvOf_encVv _ _ _))
theorem RoundTrip.vfsqrt (f : VvF) : RoundTrip.Statement (.vfsqrt f) :=
  roundTrip_of (.vfsqrt f) (.vfsqrt f) .vfsqrt .vfsqrt (encVv 0x25 0 f) rfl rfl (by intro _ _; unfold decodeRaw; rw [opOf_encVv, fnOf_encVv]; rfl) (by exact formatOk_other _ (by rw [opOf_encVv]; decide)) rfl (by exact congrArg Instr.vfsqrt (vvOf_encVv _ _ _))
theorem RoundTrip.vfrcp (f : VvF) : RoundTrip.Statement (.vfrcp f) :=
  roundTrip_of (.vfrcp f) (.vfrcp f) .vfrcp .vfrcp (encVv 0x25 1 f) rfl rfl (by intro _ _; unfold decodeRaw; rw [opOf_encVv, fnOf_encVv]; rfl) (by exact formatOk_other _ (by rw [opOf_encVv]; decide)) rfl (by exact congrArg Instr.vfrcp (vvOf_encVv _ _ _))
theorem RoundTrip.vfrsq (f : VvF) : RoundTrip.Statement (.vfrsq f) :=
  roundTrip_of (.vfrsq f) (.vfrsq f) .vfrsq .vfrsq (encVv 0x25 2 f) rfl rfl (by intro _ _; unfold decodeRaw; rw [opOf_encVv, fnOf_encVv]; rfl) (by exact formatOk_other _ (by rw [opOf_encVv]; decide)) rfl (by exact congrArg Instr.vfrsq (vvOf_encVv _ _ _))
theorem RoundTrip.vfexp2 (f : VvF) : RoundTrip.Statement (.vfexp2 f) :=
  roundTrip_of (.vfexp2 f) (.vfexp2 f) .vfexp2 .vfexp2 (encVv 0x25 3 f) rfl rfl (by intro _ _; unfold decodeRaw; rw [opOf_encVv, fnOf_encVv]; rfl) (by exact formatOk_other _ (by rw [opOf_encVv]; decide)) rfl (by exact congrArg Instr.vfexp2 (vvOf_encVv _ _ _))
theorem RoundTrip.vflog2 (f : VvF) : RoundTrip.Statement (.vflog2 f) :=
  roundTrip_of (.vflog2 f) (.vflog2 f) .vflog2 .vflog2 (encVv 0x25 4 f) rfl rfl (by intro _ _; unfold decodeRaw; rw [opOf_encVv, fnOf_encVv]; rfl) (by exact formatOk_other _ (by rw [opOf_encVv]; decide)) rfl (by exact congrArg Instr.vflog2 (vvOf_encVv _ _ _))
theorem RoundTrip.vfclass (f : VvF) : RoundTrip.Statement (.vfclass f) :=
  roundTrip_of (.vfclass f) (.vfclass f) .vfclass .vfclass (encVv 0x25 5 f) rfl rfl (by intro _ _; unfold decodeRaw; rw [opOf_encVv, fnOf_encVv]; rfl) (by exact formatOk_other _ (by rw [opOf_encVv]; decide)) rfl (by exact congrArg Instr.vfclass (vvOf_encVv _ _ _))
theorem RoundTrip.vfround (f : VvF) : RoundTrip.Statement (.vfround f) :=
  roundTrip_of (.vfround f) (.vfround f) .vfround .vfround (encVv 0x25 6 f) rfl rfl (by intro _ _; unfold decodeRaw; rw [opOf_encVv, fnOf_encVv]; rfl) (by exact formatOk_other _ (by rw [opOf_encVv]; decide)) rfl (by exact congrArg Instr.vfround (vvOf_encVv _ _ _))
theorem RoundTrip.vfcmp (f : VvF) : RoundTrip.Statement (.vfcmp f) :=
  roundTrip_of (.vfcmp f) (.vfcmp f) .vfcmp .vfcmp (encVv 0x26 0 f) rfl rfl (by intro _ _; unfold decodeRaw; rw [opOf_encVv, fnOf_encVv]; rfl) (by exact formatOk_other _ (by rw [opOf_encVv]; decide)) rfl (by exact congrArg Instr.vfcmp (vvOf_encVv _ _ _))
theorem RoundTrip.vfcvt (f : VvF) : RoundTrip.Statement (.vfcvt f) :=
  roundTrip_of (.vfcvt f) (.vfcvt f) .vfcvt .vfcvt (encVv 0x26 1 f) rfl rfl (by intro _ _; unfold decodeRaw; rw [opOf_encVv, fnOf_encVv]; rfl) (by exact formatOk_other _ (by rw [opOf_encVv]; decide)) rfl (by exact congrArg Instr.vfcvt (vvOf_encVv _ _ _))
theorem RoundTrip.vficvt (f : VvF) : RoundTrip.Statement (.vficvt f) :=
  roundTrip_of (.vficvt f) (.vficvt f) .vficvt .vficvt (encVv 0x26 2 f) rfl rfl (by intro _ _; unfold decodeRaw; rw [opOf_encVv, fnOf_encVv]; rfl) (by exact formatOk_other _ (by rw [opOf_encVv]; decide)) rfl (by exact congrArg Instr.vficvt (vvOf_encVv _ _ _))
theorem RoundTrip.vmvx (f : VvF) : RoundTrip.Statement (.vmvx f) :=
  roundTrip_of (.vmvx f) (.vmvx f) .vmvx .vmvx (encVv 0x40 0 f) rfl rfl (by intro _ _; unfold decodeRaw; rw [opOf_encVv, fnOf_encVv]; rfl) (by exact formatOk_other _ (by rw [opOf_encVv]; decide)) rfl (by exact congrArg Instr.vmvx (vvOf_encVv _ _ _))
theorem RoundTrip.vmvs (f : VvF) : RoundTrip.Statement (.vmvs f) :=
  roundTrip_of (.vmvs f) (.vmvs f) .vmvs .vmvs (encVv 0x40 1 f) rfl rfl (by intro _ _; unfold decodeRaw; rw [opOf_encVv, fnOf_encVv]; rfl) (by exact formatOk_other _ (by rw [opOf_encVv]; decide)) rfl (by exact congrArg Instr.vmvs (vvOf_encVv _ _ _))
theorem RoundTrip.vbc (f : VvF) : RoundTrip.Statement (.vbc f) :=
  roundTrip_of (.vbc f) (.vbc f) .vbc .vbc (encVv 0x40 2 f) rfl rfl (by intro _ _; unfold decodeRaw; rw [opOf_encVv, fnOf_encVv]; rfl) (by exact formatOk_other _ (by rw [opOf_encVv]; decide)) rfl (by exact congrArg Instr.vbc (vvOf_encVv _ _ _))
theorem RoundTrip.vslu (f : VvF) : RoundTrip.Statement (.vslu f) :=
  roundTrip_of (.vslu f) (.vslu f) .vslu .vslu (encVv 0x41 0 f) rfl rfl (by intro _ _; unfold decodeRaw; rw [opOf_encVv, fnOf_encVv]; rfl) (by exact formatOk_other _ (by rw [opOf_encVv]; decide)) rfl (by exact congrArg Instr.vslu (vvOf_encVv _ _ _))
theorem RoundTrip.vsld (f : VvF) : RoundTrip.Statement (.vsld f) :=
  roundTrip_of (.vsld f) (.vsld f) .vsld .vsld (encVv 0x41 1 f) rfl rfl (by intro _ _; unfold decodeRaw; rw [opOf_encVv, fnOf_encVv]; rfl) (by exact formatOk_other _ (by rw [opOf_encVv]; decide)) rfl (by exact congrArg Instr.vsld (vvOf_encVv _ _ _))
theorem RoundTrip.vperm (f : VvF) : RoundTrip.Statement (.vperm f) :=
  roundTrip_of (.vperm f) (.vperm f) .vperm .vperm (encVv 0x41 2 f) rfl rfl (by intro _ _; unfold decodeRaw; rw [opOf_encVv, fnOf_encVv]; rfl) (by exact formatOk_other _ (by rw [opOf_encVv]; decide)) rfl (by exact congrArg Instr.vperm (vvOf_encVv _ _ _))
theorem RoundTrip.vcomp (f : VvF) : RoundTrip.Statement (.vcomp f) :=
  roundTrip_of (.vcomp f) (.vcomp f) .vcomp .vcomp (encVv 0x41 3 f) rfl rfl (by intro _ _; unfold decodeRaw; rw [opOf_encVv, fnOf_encVv]; rfl) (by exact formatOk_other _ (by rw [opOf_encVv]; decide)) rfl (by exact congrArg Instr.vcomp (vvOf_encVv _ _ _))
theorem RoundTrip.vexp (f : VvF) : RoundTrip.Statement (.vexp f) :=
  roundTrip_of (.vexp f) (.vexp f) .vexp .vexp (encVv 0x41 4 f) rfl rfl (by intro _ _; unfold decodeRaw; rw [opOf_encVv, fnOf_encVv]; rfl) (by exact formatOk_other _ (by rw [opOf_encVv]; decide)) rfl (by exact congrArg Instr.vexp (vvOf_encVv _ _ _))
theorem RoundTrip.viota (f : VvF) : RoundTrip.Statement (.viota f) :=
  roundTrip_of (.viota f) (.viota f) .viota .viota (encVv 0x41 5 f) rfl rfl (by intro _ _; unfold decodeRaw; rw [opOf_encVv, fnOf_encVv]; rfl) (by exact formatOk_other _ (by rw [opOf_encVv]; decide)) rfl (by exact congrArg Instr.viota (vvOf_encVv _ _ _))
theorem RoundTrip.vredsum (f : VvF) : RoundTrip.Statement (.vredsum f) :=
  roundTrip_of (.vredsum f) (.vredsum f) .vredsum .vredsum (encVv 0x42 0 f) rfl rfl (by intro _ _; unfold decodeRaw; rw [opOf_encVv, fnOf_encVv]; rfl) (by exact formatOk_other _ (by rw [opOf_encVv]; decide)) rfl (by exact congrArg Instr.vredsum (vvOf_encVv _ _ _))
theorem RoundTrip.vredmax (f : VvF) : RoundTrip.Statement (.vredmax f) :=
  roundTrip_of (.vredmax f) (.vredmax f) .vredmax .vredmax (encVv 0x42 1 f) rfl rfl (by intro _ _; unfold decodeRaw; rw [opOf_encVv, fnOf_encVv]; rfl) (by exact formatOk_other _ (by rw [opOf_encVv]; decide)) rfl (by exact congrArg Instr.vredmax (vvOf_encVv _ _ _))
theorem RoundTrip.vredmin (f : VvF) : RoundTrip.Statement (.vredmin f) :=
  roundTrip_of (.vredmin f) (.vredmin f) .vredmin .vredmin (encVv 0x42 2 f) rfl rfl (by intro _ _; unfold decodeRaw; rw [opOf_encVv, fnOf_encVv]; rfl) (by exact formatOk_other _ (by rw [opOf_encVv]; decide)) rfl (by exact congrArg Instr.vredmin (vvOf_encVv _ _ _))
theorem RoundTrip.vredand (f : VvF) : RoundTrip.Statement (.vredand f) :=
  roundTrip_of (.vredand f) (.vredand f) .vredand .vredand (encVv 0x42 3 f) rfl rfl (by intro _ _; unfold decodeRaw; rw [opOf_encVv, fnOf_encVv]; rfl) (by exact formatOk_other _ (by rw [opOf_encVv]; decide)) rfl (by exact congrArg Instr.vredand (vvOf_encVv _ _ _))
theorem RoundTrip.vredor (f : VvF) : RoundTrip.Statement (.vredor f) :=
  roundTrip_of (.vredor f) (.vredor f) .vredor .vredor (encVv 0x42 4 f) rfl rfl (by intro _ _; unfold decodeRaw; rw [opOf_encVv, fnOf_encVv]; rfl) (by exact formatOk_other _ (by rw [opOf_encVv]; decide)) rfl (by exact congrArg Instr.vredor (vvOf_encVv _ _ _))
theorem RoundTrip.vfredsum (f : VvF) : RoundTrip.Statement (.vfredsum f) :=
  roundTrip_of (.vfredsum f) (.vfredsum f) .vfredsum .vfredsum (encVv 0x42 5 f) rfl rfl (by intro _ h; have h := eq_of_beq (Bool.and_eq_true_iff.mp h).2; rw [vvOf_encVv] at h; unfold decodeRaw; rw [opOf_encVv, fnOf_encVv]; show dec42 _ _ = _; simp [dec42, vvOf_encVv, h]) (by exact formatOk_other _ (by rw [opOf_encVv]; decide)) rfl (by exact congrArg Instr.vfredsum (vvOf_encVv _ _ _))
theorem RoundTrip.vfredsumFold (f : VvF) : RoundTrip.Statement (.vfredsumFold f) :=
  roundTrip_of (.vfredsumFold f) (.vfredsumFold f) .vfredsumFold .vfredsumFold (encVv 0x42 5 f) rfl rfl (by intro _ h; have h := eq_of_beq (Bool.and_eq_true_iff.mp h).2; rw [vvOf_encVv] at h; unfold decodeRaw; rw [opOf_encVv, fnOf_encVv]; show dec42 _ _ = _; simp [dec42, vvOf_encVv, h]) (by exact formatOk_other _ (by rw [opOf_encVv]; decide)) rfl (by exact congrArg Instr.vfredsumFold (vvOf_encVv _ _ _))
theorem RoundTrip.vfredsumFin (f : VvF) : RoundTrip.Statement (.vfredsumFin f) :=
  roundTrip_of (.vfredsumFin f) (.vfredsumFin f) .vfredsumFin .vfredsumFin (encVv 0x42 5 f) rfl rfl (by intro _ h; have h := eq_of_beq (Bool.and_eq_true_iff.mp h).2; rw [vvOf_encVv] at h; unfold decodeRaw; rw [opOf_encVv, fnOf_encVv]; show dec42 _ _ = _; simp [dec42, vvOf_encVv, h]) (by exact formatOk_other _ (by rw [opOf_encVv]; decide)) rfl (by exact congrArg Instr.vfredsumFin (vvOf_encVv _ _ _))
theorem RoundTrip.vfredsumInit (f : VvF) : RoundTrip.Statement (.vfredsumInit f) :=
  roundTrip_of (.vfredsumInit f) (.vfredsumInit f) .vfredsumInit .vfredsumInit (encVv 0x42 5 f) rfl rfl (by intro _ h; have h := eq_of_beq (Bool.and_eq_true_iff.mp h).2; rw [vvOf_encVv] at h; unfold decodeRaw; rw [opOf_encVv, fnOf_encVv]; show dec42 _ _ = _; simp [dec42, vvOf_encVv, h]) (by exact formatOk_other _ (by rw [opOf_encVv]; decide)) rfl (by exact congrArg Instr.vfredsumInit (vvOf_encVv _ _ _))
theorem RoundTrip.vgmax (f : VvF) : RoundTrip.Statement (.vgmax f) :=
  roundTrip_of (.vgmax f) (.vgmax f) .vgmax .vgmax (encVv 0x42 6 f) rfl rfl (by intro _ _; unfold decodeRaw; rw [opOf_encVv, fnOf_encVv]; rfl) (by exact formatOk_other _ (by rw [opOf_encVv]; decide)) rfl (by exact congrArg Instr.vgmax (vvOf_encVv _ _ _))
theorem RoundTrip.vscan (f : VvF) : RoundTrip.Statement (.vscan f) :=
  roundTrip_of (.vscan f) (.vscan f) .vscan .vscan (encVv 0x42 7 f) rfl rfl (by intro _ _; unfold decodeRaw; rw [opOf_encVv, fnOf_encVv]; rfl) (by exact formatOk_other _ (by rw [opOf_encVv]; decide)) rfl (by exact congrArg Instr.vscan (vvOf_encVv _ _ _))
theorem RoundTrip.mand (f : VvF) : RoundTrip.Statement (.mand f) :=
  roundTrip_of (.mand f) (.mand f) .mand .mand (encVv 0x43 0 f) rfl rfl (by intro _ _; unfold decodeRaw; rw [opOf_encVv, fnOf_encVv]; rfl) (by exact formatOk_other _ (by rw [opOf_encVv]; decide)) rfl (by exact congrArg Instr.mand (vvOf_encVv _ _ _))
theorem RoundTrip.mor (f : VvF) : RoundTrip.Statement (.mor f) :=
  roundTrip_of (.mor f) (.mor f) .mor .mor (encVv 0x43 1 f) rfl rfl (by intro _ _; unfold decodeRaw; rw [opOf_encVv, fnOf_encVv]; rfl) (by exact formatOk_other _ (by rw [opOf_encVv]; decide)) rfl (by exact congrArg Instr.mor (vvOf_encVv _ _ _))
theorem RoundTrip.mxor (f : VvF) : RoundTrip.Statement (.mxor f) :=
  roundTrip_of (.mxor f) (.mxor f) .mxor .mxor (encVv 0x43 2 f) rfl rfl (by intro _ _; unfold decodeRaw; rw [opOf_encVv, fnOf_encVv]; rfl) (by exact formatOk_other _ (by rw [opOf_encVv]; decide)) rfl (by exact congrArg Instr.mxor (vvOf_encVv _ _ _))
theorem RoundTrip.mandn (f : VvF) : RoundTrip.Statement (.mandn f) :=
  roundTrip_of (.mandn f) (.mandn f) .mandn .mandn (encVv 0x43 3 f) rfl rfl (by intro _ _; unfold decodeRaw; rw [opOf_encVv, fnOf_encVv]; rfl) (by exact formatOk_other _ (by rw [opOf_encVv]; decide)) rfl (by exact congrArg Instr.mandn (vvOf_encVv _ _ _))
theorem RoundTrip.mnot (f : VvF) : RoundTrip.Statement (.mnot f) :=
  roundTrip_of (.mnot f) (.mnot f) .mnot .mnot (encVv 0x43 4 f) rfl rfl (by intro _ _; unfold decodeRaw; rw [opOf_encVv, fnOf_encVv]; rfl) (by exact formatOk_other _ (by rw [opOf_encVv]; decide)) rfl (by exact congrArg Instr.mnot (vvOf_encVv _ _ _))
theorem RoundTrip.mpopc (f : VvF) : RoundTrip.Statement (.mpopc f) :=
  roundTrip_of (.mpopc f) (.mpopc f) .mpopc .mpopc (encVv 0x43 5 f) rfl rfl (by intro _ _; unfold decodeRaw; rw [opOf_encVv, fnOf_encVv]; rfl) (by exact formatOk_other _ (by rw [opOf_encVv]; decide)) rfl (by exact congrArg Instr.mpopc (vvOf_encVv _ _ _))
theorem RoundTrip.mfirst (f : VvF) : RoundTrip.Statement (.mfirst f) :=
  roundTrip_of (.mfirst f) (.mfirst f) .mfirst .mfirst (encVv 0x43 6 f) rfl rfl (by intro _ _; unfold decodeRaw; rw [opOf_encVv, fnOf_encVv]; rfl) (by exact formatOk_other _ (by rw [opOf_encVv]; decide)) rfl (by exact congrArg Instr.mfirst (vvOf_encVv _ _ _))
theorem RoundTrip.vqblk (f : VvF) : RoundTrip.Statement (.vqblk f) :=
  roundTrip_of (.vqblk f) (.vqblk f) .vqblk .vqblk (encVv 0x44 0 f) rfl rfl (by intro _ _; unfold decodeRaw; rw [opOf_encVv, fnOf_encVv]; rfl) (by exact formatOk_other _ (by rw [opOf_encVv]; decide)) rfl (by exact congrArg Instr.vqblk (vvOf_encVv _ _ _))
theorem RoundTrip.vdqblk (f : VvF) : RoundTrip.Statement (.vdqblk f) :=
  roundTrip_of (.vdqblk f) (.vdqblk f) .vdqblk .vdqblk (encVv 0x44 1 f) rfl rfl (by intro _ _; unfold decodeRaw; rw [opOf_encVv, fnOf_encVv]; rfl) (by exact formatOk_other _ (by rw [opOf_encVv]; decide)) rfl (by exact congrArg Instr.vdqblk (vvOf_encVv _ _ _))
theorem RoundTrip.vsacc (f : VvF) : RoundTrip.Statement (.vsacc f) :=
  roundTrip_of (.vsacc f) (.vsacc f) .vsacc .vsacc (encVv 0x44 2 f) rfl rfl (by intro _ _; unfold decodeRaw; rw [opOf_encVv, fnOf_encVv]; rfl) (by exact formatOk_other _ (by rw [opOf_encVv]; decide)) rfl (by exact congrArg Instr.vsacc (vvOf_encVv _ _ _))
theorem RoundTrip.vld (f : VmF) : RoundTrip.Statement (.vld f) :=
  roundTrip_of (.vld f) (.vld f) .vld .vld (encVm 0x50 0 f) rfl rfl (by intro h _; have h := eq_of_beq (Bool.and_eq_true_iff.mp h).2; rw [vmOf_encVm] at h; unfold decodeRaw; rw [opOf_encVm, fnOf_encVm, vmOf_encVm, h]; rfl) (by exact formatOk_other _ (by rw [opOf_encVm]; decide)) rfl (by exact congrArg Instr.vld (vmOf_encVm _ _ _))
theorem RoundTrip.vldff (f : VmF) : RoundTrip.Statement (.vldff f) :=
  roundTrip_of (.vldff f) (.vldff f) .vldff .vldff (encVm 0x50 0 f) rfl rfl (by intro h _; have h := eq_of_beq (Bool.and_eq_true_iff.mp h).2; rw [vmOf_encVm] at h; unfold decodeRaw; rw [opOf_encVm, fnOf_encVm, vmOf_encVm, h]; rfl) (by exact formatOk_other _ (by rw [opOf_encVm]; decide)) rfl (by exact congrArg Instr.vldff (vmOf_encVm _ _ _))
theorem RoundTrip.vlds (f : VmF) : RoundTrip.Statement (.vlds f) :=
  roundTrip_of (.vlds f) (.vlds f) .vlds .vlds (encVm 0x51 0 f) rfl rfl (by intro _ _; unfold decodeRaw; rw [opOf_encVm, fnOf_encVm]; rfl) (by exact formatOk_other _ (by rw [opOf_encVm]; decide)) rfl (by exact congrArg Instr.vlds (vmOf_encVm _ _ _))
theorem RoundTrip.vldx (f : VmF) : RoundTrip.Statement (.vldx f) :=
  roundTrip_of (.vldx f) (.vldx f) .vldx .vldx (encVm 0x52 0 f) rfl rfl (by intro _ _; unfold decodeRaw; rw [opOf_encVm, fnOf_encVm]; rfl) (by exact formatOk_other _ (by rw [opOf_encVm]; decide)) rfl (by exact congrArg Instr.vldx (vmOf_encVm _ _ _))
theorem RoundTrip.vldseg (fn : BitVec 6) (f : VmF) : RoundTrip.Statement (.vldseg fn f) :=
  roundTrip_of (.vldseg fn f) (.vldseg fn f) .vldseg .vldseg (encVm 0x53 fn f) rfl rfl (by intro _ h; have h1 := of_decide_eq_true (Bool.and_eq_true_iff.mp h).2; have h2 := of_decide_eq_true (Bool.and_eq_true_iff.mp (Bool.and_eq_true_iff.mp h).1).2; rw [fnOf_encVm] at h1 h2; unfold decodeRaw; rw [opOf_encVm, fnOf_encVm]; exact if_pos ⟨h2, h1⟩) (by exact formatOk_other _ (by rw [opOf_encVm]; decide)) rfl (by exact congr (congrArg Instr.vldseg (fnBits_encVm _ _ _)) (vmOf_encVm _ _ _))
theorem RoundTrip.vldscUnit (f : VmF) : RoundTrip.Statement (.vldscUnit f) :=
  roundTrip_of (.vldscUnit f) (.vldscUnit f) .vldscUnit .vldscUnit (encVm 0x54 0 f) rfl rfl (by intro _ _; unfold decodeRaw; rw [opOf_encVm, fnOf_encVm]; rfl) (by exact formatOk_other _ (by rw [opOf_encVm]; decide)) rfl (by exact congrArg Instr.vldscUnit (vmOf_encVm _ _ _))
theorem RoundTrip.vldscStrided (f : VmF) : RoundTrip.Statement (.vldscStrided f) :=
  roundTrip_of (.vldscStrided f) (.vldscStrided f) .vldscStrided .vldscStrided (encVm 0x54 1 f) rfl rfl (by intro _ _; unfold decodeRaw; rw [opOf_encVm, fnOf_encVm]; rfl) (by exact formatOk_other _ (by rw [opOf_encVm]; decide)) rfl (by exact congrArg Instr.vldscStrided (vmOf_encVm _ _ _))
theorem RoundTrip.vldscIndexed (f : VmF) : RoundTrip.Statement (.vldscIndexed f) :=
  roundTrip_of (.vldscIndexed f) (.vldscIndexed f) .vldscIndexed .vldscIndexed (encVm 0x54 2 f) rfl rfl (by intro _ _; unfold decodeRaw; rw [opOf_encVm, fnOf_encVm]; rfl) (by exact formatOk_other _ (by rw [opOf_encVm]; decide)) rfl (by exact congrArg Instr.vldscIndexed (vmOf_encVm _ _ _))
theorem RoundTrip.vst (f : VmF) : RoundTrip.Statement (.vst f) :=
  roundTrip_of (.vst f) (.vst f) .vst .vst (encVm 0x58 0 f) rfl rfl (by intro _ _; unfold decodeRaw; rw [opOf_encVm, fnOf_encVm]; rfl) (by exact formatOk_other _ (by rw [opOf_encVm]; decide)) rfl (by exact congrArg Instr.vst (vmOf_encVm _ _ _))
theorem RoundTrip.vsts (f : VmF) : RoundTrip.Statement (.vsts f) :=
  roundTrip_of (.vsts f) (.vsts f) .vsts .vsts (encVm 0x59 0 f) rfl rfl (by intro _ _; unfold decodeRaw; rw [opOf_encVm, fnOf_encVm]; rfl) (by exact formatOk_other _ (by rw [opOf_encVm]; decide)) rfl (by exact congrArg Instr.vsts (vmOf_encVm _ _ _))
theorem RoundTrip.vstx (f : VmF) : RoundTrip.Statement (.vstx f) :=
  roundTrip_of (.vstx f) (.vstx f) .vstx .vstx (encVm 0x5A 0 f) rfl rfl (by intro _ _; unfold decodeRaw; rw [opOf_encVm, fnOf_encVm]; rfl) (by exact formatOk_other _ (by rw [opOf_encVm]; decide)) rfl (by exact congrArg Instr.vstx (vmOf_encVm _ _ _))
theorem RoundTrip.vstseg (fn : BitVec 6) (f : VmF) : RoundTrip.Statement (.vstseg fn f) :=
  roundTrip_of (.vstseg fn f) (.vstseg fn f) .vstseg .vstseg (encVm 0x5B fn f) rfl rfl (by intro _ h; have h1 := of_decide_eq_true (Bool.and_eq_true_iff.mp h).2; have h2 := of_decide_eq_true (Bool.and_eq_true_iff.mp (Bool.and_eq_true_iff.mp h).1).2; rw [fnOf_encVm] at h1 h2; unfold decodeRaw; rw [opOf_encVm, fnOf_encVm]; exact if_pos ⟨h2, h1⟩) (by exact formatOk_other _ (by rw [opOf_encVm]; decide)) rfl (by exact congr (congrArg Instr.vstseg (fnBits_encVm _ _ _)) (vmOf_encVm _ _ _))
theorem RoundTrip.vstbm (f : VmF) : RoundTrip.Statement (.vstbm f) :=
  roundTrip_of (.vstbm f) (.vstbm f) .vstbm .vstbm (encVm 0x5C 0 f) rfl rfl (by intro _ _; unfold decodeRaw; rw [opOf_encVm, fnOf_encVm]; rfl) (by exact formatOk_other _ (by rw [opOf_encVm]; decide)) rfl (by exact congrArg Instr.vstbm (vmOf_encVm _ _ _))
theorem RoundTrip.vstscUnit (f : VmF) : RoundTrip.Statement (.vstscUnit f) :=
  roundTrip_of (.vstscUnit f) (.vstscUnit f) .vstscUnit .vstscUnit (encVm 0x5D 0 f) rfl rfl (by intro _ _; unfold decodeRaw; rw [opOf_encVm, fnOf_encVm]; rfl) (by exact formatOk_other _ (by rw [opOf_encVm]; decide)) rfl (by exact congrArg Instr.vstscUnit (vmOf_encVm _ _ _))
theorem RoundTrip.vstscStrided (f : VmF) : RoundTrip.Statement (.vstscStrided f) :=
  roundTrip_of (.vstscStrided f) (.vstscStrided f) .vstscStrided .vstscStrided (encVm 0x5D 1 f) rfl rfl (by intro _ _; unfold decodeRaw; rw [opOf_encVm, fnOf_encVm]; rfl) (by exact formatOk_other _ (by rw [opOf_encVm]; decide)) rfl (by exact congrArg Instr.vstscStrided (vmOf_encVm _ _ _))
theorem RoundTrip.vstscIndexed (f : VmF) : RoundTrip.Statement (.vstscIndexed f) :=
  roundTrip_of (.vstscIndexed f) (.vstscIndexed f) .vstscIndexed .vstscIndexed (encVm 0x5D 2 f) rfl rfl (by intro _ _; unfold decodeRaw; rw [opOf_encVm, fnOf_encVm]; rfl) (by exact formatOk_other _ (by rw [opOf_encVm]; decide)) rfl (by exact congrArg Instr.vstscIndexed (vmOf_encVm _ _ _))
theorem RoundTrip.amoSwap (f : VmF) : RoundTrip.Statement (.amoSwap f) :=
  roundTrip_of (.amoSwap f) (.amoSwap f) .amoSwap .amoSwap (encVm 0x60 0 f) rfl rfl (by intro _ _; unfold decodeRaw; rw [opOf_encVm, fnOf_encVm]; rfl) (by exact formatOk_other _ (by rw [opOf_encVm]; decide)) rfl (by exact congrArg Instr.amoSwap (vmOf_encVm _ _ _))
theorem RoundTrip.amoCas (f : VmF) : RoundTrip.Statement (.amoCas f) :=
  roundTrip_of (.amoCas f) (.amoCas f) .amoCas .amoCas (encVm 0x60 1 f) rfl rfl (by intro _ _; unfold decodeRaw; rw [opOf_encVm, fnOf_encVm]; rfl) (by exact formatOk_other _ (by rw [opOf_encVm]; decide)) rfl (by exact congrArg Instr.amoCas (vmOf_encVm _ _ _))
theorem RoundTrip.amoAdd (f : VmF) : RoundTrip.Statement (.amoAdd f) :=
  roundTrip_of (.amoAdd f) (.amoAdd f) .amoAdd .amoAdd (encVm 0x60 2 f) rfl rfl (by intro _ _; unfold decodeRaw; rw [opOf_encVm, fnOf_encVm]; rfl) (by exact formatOk_other _ (by rw [opOf_encVm]; decide)) rfl (by exact congrArg Instr.amoAdd (vmOf_encVm _ _ _))
theorem RoundTrip.amoAnd (f : VmF) : RoundTrip.Statement (.amoAnd f) :=
  roundTrip_of (.amoAnd f) (.amoAnd f) .amoAnd .amoAnd (encVm 0x60 3 f) rfl rfl (by intro _ _; unfold decodeRaw; rw [opOf_encVm, fnOf_encVm]; rfl) (by exact formatOk_other _ (by rw [opOf_encVm]; decide)) rfl (by exact congrArg Instr.amoAnd (vmOf_encVm _ _ _))
theorem RoundTrip.amoOr (f : VmF) : RoundTrip.Statement (.amoOr f) :=
  roundTrip_of (.amoOr f) (.amoOr f) .amoOr .amoOr (encVm 0x60 4 f) rfl rfl (by intro _ _; unfold decodeRaw; rw [opOf_encVm, fnOf_encVm]; rfl) (by exact formatOk_other _ (by rw [opOf_encVm]; decide)) rfl (by exact congrArg Instr.amoOr (vmOf_encVm _ _ _))
theorem RoundTrip.amoXor (f : VmF) : RoundTrip.Statement (.amoXor f) :=
  roundTrip_of (.amoXor f) (.amoXor f) .amoXor .amoXor (encVm 0x60 5 f) rfl rfl (by intro _ _; unfold decodeRaw; rw [opOf_encVm, fnOf_encVm]; rfl) (by exact formatOk_other _ (by rw [opOf_encVm]; decide)) rfl (by exact congrArg Instr.amoXor (vmOf_encVm _ _ _))
theorem RoundTrip.amoMin (f : VmF) : RoundTrip.Statement (.amoMin f) :=
  roundTrip_of (.amoMin f) (.amoMin f) .amoMin .amoMin (encVm 0x60 6 f) rfl rfl (by intro _ _; unfold decodeRaw; rw [opOf_encVm, fnOf_encVm]; rfl) (by exact formatOk_other _ (by rw [opOf_encVm]; decide)) rfl (by exact congrArg Instr.amoMin (vmOf_encVm _ _ _))
theorem RoundTrip.amoMax (f : VmF) : RoundTrip.Statement (.amoMax f) :=
  roundTrip_of (.amoMax f) (.amoMax f) .amoMax .amoMax (encVm 0x60 7 f) rfl rfl (by intro _ _; unfold decodeRaw; rw [opOf_encVm, fnOf_encVm]; rfl) (by exact formatOk_other _ (by rw [opOf_encVm]; decide)) rfl (by exact congrArg Instr.amoMax (vmOf_encVm _ _ _))
theorem RoundTrip.amoMinn (f : VmF) : RoundTrip.Statement (.amoMinn f) :=
  roundTrip_of (.amoMinn f) (.amoMinn f) .amoMinn .amoMinn (encVm 0x60 8 f) rfl rfl (by intro _ _; unfold decodeRaw; rw [opOf_encVm, fnOf_encVm]; rfl) (by exact formatOk_other _ (by rw [opOf_encVm]; decide)) rfl (by exact congrArg Instr.amoMinn (vmOf_encVm _ _ _))
theorem RoundTrip.amoMaxn (f : VmF) : RoundTrip.Statement (.amoMaxn f) :=
  roundTrip_of (.amoMaxn f) (.amoMaxn f) .amoMaxn .amoMaxn (encVm 0x60 9 f) rfl rfl (by intro _ _; unfold decodeRaw; rw [opOf_encVm, fnOf_encVm]; rfl) (by exact formatOk_other _ (by rw [opOf_encVm]; decide)) rfl (by exact congrArg Instr.amoMaxn (vmOf_encVm _ _ _))
theorem RoundTrip.vamoSwap (f : VmF) : RoundTrip.Statement (.vamoSwap f) :=
  roundTrip_of (.vamoSwap f) (.vamoSwap f) .vamoSwap .vamoSwap (encVm 0x61 0 f) rfl rfl (by intro _ _; unfold decodeRaw; rw [opOf_encVm, fnOf_encVm]; rfl) (by exact formatOk_other _ (by rw [opOf_encVm]; decide)) rfl (by exact congrArg Instr.vamoSwap (vmOf_encVm _ _ _))
theorem RoundTrip.vamoCas (f : VmF) : RoundTrip.Statement (.vamoCas f) :=
  roundTrip_of (.vamoCas f) (.vamoCas f) .vamoCas .vamoCas (encVm 0x61 1 f) rfl rfl (by intro _ _; unfold decodeRaw; rw [opOf_encVm, fnOf_encVm]; rfl) (by exact formatOk_other _ (by rw [opOf_encVm]; decide)) rfl (by exact congrArg Instr.vamoCas (vmOf_encVm _ _ _))
theorem RoundTrip.vamoAdd (f : VmF) : RoundTrip.Statement (.vamoAdd f) :=
  roundTrip_of (.vamoAdd f) (.vamoAdd f) .vamoAdd .vamoAdd (encVm 0x61 2 f) rfl rfl (by intro _ _; unfold decodeRaw; rw [opOf_encVm, fnOf_encVm]; rfl) (by exact formatOk_other _ (by rw [opOf_encVm]; decide)) rfl (by exact congrArg Instr.vamoAdd (vmOf_encVm _ _ _))
theorem RoundTrip.vamoAnd (f : VmF) : RoundTrip.Statement (.vamoAnd f) :=
  roundTrip_of (.vamoAnd f) (.vamoAnd f) .vamoAnd .vamoAnd (encVm 0x61 3 f) rfl rfl (by intro _ _; unfold decodeRaw; rw [opOf_encVm, fnOf_encVm]; rfl) (by exact formatOk_other _ (by rw [opOf_encVm]; decide)) rfl (by exact congrArg Instr.vamoAnd (vmOf_encVm _ _ _))
theorem RoundTrip.vamoOr (f : VmF) : RoundTrip.Statement (.vamoOr f) :=
  roundTrip_of (.vamoOr f) (.vamoOr f) .vamoOr .vamoOr (encVm 0x61 4 f) rfl rfl (by intro _ _; unfold decodeRaw; rw [opOf_encVm, fnOf_encVm]; rfl) (by exact formatOk_other _ (by rw [opOf_encVm]; decide)) rfl (by exact congrArg Instr.vamoOr (vmOf_encVm _ _ _))
theorem RoundTrip.vamoXor (f : VmF) : RoundTrip.Statement (.vamoXor f) :=
  roundTrip_of (.vamoXor f) (.vamoXor f) .vamoXor .vamoXor (encVm 0x61 5 f) rfl rfl (by intro _ _; unfold decodeRaw; rw [opOf_encVm, fnOf_encVm]; rfl) (by exact formatOk_other _ (by rw [opOf_encVm]; decide)) rfl (by exact congrArg Instr.vamoXor (vmOf_encVm _ _ _))
theorem RoundTrip.vamoMin (f : VmF) : RoundTrip.Statement (.vamoMin f) :=
  roundTrip_of (.vamoMin f) (.vamoMin f) .vamoMin .vamoMin (encVm 0x61 6 f) rfl rfl (by intro _ _; unfold decodeRaw; rw [opOf_encVm, fnOf_encVm]; rfl) (by exact formatOk_other _ (by rw [opOf_encVm]; decide)) rfl (by exact congrArg Instr.vamoMin (vmOf_encVm _ _ _))
theorem RoundTrip.vamoMax (f : VmF) : RoundTrip.Statement (.vamoMax f) :=
  roundTrip_of (.vamoMax f) (.vamoMax f) .vamoMax .vamoMax (encVm 0x61 7 f) rfl rfl (by intro _ _; unfold decodeRaw; rw [opOf_encVm, fnOf_encVm]; rfl) (by exact formatOk_other _ (by rw [opOf_encVm]; decide)) rfl (by exact congrArg Instr.vamoMax (vmOf_encVm _ _ _))
theorem RoundTrip.vamoMinn (f : VmF) : RoundTrip.Statement (.vamoMinn f) :=
  roundTrip_of (.vamoMinn f) (.vamoMinn f) .vamoMinn .vamoMinn (encVm 0x61 8 f) rfl rfl (by intro _ _; unfold decodeRaw; rw [opOf_encVm, fnOf_encVm]; rfl) (by exact formatOk_other _ (by rw [opOf_encVm]; decide)) rfl (by exact congrArg Instr.vamoMinn (vmOf_encVm _ _ _))
theorem RoundTrip.vamoMaxn (f : VmF) : RoundTrip.Statement (.vamoMaxn f) :=
  roundTrip_of (.vamoMaxn f) (.vamoMaxn f) .vamoMaxn .vamoMaxn (encVm 0x61 9 f) rfl rfl (by intro _ _; unfold decodeRaw; rw [opOf_encVm, fnOf_encVm]; rfl) (by exact formatOk_other _ (by rw [opOf_encVm]; decide)) rfl (by exact congrArg Instr.vamoMaxn (vmOf_encVm _ _ _))
theorem RoundTrip.vsadd (f : VmF) : RoundTrip.Statement (.vsadd f) :=
  roundTrip_of (.vsadd f) (.vsadd f) .vsadd .vsadd (encVm 0x62 0 f) rfl rfl (by intro _ _; unfold decodeRaw; rw [opOf_encVm, fnOf_encVm]; rfl) (by exact formatOk_other _ (by rw [opOf_encVm]; decide)) rfl (by exact congrArg Instr.vsadd (vmOf_encVm _ _ _))
theorem RoundTrip.scatterAddPerform (n : Nat) : RoundTrip.Statement (.scatterAddPerform n) := roundTrip_event _ _ rfl
theorem RoundTrip.vwait (f : RrF) : RoundTrip.Statement (.vwait f) :=
  roundTrip_of (.vwait f) (.vwait f) .vwait .vwait (encRr 0x63 0 f) rfl rfl (by intro _ _; unfold decodeRaw; rw [opOf_encRr, fnOf_encRr]; rfl) (by exact formatOk_rr _ (by rw [opOf_encRr]; decide) (low_encRr _ _ _)) rfl (by exact congrArg Instr.vwait (rrOf_encRr _ _ _))
theorem RoundTrip.fence (f : VmF) : RoundTrip.Statement (.fence f) :=
  roundTrip_of (.fence f) (.fence f) .fence .fence (encVm 0x64 0 f) rfl rfl (by intro _ _; unfold decodeRaw; rw [opOf_encVm, fnOf_encVm]; rfl) (by exact formatOk_other _ (by rw [opOf_encVm]; decide)) rfl (by exact congrArg Instr.fence (vmOf_encVm _ _ _))
theorem RoundTrip.probe (f : VmF) : RoundTrip.Statement (.probe f) :=
  roundTrip_of (.probe f) (.probe f) .probe .probe (encVm 0x65 0 f) rfl rfl (by intro _ _; unfold decodeRaw; rw [opOf_encVm, fnOf_encVm]; rfl) (by exact formatOk_other _ (by rw [opOf_encVm]; decide)) rfl (by exact congrArg Instr.probe (vmOf_encVm _ _ _))
theorem RoundTrip.binit (f : RrF) : RoundTrip.Statement (.binit f) :=
  roundTrip_of (.binit f) (.binit f) .binit .binit (encRr 0x66 0 f) rfl rfl (by intro _ _; unfold decodeRaw; rw [opOf_encRr, fnOf_encRr]; rfl) (by exact formatOk_rr _ (by rw [opOf_encRr]; decide) (low_encRr _ _ _)) rfl (by exact congrArg Instr.binit (rrOf_encRr _ _ _))
theorem RoundTrip.arrive (f : RrF) : RoundTrip.Statement (.arrive f) :=
  roundTrip_of (.arrive f) (.arrive f) .arrive .arrive (encRr 0x66 1 f) rfl rfl (by intro _ _; unfold decodeRaw; rw [opOf_encRr, fnOf_encRr]; rfl) (by exact formatOk_rr _ (by rw [opOf_encRr]; decide) (low_encRr _ _ _)) rfl (by exact congrArg Instr.arrive (rrOf_encRr _ _ _))
theorem RoundTrip.bwait (f : RrF) : RoundTrip.Statement (.bwait f) :=
  roundTrip_of (.bwait f) (.bwait f) .bwait .bwait (encRr 0x66 2 f) rfl rfl (by intro _ _; unfold decodeRaw; rw [opOf_encRr, fnOf_encRr]; rfl) (by exact formatOk_rr _ (by rw [opOf_encRr]; decide) (low_encRr _ _ _)) rfl (by exact congrArg Instr.bwait (rrOf_encRr _ _ _))
theorem RoundTrip.barrierWaitWake (n : Nat) : RoundTrip.Statement (.barrierWaitWake n) := roundTrip_event _ _ rfl
theorem RoundTrip.sld (sz : BitVec 2) (f : SgF) : RoundTrip.Statement (.sld sz f) :=
  roundTrip_of (.sld sz f) (.sld sz f) .sld .sld (encSg 0x68 (sz.setWidth 6) f) rfl rfl (by intro _ _; unfold decodeRaw; rw [opOf_encSg, fnOf_encSg]; exact if_pos (by have h := sz.isLt; simp; omega)) (by exact formatOk_other _ (by rw [opOf_encSg]; decide)) rfl (by exact congr (congrArg Instr.sld (fn2_encSg _ _ _)) (sgOf_encSg _ _ _))
theorem RoundTrip.sst (sz : BitVec 2) (f : SgF) : RoundTrip.Statement (.sst sz f) :=
  roundTrip_of (.sst sz f) (.sst sz f) .sst .sst (encSg 0x69 (sz.setWidth 6) f) rfl rfl (by intro _ _; unfold decodeRaw; rw [opOf_encSg, fnOf_encSg]; exact if_pos (by have h := sz.isLt; simp; omega)) (by exact formatOk_other _ (by rw [opOf_encSg]; decide)) rfl (by exact congr (congrArg Instr.sst (fn2_encSg _ _ _)) (sgOf_encSg _ _ _))
theorem RoundTrip.strn (f : SgF) : RoundTrip.Statement (.strn f) :=
  roundTrip_of (.strn f) (.strn f) .strn .strn (encSg 0x6A 0 f) rfl rfl (by intro _ _; unfold decodeRaw; rw [opOf_encSg, fnOf_encSg]; rfl) (by exact formatOk_other _ (by rw [opOf_encSg]; decide)) rfl (by exact congrArg Instr.strn (sgOf_encSg _ _ _))
theorem RoundTrip.stbl (f : RiF) : RoundTrip.Statement (.stbl f) :=
  roundTrip_of (.stbl f) (.stbl f) .stbl .stbl (encRi 0x6B 0 f) rfl rfl (by intro _ _; unfold decodeRaw; rw [opOf_encRi, fnOf_encRi]; rfl) (by exact formatOk_other _ (by rw [opOf_encRi]; decide)) rfl (by exact congrArg Instr.stbl (riOf_encRi _ _ _))
theorem RoundTrip.sbind (f : RiF) : RoundTrip.Statement (.sbind f) :=
  roundTrip_of (.sbind f) (.sbind f) .sbind .sbind (encRi 0x6C 0 f) rfl rfl (by intro _ _; unfold decodeRaw; rw [opOf_encRi, fnOf_encRi]; rfl) (by exact formatOk_other _ (by rw [opOf_encRi]; decide)) rfl (by exact congrArg Instr.sbind (riOf_encRi _ _ _))
theorem RoundTrip.sunbind (f : RiF) : RoundTrip.Statement (.sunbind f) :=
  roundTrip_of (.sunbind f) (.sunbind f) .sunbind .sunbind (encRi 0x6D 0 f) rfl rfl (by intro _ _; unfold decodeRaw; rw [opOf_encRi, fnOf_encRi]; rfl) (by exact formatOk_other _ (by rw [opOf_encRi]; decide)) rfl (by exact congrArg Instr.sunbind (riOf_encRi _ _ _))
theorem RoundTrip.sqry (f : SgF) : RoundTrip.Statement (.sqry f) :=
  roundTrip_of (.sqry f) (.sqry f) .sqry .sqry (encSg 0x6E 0 f) rfl rfl (by intro _ _; unfold decodeRaw; rw [opOf_encSg, fnOf_encSg]; rfl) (by exact formatOk_other _ (by rw [opOf_encSg]; decide)) rfl (by exact congrArg Instr.sqry (sgOf_encSg _ _ _))
theorem RoundTrip.parkRejudge (line : Nat) : RoundTrip.Statement (.parkRejudge line) := roundTrip_event _ _ rfl
theorem RoundTrip.parkLimit (n : Nat) : RoundTrip.Statement (.parkLimit n) := roundTrip_event _ _ rfl
theorem RoundTrip.cdef (f : ClF) : RoundTrip.Statement (.cdef f) :=
  roundTrip_of (.cdef f) (.cdef f) .cdef .cdef (encCl 0x70 0 f) rfl rfl (by intro _ _; unfold decodeRaw; rw [opOf_encCl, fnOf_encCl]; rfl) (by exact formatOk_cl _ (by rw [opOf_encCl]; decide) (low_encCl _ _ _)) rfl (by exact congrArg Instr.cdef (clOf_encCl _ _ _))
theorem RoundTrip.cld (f : ClF) : RoundTrip.Statement (.cld f) :=
  roundTrip_of (.cld f) (.cld f) .cld .cld (encCl 0x71 0 f) rfl rfl (by intro _ _; unfold decodeRaw; rw [opOf_encCl, fnOf_encCl]; rfl) (by exact formatOk_cl _ (by rw [opOf_encCl]; decide) (low_encCl _ _ _)) rfl (by exact congrArg Instr.cld (clOf_encCl _ _ _))
theorem RoundTrip.cst (f : ClF) : RoundTrip.Statement (.cst f) :=
  roundTrip_of (.cst f) (.cst f) .cst .cst (encCl 0x72 0 f) rfl rfl (by intro _ _; unfold decodeRaw; rw [opOf_encCl, fnOf_encCl]; rfl) (by exact formatOk_cl _ (by rw [opOf_encCl]; decide) (low_encCl _ _ _)) rfl (by exact congrArg Instr.cst (clOf_encCl _ _ _))
theorem RoundTrip.clen (f : ClF) : RoundTrip.Statement (.clen f) :=
  roundTrip_of (.clen f) (.clen f) .clen .clen (encCl 0x73 0 f) rfl rfl (by intro _ _; unfold decodeRaw; rw [opOf_encCl, fnOf_encCl]; rfl) (by exact formatOk_cl _ (by rw [opOf_encCl]; decide) (low_encCl _ _ _)) rfl (by exact congrArg Instr.clen (clOf_encCl _ _ _))
theorem RoundTrip.cpend (f : ClF) : RoundTrip.Statement (.cpend f) :=
  roundTrip_of (.cpend f) (.cpend f) .cpend .cpend (encCl 0x74 0 f) rfl rfl (by intro _ _; unfold decodeRaw; rw [opOf_encCl, fnOf_encCl]; rfl) (by exact formatOk_cl _ (by rw [opOf_encCl]; decide) (low_encCl _ _ _)) rfl (by exact congrArg Instr.cpend (clOf_encCl _ _ _))
theorem RoundTrip.cclr (f : ClF) : RoundTrip.Statement (.cclr f) :=
  roundTrip_of (.cclr f) (.cclr f) .cclr .cclr (encCl 0x75 0 f) rfl rfl (by intro _ _; unfold decodeRaw; rw [opOf_encCl, fnOf_encCl]; rfl) (by exact formatOk_cl _ (by rw [opOf_encCl]; decide) (low_encCl _ _ _)) rfl (by exact congrArg Instr.cclr (clOf_encCl _ _ _))
theorem RoundTrip.cselScalar (f : ClF) : RoundTrip.Statement (.cselScalar f) :=
  roundTrip_of (.cselScalar f) (.cselScalar f) .cselScalar .cselScalar (encCl 0x76 0 f) rfl rfl (by intro _ h; have h := eq_of_beq (Bool.and_eq_true_iff.mp h).2; rw [clOf_encCl] at h; unfold decodeRaw; rw [opOf_encCl, fnOf_encCl, clOf_encCl, h]; rfl) (by exact formatOk_cl _ (by rw [opOf_encCl]; decide) (low_encCl _ _ _)) rfl (by exact congrArg Instr.cselScalar (clOf_encCl _ _ _))
theorem RoundTrip.cselColumn (f : ClF) : RoundTrip.Statement (.cselColumn f) :=
  roundTrip_of (.cselColumn f) (.cselColumn f) .cselColumn .cselColumn (encCl 0x76 0 f) rfl rfl (by intro _ h; have h := eq_of_beq (Bool.and_eq_true_iff.mp h).2; rw [clOf_encCl] at h; unfold decodeRaw; rw [opOf_encCl, fnOf_encCl, clOf_encCl, h]; rfl) (by exact formatOk_cl _ (by rw [opOf_encCl]; decide) (low_encCl _ _ _)) rfl (by exact congrArg Instr.cselColumn (clOf_encCl _ _ _))
theorem RoundTrip.cselList (f : ClF) : RoundTrip.Statement (.cselList f) :=
  roundTrip_of (.cselList f) (.cselList f) .cselList .cselList (encCl 0x76 0 f) rfl rfl (by intro _ h; have h := eq_of_beq (Bool.and_eq_true_iff.mp h).2; rw [clOf_encCl] at h; unfold decodeRaw; rw [opOf_encCl, fnOf_encCl, clOf_encCl, h]; rfl) (by exact formatOk_cl _ (by rw [opOf_encCl]; decide) (low_encCl _ _ _)) rfl (by exact congrArg Instr.cselList (clOf_encCl _ _ _))
theorem RoundTrip.cprj (f : ClF) : RoundTrip.Statement (.cprj f) :=
  roundTrip_of (.cprj f) (.cprj f) .cprj .cprj (encCl 0x77 0 f) rfl rfl (by intro _ _; unfold decodeRaw; rw [opOf_encCl, fnOf_encCl]; rfl) (by exact formatOk_cl _ (by rw [opOf_encCl]; decide) (low_encCl _ _ _)) rfl (by exact congrArg Instr.cprj (clOf_encCl _ _ _))
theorem RoundTrip.cjoinInner (f : ClF) : RoundTrip.Statement (.cjoinInner f) :=
  roundTrip_of (.cjoinInner f) (.cjoinInner f) .cjoinInner .cjoinInner (encCl 0x78 0 f) rfl rfl (by intro _ h; have h := eq_of_beq (Bool.and_eq_true_iff.mp h).2; rw [clOf_encCl] at h; unfold decodeRaw; rw [opOf_encCl, fnOf_encCl, clOf_encCl, h]; rfl) (by exact formatOk_cl _ (by rw [opOf_encCl]; decide) (low_encCl _ _ _)) rfl (by exact congrArg Instr.cjoinInner (clOf_encCl _ _ _))
theorem RoundTrip.cjoinSemi (f : ClF) : RoundTrip.Statement (.cjoinSemi f) :=
  roundTrip_of (.cjoinSemi f) (.cjoinSemi f) .cjoinSemi .cjoinSemi (encCl 0x78 0 f) rfl rfl (by intro _ h; have h := eq_of_beq (Bool.and_eq_true_iff.mp h).2; rw [clOf_encCl] at h; unfold decodeRaw; rw [opOf_encCl, fnOf_encCl, clOf_encCl, h]; rfl) (by exact formatOk_cl _ (by rw [opOf_encCl]; decide) (low_encCl _ _ _)) rfl (by exact congrArg Instr.cjoinSemi (clOf_encCl _ _ _))
theorem RoundTrip.cjoinAnti (f : ClF) : RoundTrip.Statement (.cjoinAnti f) :=
  roundTrip_of (.cjoinAnti f) (.cjoinAnti f) .cjoinAnti .cjoinAnti (encCl 0x78 0 f) rfl rfl (by intro _ h; have h := eq_of_beq (Bool.and_eq_true_iff.mp h).2; rw [clOf_encCl] at h; unfold decodeRaw; rw [opOf_encCl, fnOf_encCl, clOf_encCl, h]; rfl) (by exact formatOk_cl _ (by rw [opOf_encCl]; decide) (low_encCl _ _ _)) rfl (by exact congrArg Instr.cjoinAnti (clOf_encCl _ _ _))
theorem RoundTrip.cgrp (f : ClF) : RoundTrip.Statement (.cgrp f) :=
  roundTrip_of (.cgrp f) (.cgrp f) .cgrp .cgrp (encCl 0x79 0 f) rfl rfl (by intro _ _; unfold decodeRaw; rw [opOf_encCl, fnOf_encCl]; rfl) (by exact formatOk_cl _ (by rw [opOf_encCl]; decide) (low_encCl _ _ _)) rfl (by exact congrArg Instr.cgrp (clOf_encCl _ _ _))
theorem RoundTrip.caggCnt (f : ClF) : RoundTrip.Statement (.caggCnt f) :=
  roundTrip_of (.caggCnt f) (.caggCnt f) .caggCnt .caggCnt (encCl 0x7A 0 f) rfl rfl (by intro _ h; have h := eq_of_beq (Bool.and_eq_true_iff.mp h).2; rw [clOf_encCl] at h; unfold decodeRaw; rw [opOf_encCl, fnOf_encCl, clOf_encCl, h]; rfl) (by exact formatOk_cl _ (by rw [opOf_encCl]; decide) (low_encCl _ _ _)) rfl (by exact congrArg Instr.caggCnt (clOf_encCl _ _ _))
theorem RoundTrip.caggSum (f : ClF) : RoundTrip.Statement (.caggSum f) :=
  roundTrip_of (.caggSum f) (.caggSum f) .caggSum .caggSum (encCl 0x7A 0 f) rfl rfl (by intro _ h; have h := eq_of_beq (Bool.and_eq_true_iff.mp h).2; rw [clOf_encCl] at h; unfold decodeRaw; rw [opOf_encCl, fnOf_encCl, clOf_encCl, h]; rfl) (by exact formatOk_cl _ (by rw [opOf_encCl]; decide) (low_encCl _ _ _)) rfl (by exact congrArg Instr.caggSum (clOf_encCl _ _ _))
theorem RoundTrip.caggMin (f : ClF) : RoundTrip.Statement (.caggMin f) :=
  roundTrip_of (.caggMin f) (.caggMin f) .caggMin .caggMin (encCl 0x7A 0 f) rfl rfl (by intro _ h; have h := eq_of_beq (Bool.and_eq_true_iff.mp h).2; rw [clOf_encCl] at h; unfold decodeRaw; rw [opOf_encCl, fnOf_encCl, clOf_encCl, h]; rfl) (by exact formatOk_cl _ (by rw [opOf_encCl]; decide) (low_encCl _ _ _)) rfl (by exact congrArg Instr.caggMin (clOf_encCl _ _ _))
theorem RoundTrip.caggMax (f : ClF) : RoundTrip.Statement (.caggMax f) :=
  roundTrip_of (.caggMax f) (.caggMax f) .caggMax .caggMax (encCl 0x7A 0 f) rfl rfl (by intro _ h; have h := eq_of_beq (Bool.and_eq_true_iff.mp h).2; rw [clOf_encCl] at h; unfold decodeRaw; rw [opOf_encCl, fnOf_encCl, clOf_encCl, h]; rfl) (by exact formatOk_cl _ (by rw [opOf_encCl]; decide) (low_encCl _ _ _)) rfl (by exact congrArg Instr.caggMax (clOf_encCl _ _ _))
theorem RoundTrip.caggCntWhole (f : ClF) : RoundTrip.Statement (.caggCntWhole f) :=
  roundTrip_of (.caggCntWhole f) (.caggCntWhole f) .caggCntWhole .caggCntWhole (encCl 0x7A 0 f) rfl rfl (by intro _ h; have h := eq_of_beq (Bool.and_eq_true_iff.mp h).2; rw [clOf_encCl] at h; unfold decodeRaw; rw [opOf_encCl, fnOf_encCl, clOf_encCl, h]; rfl) (by exact formatOk_cl _ (by rw [opOf_encCl]; decide) (low_encCl _ _ _)) rfl (by exact congrArg Instr.caggCntWhole (clOf_encCl _ _ _))
theorem RoundTrip.caggSumWhole (f : ClF) : RoundTrip.Statement (.caggSumWhole f) :=
  roundTrip_of (.caggSumWhole f) (.caggSumWhole f) .caggSumWhole .caggSumWhole (encCl 0x7A 0 f) rfl rfl (by intro _ h; have h := eq_of_beq (Bool.and_eq_true_iff.mp h).2; rw [clOf_encCl] at h; unfold decodeRaw; rw [opOf_encCl, fnOf_encCl, clOf_encCl, h]; rfl) (by exact formatOk_cl _ (by rw [opOf_encCl]; decide) (low_encCl _ _ _)) rfl (by exact congrArg Instr.caggSumWhole (clOf_encCl _ _ _))
theorem RoundTrip.caggMinWhole (f : ClF) : RoundTrip.Statement (.caggMinWhole f) :=
  roundTrip_of (.caggMinWhole f) (.caggMinWhole f) .caggMinWhole .caggMinWhole (encCl 0x7A 0 f) rfl rfl (by intro _ h; have h := eq_of_beq (Bool.and_eq_true_iff.mp h).2; rw [clOf_encCl] at h; unfold decodeRaw; rw [opOf_encCl, fnOf_encCl, clOf_encCl, h]; rfl) (by exact formatOk_cl _ (by rw [opOf_encCl]; decide) (low_encCl _ _ _)) rfl (by exact congrArg Instr.caggMinWhole (clOf_encCl _ _ _))
theorem RoundTrip.caggMaxWhole (f : ClF) : RoundTrip.Statement (.caggMaxWhole f) :=
  roundTrip_of (.caggMaxWhole f) (.caggMaxWhole f) .caggMaxWhole .caggMaxWhole (encCl 0x7A 0 f) rfl rfl (by intro _ h; have h := eq_of_beq (Bool.and_eq_true_iff.mp h).2; rw [clOf_encCl] at h; unfold decodeRaw; rw [opOf_encCl, fnOf_encCl, clOf_encCl, h]; rfl) (by exact formatOk_cl _ (by rw [opOf_encCl]; decide) (low_encCl _ _ _)) rfl (by exact congrArg Instr.caggMaxWhole (clOf_encCl _ _ _))
theorem RoundTrip.csort (f : ClF) : RoundTrip.Statement (.csort f) :=
  roundTrip_of (.csort f) (.csort f) .csort .csort (encCl 0x7B 0 f) rfl rfl (by intro _ h; have h := eq_of_beq (Bool.and_eq_true_iff.mp h).2; rw [clOf_encCl] at h; unfold decodeRaw; rw [opOf_encCl, fnOf_encCl, clOf_encCl, h]; rfl) (by exact formatOk_cl _ (by rw [opOf_encCl]; decide) (low_encCl _ _ _)) rfl (by exact congrArg Instr.csort (clOf_encCl _ _ _))
theorem RoundTrip.csortDesc (f : ClF) : RoundTrip.Statement (.csortDesc f) :=
  roundTrip_of (.csortDesc f) (.csortDesc f) .csortDesc .csortDesc (encCl 0x7B 0 f) rfl rfl (by intro _ h; have h := eq_of_beq (Bool.and_eq_true_iff.mp h).2; rw [clOf_encCl] at h; unfold decodeRaw; rw [opOf_encCl, fnOf_encCl, clOf_encCl, h]; rfl) (by exact formatOk_cl _ (by rw [opOf_encCl]; decide) (low_encCl _ _ _)) rfl (by exact congrArg Instr.csortDesc (clOf_encCl _ _ _))
theorem RoundTrip.cuniq (f : ClF) : RoundTrip.Statement (.cuniq f) :=
  roundTrip_of (.cuniq f) (.cuniq f) .cuniq .cuniq (encCl 0x7C 0 f) rfl rfl (by intro _ _; unfold decodeRaw; rw [opOf_encCl, fnOf_encCl]; rfl) (by exact formatOk_cl _ (by rw [opOf_encCl]; decide) (low_encCl _ _ _)) rfl (by exact congrArg Instr.cuniq (clOf_encCl _ _ _))
theorem RoundTrip.ctopk (f : ClF) : RoundTrip.Statement (.ctopk f) :=
  roundTrip_of (.ctopk f) (.ctopk f) .ctopk .ctopk (encCl 0x7D 0 f) rfl rfl (by intro _ h; have h := eq_of_beq (Bool.and_eq_true_iff.mp h).2; rw [clOf_encCl] at h; unfold decodeRaw; rw [opOf_encCl, fnOf_encCl, clOf_encCl, h]; rfl) (by exact formatOk_cl _ (by rw [opOf_encCl]; decide) (low_encCl _ _ _)) rfl (by exact congrArg Instr.ctopk (clOf_encCl _ _ _))
theorem RoundTrip.ctopkMin (f : ClF) : RoundTrip.Statement (.ctopkMin f) :=
  roundTrip_of (.ctopkMin f) (.ctopkMin f) .ctopkMin .ctopkMin (encCl 0x7D 0 f) rfl rfl (by intro _ h; have h := eq_of_beq (Bool.and_eq_true_iff.mp h).2; rw [clOf_encCl] at h; unfold decodeRaw; rw [opOf_encCl, fnOf_encCl, clOf_encCl, h]; rfl) (by exact formatOk_cl _ (by rw [opOf_encCl]; decide) (low_encCl _ _ _)) rfl (by exact congrArg Instr.ctopkMin (clOf_encCl _ _ _))
theorem RoundTrip.tenq (f : RrF) : RoundTrip.Statement (.tenq f) :=
  roundTrip_of (.tenq f) (.tenq f) .tenq .tenq (encRr 0x80 0 f) rfl rfl (by intro _ _; unfold decodeRaw; rw [opOf_encRr, fnOf_encRr]; rfl) (by exact formatOk_rr _ (by rw [opOf_encRr]; decide) (low_encRr _ _ _)) rfl (by exact congrArg Instr.tenq (rrOf_encRr _ _ _))
theorem RoundTrip.tqry (f : RrF) : RoundTrip.Statement (.tqry f) :=
  roundTrip_of (.tqry f) (.tqry f) .tqry .tqry (encRr 0x81 0 f) rfl rfl (by intro _ _; unfold decodeRaw; rw [opOf_encRr, fnOf_encRr]; rfl) (by exact formatOk_rr _ (by rw [opOf_encRr]; decide) (low_encRr _ _ _)) rfl (by exact congrArg Instr.tqry (rrOf_encRr _ _ _))
theorem RoundTrip.tcancel (f : RrF) : RoundTrip.Statement (.tcancel f) :=
  roundTrip_of (.tcancel f) (.tcancel f) .tcancel .tcancel (encRr 0x82 0 f) rfl rfl (by intro _ _; unfold decodeRaw; rw [opOf_encRr, fnOf_encRr]; rfl) (by exact formatOk_rr _ (by rw [opOf_encRr]; decide) (low_encRr _ _ _)) rfl (by exact congrArg Instr.tcancel (rrOf_encRr _ _ _))
theorem RoundTrip.batch (f : BtF) : RoundTrip.Statement (.batch f) :=
  roundTrip_of (.batch f) (.batch f) .batch .batch (encBt 0x88 0 f) rfl rfl (by intro _ _; unfold decodeRaw; rw [opOf_encBt, fnOf_encBt]; rfl) (by exact formatOk_bt _ (opOf_encBt _ _ _) (low_encBt _ _ _) (mid_encBt _ _ _)) rfl (by exact congrArg Instr.batch (btOf_encBt _ _ _))
theorem RoundTrip.publ (f : RrF) : RoundTrip.Statement (.publ f) :=
  roundTrip_of (.publ f) (.publ f) .publ .publ (encRr 0x89 0 f) rfl rfl (by intro _ _; unfold decodeRaw; rw [opOf_encRr, fnOf_encRr]; rfl) (by exact formatOk_rr _ (by rw [opOf_encRr]; decide) (low_encRr _ _ _)) rfl (by exact congrArg Instr.publ (rrOf_encRr _ _ _))
theorem RoundTrip.xtbl (f : RiF) : RoundTrip.Statement (.xtbl f) :=
  roundTrip_of (.xtbl f) (.xtbl f) .xtbl .xtbl (encRi 0x8A 0 f) rfl rfl (by intro _ _; unfold decodeRaw; rw [opOf_encRi, fnOf_encRi]; rfl) (by exact formatOk_other _ (by rw [opOf_encRi]; decide)) rfl (by exact congrArg Instr.xtbl (riOf_encRi _ _ _))
theorem RoundTrip.csrr (f : SyF) : RoundTrip.Statement (.csrr f) :=
  roundTrip_of (.csrr f) (.csrr f) .csrr .csrr (encSy 0x90 0 f) rfl rfl (by intro _ _; unfold decodeRaw; rw [opOf_encSy, fnOf_encSy]; rfl) (by exact formatOk_other _ (by rw [opOf_encSy]; decide)) rfl (by exact congrArg Instr.csrr (syOf_encSy _ _ _))
theorem RoundTrip.csrw (f : SyF) : RoundTrip.Statement (.csrw f) :=
  roundTrip_of (.csrw f) (.csrw f) .csrw .csrw (encSy 0x90 1 f) rfl rfl (by intro _ _; unfold decodeRaw; rw [opOf_encSy, fnOf_encSy]; rfl) (by exact formatOk_other _ (by rw [opOf_encSy]; decide)) rfl (by exact congrArg Instr.csrw (syOf_encSy _ _ _))
theorem RoundTrip.csrs (f : SyF) : RoundTrip.Statement (.csrs f) :=
  roundTrip_of (.csrs f) (.csrs f) .csrs .csrs (encSy 0x90 2 f) rfl rfl (by intro _ _; unfold decodeRaw; rw [opOf_encSy, fnOf_encSy]; rfl) (by exact formatOk_other _ (by rw [opOf_encSy]; decide)) rfl (by exact congrArg Instr.csrs (syOf_encSy _ _ _))
theorem RoundTrip.csrc (f : SyF) : RoundTrip.Statement (.csrc f) :=
  roundTrip_of (.csrc f) (.csrc f) .csrc .csrc (encSy 0x90 3 f) rfl rfl (by intro _ _; unfold decodeRaw; rw [opOf_encSy, fnOf_encSy]; rfl) (by exact formatOk_other _ (by rw [opOf_encSy]; decide)) rfl (by exact congrArg Instr.csrc (syOf_encSy _ _ _))
theorem RoundTrip.trap (f : SyF) : RoundTrip.Statement (.trap f) :=
  roundTrip_of (.trap f) (.trap f) .trap .trap (encSy 0x91 0 f) rfl rfl (by intro _ _; unfold decodeRaw; rw [opOf_encSy, fnOf_encSy]; rfl) (by exact formatOk_other _ (by rw [opOf_encSy]; decide)) rfl (by exact congrArg Instr.trap (syOf_encSy _ _ _))
theorem RoundTrip.rft (f : SyF) : RoundTrip.Statement (.rft f) :=
  roundTrip_of (.rft f) (.rft f) .rft .rft (encSy 0x91 1 f) rfl rfl (by intro _ _; unfold decodeRaw; rw [opOf_encSy, fnOf_encSy]; rfl) (by exact formatOk_other _ (by rw [opOf_encSy]; decide)) rfl (by exact congrArg Instr.rft (syOf_encSy _ _ _))
theorem RoundTrip.isync (f : SyF) : RoundTrip.Statement (.isync f) :=
  roundTrip_of (.isync f) (.isync f) .isync .isync (encSy 0x91 2 f) rfl rfl (by intro _ _; unfold decodeRaw; rw [opOf_encSy, fnOf_encSy]; rfl) (by exact formatOk_other _ (by rw [opOf_encSy]; decide)) rfl (by exact congrArg Instr.isync (syOf_encSy _ _ _))
theorem RoundTrip.halt (f : SyF) : RoundTrip.Statement (.halt f) :=
  roundTrip_of (.halt f) (.halt f) .halt .halt (encSy 0x91 3 f) rfl rfl (by intro _ _; unfold decodeRaw; rw [opOf_encSy, fnOf_encSy]; rfl) (by exact formatOk_other _ (by rw [opOf_encSy]; decide)) rfl (by exact congrArg Instr.halt (syOf_encSy _ _ _))
theorem RoundTrip.brk (f : SyF) : RoundTrip.Statement (.brk f) :=
  roundTrip_of (.brk f) (.brk f) .brk .brk (encSy 0x91 4 f) rfl rfl (by intro _ _; unfold decodeRaw; rw [opOf_encSy, fnOf_encSy]; rfl) (by exact formatOk_other _ (by rw [opOf_encSy]; decide)) rfl (by exact congrArg Instr.brk (syOf_encSy _ _ _))
theorem RoundTrip.tlbinvPage (f : SyF) : RoundTrip.Statement (.tlbinvPage f) :=
  roundTrip_of (.tlbinvPage f) (.tlbinvPage f) .tlbinvPage .tlbinvPage (encSy 0x91 5 f) rfl rfl (by intro _ h; have h := eq_of_beq h; rw [syOf_encSy] at h; unfold decodeRaw; rw [opOf_encSy, fnOf_encSy]; show dec91 _ _ = _; simp [dec91, syOf_encSy, h]) (by exact formatOk_other _ (by rw [opOf_encSy]; decide)) rfl (by exact congrArg Instr.tlbinvPage (syOf_encSy _ _ _))
theorem RoundTrip.tlbinvAll (f : SyF) : RoundTrip.Statement (.tlbinvAll f) :=
  roundTrip_of (.tlbinvAll f) (.tlbinvAll f) .tlbinvAll .tlbinvAll (encSy 0x91 5 f) rfl rfl (by intro _ h; have h := eq_of_beq h; rw [syOf_encSy] at h; unfold decodeRaw; rw [opOf_encSy, fnOf_encSy]; show dec91 _ _ = _; simp [dec91, syOf_encSy, h]) (by exact formatOk_other _ (by rw [opOf_encSy]; decide)) rfl (by exact congrArg Instr.tlbinvAll (syOf_encSy _ _ _))
theorem RoundTrip.vsave (f : SyF) : RoundTrip.Statement (.vsave f) :=
  roundTrip_of (.vsave f) (.vsave f) .vsave .vsave (encSy 0x92 0 f) rfl rfl (by intro _ _; unfold decodeRaw; rw [opOf_encSy, fnOf_encSy]; rfl) (by exact formatOk_other _ (by rw [opOf_encSy]; decide)) rfl (by exact congrArg Instr.vsave (syOf_encSy _ _ _))
theorem RoundTrip.vrest (f : SyF) : RoundTrip.Statement (.vrest f) :=
  roundTrip_of (.vrest f) (.vrest f) .vrest .vrest (encSy 0x92 1 f) rfl rfl (by intro _ _; unfold decodeRaw; rw [opOf_encSy, fnOf_encSy]; rfl) (by exact formatOk_other _ (by rw [opOf_encSy]; decide)) rfl (by exact congrArg Instr.vrest (syOf_encSy _ _ _))
theorem RoundTrip.launch (f : RrF) : RoundTrip.Statement (.launch f) :=
  roundTrip_of (.launch f) (.launch f) .launch .launch (encRr 0x93 0 f) rfl rfl (by intro _ _; unfold decodeRaw; rw [opOf_encRr, fnOf_encRr]; rfl) (by exact formatOk_rr _ (by rw [opOf_encRr]; decide) (low_encRr _ _ _)) rfl (by exact congrArg Instr.launch (rrOf_encRr _ _ _))
theorem RoundTrip.yield (f : RrF) : RoundTrip.Statement (.yield f) :=
  roundTrip_of (.yield f) (.yield f) .yield .yield (encRr 0x93 1 f) rfl rfl (by intro _ _; unfold decodeRaw; rw [opOf_encRr, fnOf_encRr]; rfl) (by exact formatOk_rr _ (by rw [opOf_encRr]; decide) (low_encRr _ _ _)) rfl (by exact congrArg Instr.yield (rrOf_encRr _ _ _))
theorem RoundTrip.exit (f : RrF) : RoundTrip.Statement (.exit f) :=
  roundTrip_of (.exit f) (.exit f) .exit .exit (encRr 0x93 2 f) rfl rfl (by intro _ _; unfold decodeRaw; rw [opOf_encRr, fnOf_encRr]; rfl) (by exact formatOk_rr _ (by rw [opOf_encRr]; decide) (low_encRr _ _ _)) rfl (by exact congrArg Instr.exit (rrOf_encRr _ _ _))
theorem RoundTrip.chputOpen (f : RrF) : RoundTrip.Statement (.chputOpen f) :=
  roundTrip_of (.chputOpen f) (.chputOpen f) .chputOpen .chputOpen (encRr 0x94 0 f) rfl rfl (by intro _ _; unfold decodeRaw; rw [opOf_encRr, fnOf_encRr]; rfl) (by exact formatOk_rr _ (by rw [opOf_encRr]; decide) (low_encRr _ _ _)) rfl (by exact congrArg Instr.chputOpen (rrOf_encRr _ _ _))
theorem RoundTrip.chputClose (f : RrF) : RoundTrip.Statement (.chputClose f) :=
  roundTrip_of (.chputClose f) (.chputOpen f) .chputClose .chputOpen (encRr 0x94 0 f) rfl rfl (by intro _ _; unfold decodeRaw; rw [opOf_encRr, fnOf_encRr]; rfl) (by exact formatOk_rr _ (by rw [opOf_encRr]; decide) (low_encRr _ _ _)) rfl (by exact congrArg Instr.chputOpen (rrOf_encRr _ _ _))
theorem RoundTrip.chgetOpen (f : RrF) : RoundTrip.Statement (.chgetOpen f) :=
  roundTrip_of (.chgetOpen f) (.chgetOpen f) .chgetOpen .chgetOpen (encRr 0x94 1 f) rfl rfl (by intro _ _; unfold decodeRaw; rw [opOf_encRr, fnOf_encRr]; rfl) (by exact formatOk_rr _ (by rw [opOf_encRr]; decide) (low_encRr _ _ _)) rfl (by exact congrArg Instr.chgetOpen (rrOf_encRr _ _ _))
theorem RoundTrip.chgetClose (f : RrF) : RoundTrip.Statement (.chgetClose f) :=
  roundTrip_of (.chgetClose f) (.chgetOpen f) .chgetClose .chgetOpen (encRr 0x94 1 f) rfl rfl (by intro _ _; unfold decodeRaw; rw [opOf_encRr, fnOf_encRr]; rfl) (by exact formatOk_rr _ (by rw [opOf_encRr]; decide) (low_encRr _ _ _)) rfl (by exact congrArg Instr.chgetOpen (rrOf_encRr _ _ _))
theorem RoundTrip.wmbind (f : RrF) : RoundTrip.Statement (.wmbind f) :=
  roundTrip_of (.wmbind f) (.wmbind f) .wmbind .wmbind (encRr 0x95 0 f) rfl rfl (by intro _ _; unfold decodeRaw; rw [opOf_encRr, fnOf_encRr]; rfl) (by exact formatOk_rr _ (by rw [opOf_encRr]; decide) (low_encRr _ _ _)) rfl (by exact congrArg Instr.wmbind (rrOf_encRr _ _ _))
theorem RoundTrip.wmpub (f : RrF) : RoundTrip.Statement (.wmpub f) :=
  roundTrip_of (.wmpub f) (.wmpub f) .wmpub .wmpub (encRr 0x95 1 f) rfl rfl (by intro _ _; unfold decodeRaw; rw [opOf_encRr, fnOf_encRr]; rfl) (by exact formatOk_rr _ (by rw [opOf_encRr]; decide) (low_encRr _ _ _)) rfl (by exact congrArg Instr.wmpub (rrOf_encRr _ _ _))
theorem RoundTrip.watermarkWaitWake (n : Nat) : RoundTrip.Statement (.watermarkWaitWake n) := roundTrip_event _ _ rfl
theorem RoundTrip.setvl (f : VvF) : RoundTrip.Statement (.setvl f) :=
  roundTrip_of (.setvl f) (.setvl f) .setvl .setvl (encVv 0x9F 0 f) rfl rfl (by intro _ _; unfold decodeRaw; rw [opOf_encVv, fnOf_encVv]; rfl) (by exact formatOk_other _ (by rw [opOf_encVv]; decide)) rfl (by exact congrArg Instr.setvl (vvOf_encVv _ _ _))
theorem RoundTrip.vcfg (f : VvF) : RoundTrip.Statement (.vcfg f) :=
  roundTrip_of (.vcfg f) (.vcfg f) .vcfg .vcfg (encVv 0x9F 1 f) rfl rfl (by intro _ _; unfold decodeRaw; rw [opOf_encVv, fnOf_encVv]; rfl) (by exact formatOk_other _ (by rw [opOf_encVv]; decide)) rfl (by exact congrArg Instr.vcfg (vvOf_encVv _ _ _))
theorem RoundTrip.breakpointMatch (n : Nat) : RoundTrip.Statement (.breakpointMatch n) := roundTrip_event _ _ rfl
theorem RoundTrip.checkLaneMismatch (n : Nat) : RoundTrip.Statement (.checkLaneMismatch n) := roundTrip_event _ _ rfl
theorem RoundTrip.contextEnd (mcheck : Bool) : RoundTrip.Statement (.contextEnd mcheck) := roundTrip_event _ _ rfl
theorem RoundTrip.vfirst : RoundTrip.Statement .vfirst := roundTrip_event _ _ rfl
theorem RoundTrip.preempt (q : Nat) : RoundTrip.Statement (.preempt q) := roundTrip_event _ _ rfl
theorem RoundTrip.preemptGraceExpiry (q : Nat) : RoundTrip.Statement (.preemptGraceExpiry q) := roundTrip_event _ _ rfl
theorem RoundTrip.switchIn (n q : Nat) : RoundTrip.Statement (.switchIn n q) := roundTrip_event _ _ rfl
theorem RoundTrip.instanceStart (serial stage q : Nat) : RoundTrip.Statement (.instanceStart serial stage q) := roundTrip_event _ _ rfl
theorem RoundTrip.launchEnd (serial : Nat) : RoundTrip.Statement (.launchEnd serial) := roundTrip_event _ _ rfl
theorem RoundTrip.launchAging (serial : Nat) : RoundTrip.Statement (.launchAging serial) := roundTrip_event _ _ rfl
theorem RoundTrip.quantumExpiry (q : Nat) : RoundTrip.Statement (.quantumExpiry q) := roundTrip_event _ _ rfl
theorem RoundTrip.laneRepartition (core : Nat) : RoundTrip.Statement (.laneRepartition core) := roundTrip_event _ _ rfl
theorem RoundTrip.laneGrant (q : Nat) : RoundTrip.Statement (.laneGrant q) := roundTrip_event _ _ rfl
theorem RoundTrip.repartitionTimeout (q : Nat) : RoundTrip.Statement (.repartitionTimeout q) := roundTrip_event _ _ rfl
theorem RoundTrip.pcapAdjust (core : Nat) (up : Bool) : RoundTrip.Statement (.pcapAdjust core up) := roundTrip_event _ _ rfl
theorem RoundTrip.taskWaitEntry (h : Word) : RoundTrip.Statement (.taskWaitEntry h) := roundTrip_event _ _ rfl
theorem RoundTrip.taskIssue (cluster : Nat) : RoundTrip.Statement (.taskIssue cluster) := roundTrip_event _ _ rfl
theorem RoundTrip.taskAging (h : Word) : RoundTrip.Statement (.taskAging h) := roundTrip_event _ _ rfl
theorem RoundTrip.taskResume (cluster : Nat) : RoundTrip.Statement (.taskResume cluster) := roundTrip_event _ _ rfl
theorem RoundTrip.taskDone (h : Word) : RoundTrip.Statement (.taskDone h) := roundTrip_event _ _ rfl
theorem RoundTrip.lda (h : Word) : RoundTrip.Statement (.lda h) := roundTrip_event _ _ rfl
theorem RoundTrip.ldb (h : Word) : RoundTrip.Statement (.ldb h) := roundTrip_event _ _ rfl
theorem RoundTrip.mma (h : Word) : RoundTrip.Statement (.mma h) := roundTrip_event _ _ rfl
theorem RoundTrip.sacc (h : Word) : RoundTrip.Statement (.sacc h) := roundTrip_event _ _ rfl
theorem RoundTrip.acvt (h : Word) : RoundTrip.Statement (.acvt h) := roundTrip_event _ _ rfl
theorem RoundTrip.zero (h : Word) : RoundTrip.Statement (.zero h) := roundTrip_event _ _ rfl
theorem RoundTrip.spmask (h : Word) : RoundTrip.Statement (.spmask h) := roundTrip_event _ _ rfl
theorem RoundTrip.trn (h : Word) : RoundTrip.Statement (.trn h) := roundTrip_event _ _ rfl
theorem RoundTrip.copy (id : Nat) : RoundTrip.Statement (.copy id) := roundTrip_event _ _ rfl
theorem RoundTrip.fill (id : Nat) : RoundTrip.Statement (.fill id) := roundTrip_event _ _ rfl
theorem RoundTrip.cvt (id : Nat) : RoundTrip.Statement (.cvt id) := roundTrip_event _ _ rfl
theorem RoundTrip.decode (id : Nat) : RoundTrip.Statement (.decode id) := roundTrip_event _ _ rfl
theorem RoundTrip.encode (id : Nat) : RoundTrip.Statement (.encode id) := roundTrip_event _ _ rfl
theorem RoundTrip.xformUnpack (id : Nat) : RoundTrip.Statement (.xformUnpack id) := roundTrip_event _ _ rfl
theorem RoundTrip.xformRun (id : Nat) : RoundTrip.Statement (.xformRun id) := roundTrip_event _ _ rfl
theorem RoundTrip.storrd (id : Nat) : RoundTrip.Statement (.storrd id) := roundTrip_event _ _ rfl
theorem RoundTrip.nvmeCompletion (id : Nat) : RoundTrip.Statement (.nvmeCompletion id) := roundTrip_event _ _ rfl
theorem RoundTrip.storrdTimeout (id : Nat) : RoundTrip.Statement (.storrdTimeout id) := roundTrip_event _ _ rfl
theorem RoundTrip.commandComplete (id : Nat) : RoundTrip.Statement (.commandComplete id) := roundTrip_event _ _ rfl
theorem RoundTrip.migrationStart (ctx va : Nat) : RoundTrip.Statement (.migrationStart ctx va) := roundTrip_event _ _ rfl
theorem RoundTrip.migrationPublish (n : Nat) : RoundTrip.Statement (.migrationPublish n) := roundTrip_event _ _ rfl
theorem RoundTrip.lineWriteback (line : Nat) : RoundTrip.Statement (.lineWriteback line) := roundTrip_event _ _ rfl
theorem RoundTrip.scrubRead (line : Nat) : RoundTrip.Statement (.scrubRead line) := roundTrip_event _ _ rfl
theorem RoundTrip.meshLinkRetry (die link attempts : Nat) : RoundTrip.Statement (.meshLinkRetry die link attempts) := roundTrip_event _ _ rfl
theorem RoundTrip.errinjDramCell (v : Word) : RoundTrip.Statement (.errinjDramCell v) := roundTrip_event _ _ rfl
theorem RoundTrip.errinjBusOnce (v : Word) : RoundTrip.Statement (.errinjBusOnce v) := roundTrip_event _ _ rfl
theorem RoundTrip.errinjBusStuck (v : Word) : RoundTrip.Statement (.errinjBusStuck v) := roundTrip_event _ _ rfl
theorem RoundTrip.errbankStatRead (die bank : Nat) : RoundTrip.Statement (.errbankStatRead die bank) := roundTrip_event _ _ rfl
theorem RoundTrip.errbankClear (die bank : Nat) : RoundTrip.Statement (.errbankClear die bank) := roundTrip_event _ _ rfl
theorem RoundTrip.wmarkRead : RoundTrip.Statement .wmarkRead := roundTrip_event _ _ rfl
theorem RoundTrip.registerWrite (t : RegTarget) (v : Word) : RoundTrip.Statement (.registerWrite t v) := roundTrip_event _ _ rfl
theorem RoundTrip.flitReceive (port : Nat) (flit : List Byte) : RoundTrip.Statement (.flitReceive port flit) := roundTrip_event _ _ rfl
theorem RoundTrip.linkDown (port : Nat) : RoundTrip.Statement (.linkDown port) := roundTrip_event _ _ rfl
theorem RoundTrip.rd (port : Nat) : RoundTrip.Statement (.rd port) := roundTrip_event _ _ rfl
theorem RoundTrip.wr (port : Nat) : RoundTrip.Statement (.wr port) := roundTrip_event _ _ rfl
theorem RoundTrip.atomicRemote (port : Nat) : RoundTrip.Statement (.atomicRemote port) := roundTrip_event _ _ rfl
theorem RoundTrip.sa (port : Nat) : RoundTrip.Statement (.sa port) := roundTrip_event _ _ rfl
theorem RoundTrip.sadd (port : Nat) : RoundTrip.Statement (.sadd port) := roundTrip_event _ _ rfl
theorem RoundTrip.rsp (port : Nat) : RoundTrip.Statement (.rsp port) := roundTrip_event _ _ rfl
theorem RoundTrip.ack (port : Nat) : RoundTrip.Statement (.ack port) := roundTrip_event _ _ rfl
theorem RoundTrip.wdr (port : Nat) : RoundTrip.Statement (.wdr port) := roundTrip_event _ _ rfl
theorem RoundTrip.routeMove (dst cls : Nat) : RoundTrip.Statement (.routeMove dst cls) := roundTrip_event _ _ rfl
theorem RoundTrip.hostMemRequest (r : HostReq) : RoundTrip.Statement (.hostMemRequest r) := roundTrip_event _ _ rfl
theorem RoundTrip.peerApertureWrite (id : Nat) (off : Nat) (data : List Byte) : RoundTrip.Statement (.peerApertureWrite id off data) := roundTrip_event _ _ rfl
theorem RoundTrip.createReq (fn : Nat) : RoundTrip.Statement (.createReq fn) := roundTrip_event _ _ rfl
theorem RoundTrip.settvl (fn : Nat) : RoundTrip.Statement (.settvl fn) := roundTrip_event _ _ rfl
theorem RoundTrip.suspend (fn : Nat) : RoundTrip.Statement (.suspend fn) := roundTrip_event _ _ rfl
theorem RoundTrip.resume (fn : Nat) : RoundTrip.Statement (.resume fn) := roundTrip_event _ _ rfl
theorem RoundTrip.setbp (fn : Nat) : RoundTrip.Statement (.setbp fn) := roundTrip_event _ _ rfl
theorem RoundTrip.teardown (fn : Nat) : RoundTrip.Statement (.teardown fn) := roundTrip_event _ _ rfl
theorem RoundTrip.attest (fn : Nat) : RoundTrip.Statement (.attest fn) := roundTrip_event _ _ rfl
theorem RoundTrip.winmap (fn : Nat) : RoundTrip.Statement (.winmap fn) := roundTrip_event _ _ rfl
theorem RoundTrip.exportReq (fn : Nat) : RoundTrip.Statement (.exportReq fn) := roundTrip_event _ _ rfl
theorem RoundTrip.pwrset (fn : Nat) : RoundTrip.Statement (.pwrset fn) := roundTrip_event _ _ rfl
theorem RoundTrip.pwrget (fn : Nat) : RoundTrip.Statement (.pwrget fn) := roundTrip_event _ _ rfl
theorem RoundTrip.qctlWrite (fn q : Nat) (v : Word) : RoundTrip.Statement (.qctlWrite fn q v) := roundTrip_event _ _ rfl
theorem RoundTrip.hostqTailWrite (fn q : Nat) (v : Word) : RoundTrip.Statement (.hostqTailWrite fn q v) := roundTrip_event _ _ rfl
theorem RoundTrip.hostqEntry (fn q : Nat) : RoundTrip.Statement (.hostqEntry fn q) := roundTrip_event _ _ rfl
theorem RoundTrip.hostqSwitchOut (fn q : Nat) : RoundTrip.Statement (.hostqSwitchOut fn q) := roundTrip_event _ _ rfl
theorem RoundTrip.hostqSwitchIn (fn q : Nat) : RoundTrip.Statement (.hostqSwitchIn fn q) := roundTrip_event _ _ rfl
theorem RoundTrip.thermWrite (v : Word) : RoundTrip.Statement (.thermWrite v) := roundTrip_event _ _ rfl
theorem RoundTrip.thermalThrottle (die temp : Nat) : RoundTrip.Statement (.thermalThrottle die temp) := roundTrip_event _ _ rfl
theorem RoundTrip.thermalTrip (die : Nat) : RoundTrip.Statement (.thermalTrip die) := roundTrip_event _ _ rfl
theorem RoundTrip.evtRead : RoundTrip.Statement .evtRead := roundTrip_event _ _ rfl
theorem RoundTrip.deviceNumberWrite (v : Word) : RoundTrip.Statement (.deviceNumberWrite v) := roundTrip_event _ _ rfl
theorem RoundTrip.mgmtBlockWrite (ix : Nat) (v : Word) : RoundTrip.Statement (.mgmtBlockWrite ix v) := roundTrip_event _ _ rfl
theorem RoundTrip.mgmtBlockRead (ix : Nat) : RoundTrip.Statement (.mgmtBlockRead ix) := roundTrip_event _ _ rfl
theorem RoundTrip.coldReset : RoundTrip.Statement .coldReset := roundTrip_event _ _ rfl
theorem RoundTrip.functionLevelReset (fn : Nat) : RoundTrip.Statement (.functionLevelReset fn) := roundTrip_event _ _ rfl
theorem RoundTrip.lifeCycleChange (token : LifeToken) : RoundTrip.Statement (.lifeCycleChange token) := roundTrip_event _ _ rfl
theorem RoundTrip.serviceFirmwareFault : RoundTrip.Statement .serviceFirmwareFault := roundTrip_event _ _ rfl
theorem RoundTrip.nonInstructionWord (w : Word) : RoundTrip.Statement (.nonInstructionWord w) := roundTrip_event _ _ rfl
theorem RoundTrip.fetchFault : RoundTrip.Statement .fetchFault := roundTrip_event _ _ rfl
theorem RoundTrip.linkRetrain (port : Nat) : RoundTrip.Statement (.linkRetrain port) := roundTrip_event _ _ rfl
theorem RoundTrip.destinationMarkClear (dev : Nat) : RoundTrip.Statement (.destinationMarkClear dev) := roundTrip_event _ _ rfl
theorem RoundTrip.frameReassign (frame tenant : Nat) : RoundTrip.Statement (.frameReassign frame tenant) := roundTrip_event _ _ rfl

end Laws
end Sys2Proof
end

