-- ==== Sys2Proof/Laws/Tables.lean ====
section
/-! SUPPORT. Sparse tables and memory: a read after a write, and that every update keeps the canonical form. -/
set_option Elab.async false
namespace Sys2Proof.Machine

variable {α : Type} [DecidableEq α]

/-- Every number of the table is above k. -/
def Table.Above (k : Nat) (t : Table α) : Prop := ∀ p ∈ t, k < p.1

/-- The canonical form, of a table with a head. -/
theorem Table.wf_cons (d : α) (j : Nat) (v : α) (t : Table α) :
    Table.wf d ((j, v) :: t) = true ↔ v ≠ d ∧ Table.Above j t ∧ Table.wf d t = true := by
  induction t generalizing j v with
  | nil => simp [Table.wf, Table.Above]
  | cons p t ih =>
    obtain ⟨k, u⟩ := p
    simp only [Table.wf, Bool.and_eq_true, decide_eq_true_eq, ih]
    constructor
    · rintro ⟨⟨hv, hjk⟩, hu, ha, hw⟩
      refine ⟨hv, ?_, hu, ha, hw⟩
      intro q hq
      rcases List.mem_cons.1 hq with rfl | hq
      · exact hjk
      · exact Nat.lt_trans hjk (ha q hq)
    · rintro ⟨hv, ha, hu, hb, hw⟩
      exact ⟨⟨hv, ha _ (List.mem_cons_self ..)⟩, hu, hb, hw⟩

/-- The numbers of an updated table are those of the table and the one written. -/
theorem Table.above_put (d : α) (j k : Nat) (v : α) (t : Table α) (h : Table.Above j t) (hk : j < k) :
    Table.Above j (Table.put d k v t) := by
  induction t with
  | nil => unfold Table.put; split <;> simp [Table.Above, hk]
  | cons p t ih =>
    obtain ⟨i, u⟩ := p
    have hi : j < i := h (i, u) (List.mem_cons_self ..)
    have ht : Table.Above j t := fun q hq => h q (List.mem_cons_of_mem _ hq)
    unfold Table.put
    split
    · split
      · exact h
      · intro q hq; rcases List.mem_cons.1 hq with rfl | hq
        · exact hk
        · exact h q hq
    · split
      · split
        · exact ht
        · intro q hq; rcases List.mem_cons.1 hq with rfl | hq
          · exact hk
          · exact ht q hq
      · intro q hq; rcases List.mem_cons.1 hq with rfl | hq
        · exact hi
        · exact ih ht q hq

/-- An update keeps the canonical form. -/
theorem Table.wf_put (d : α) (k : Nat) (v : α) (t : Table α) (h : Table.wf d t = true) :
    Table.wf d (Table.put d k v t) = true := by
  induction t with
  | nil => unfold Table.put; split <;> simp_all [Table.wf]
  | cons p t ih =>
    obtain ⟨i, u⟩ := p
    have h' := (Table.wf_cons d i u t).1 h
    unfold Table.put
    split
    · rename_i hk
      split
      · exact h
      · rename_i hv
        refine (Table.wf_cons d k v _).2 ⟨hv, ?_, h⟩
        intro q hq; rcases List.mem_cons.1 hq with rfl | hq
        · exact hk
        · exact Nat.lt_trans hk (h'.2.1 q hq)
    · rename_i hk
      split
      · rename_i hki
        split
        · exact h'.2.2
        · rename_i hv; exact (Table.wf_cons d k v t).2 ⟨hv, hki ▸ h'.2.1, h'.2.2⟩
      · rename_i hki
        exact (Table.wf_cons d i u _).2 ⟨h'.1, Table.above_put d i k v t h'.2.1 (by omega), ih h'.2.2⟩

omit [DecidableEq α] in
/-- A number below every number of the table holds the default. -/
theorem Table.get_above (d : α) (k : Nat) (t : Table α) (h : Table.Above k t) : Table.get d k t = d := by
  induction t with
  | nil => rfl
  | cons p t ih =>
    obtain ⟨i, u⟩ := p
    have hi : k < i := h (i, u) (List.mem_cons_self ..)
    simp only [Table.get, if_neg (show ¬ i = k by omega)]
    exact ih fun q hq => h q (List.mem_cons_of_mem _ hq)

/-- A read of the number just written. -/
theorem Table.get_put_same (d : α) (k : Nat) (v : α) (t : Table α) (h : Table.wf d t = true) :
    Table.get d k (Table.put d k v t) = v := by
  induction t with
  | nil => unfold Table.put; split <;> simp_all [Table.get]
  | cons p t ih =>
    obtain ⟨i, u⟩ := p
    have h' := (Table.wf_cons d i u t).1 h
    unfold Table.put
    split
    · rename_i hk
      split
      · rename_i hv
        rw [hv]
        apply Table.get_above
        intro q hq; rcases List.mem_cons.1 hq with rfl | hq
        · exact hk
        · exact Nat.lt_trans hk (h'.2.1 q hq)
      · simp [Table.get]
    · split
      · rename_i hki
        split
        · rename_i hv; rw [hv]; exact Table.get_above d k t (hki ▸ h'.2.1)
        · simp [Table.get]
      · rename_i hki
        simp only [Table.get, if_neg (show ¬ i = k by omega)]
        exact ih h'.2.2

/-- A read of any other number, of any table. -/
theorem Table.get_put_other (d : α) (k j : Nat) (v : α) (t : Table α) (h : j ≠ k) :
    Table.get d j (Table.put d k v t) = Table.get d j t := by
  induction t with
  | nil => unfold Table.put; split <;> simp [Table.get, Ne.symm h]
  | cons p t ih =>
    obtain ⟨i, u⟩ := p
    unfold Table.put
    split
    · split
      · rfl
      · simp [Table.get, Ne.symm h]
    · split
      · rename_i hki
        subst hki
        split <;> simp [Table.get, Ne.symm h]
      · simp only [Table.get, ih]

/-! ## Memory -/

/-- A written byte is read. -/
theorem Memory.read_write_same (m : List Host.Cell) (a : Nat) (b : Byte) (h : Memory.wf m = true) :
    Memory.read (Memory.write m a b) a = b := Table.get_put_same _ _ _ _ h

/-- Every other byte stands. -/
theorem Memory.read_write_other (m : List Host.Cell) (a c : Nat) (b : Byte) (h : c ≠ a) :
    Memory.read (Memory.write m a b) c = Memory.read m c := Table.get_put_other _ _ _ _ _ h

/-- A write keeps the canonical form. -/
theorem Memory.wf_write (m : List Host.Cell) (a : Nat) (b : Byte) (h : Memory.wf m = true) :
    Memory.wf (Memory.write m a b) = true := Table.wf_put _ _ _ _ h

/-- A write of some bytes keeps the canonical form. -/
theorem Memory.wf_writeBytes (bs : List Byte) : ∀ (m : List Host.Cell) (a : Nat), Memory.wf m = true →
    Memory.wf (Memory.writeBytes m a bs) = true := by
  induction bs with
  | nil => intro m a h; exact h
  | cons b t ih => intro m a h; exact ih _ _ (Memory.wf_write m a b h)

/-- Bytes outside a write stand. -/
theorem Memory.read_writeBytes_outside (bs : List Byte) : ∀ (m : List Host.Cell) (a c : Nat),
    (c < a ∨ a + bs.length ≤ c) → Memory.read (Memory.writeBytes m a bs) c = Memory.read m c := by
  induction bs with
  | nil => intro m a c _; rfl
  | cons b t ih =>
    intro m a c h
    simp only [List.length_cons] at h
    simp only [Memory.writeBytes]
    rw [ih _ _ _ (by omega), Memory.read_write_other _ _ _ _ (by omega)]

/-- Byte i of a write is read. -/
theorem Memory.read_writeBytes_inside (bs : List Byte) : ∀ (m : List Host.Cell) (a i : Nat) (h : i < bs.length),
    Memory.wf m = true → Memory.read (Memory.writeBytes m a bs) (a + i) = bs[i] := by
  induction bs with
  | nil => intro m a i h; simp at h
  | cons b t ih =>
    intro m a i h hw
    simp only [Memory.writeBytes]
    cases i with
    | zero =>
      rw [Memory.read_writeBytes_outside _ _ _ _ (by omega)]
      exact Memory.read_write_same m a b hw
    | succ i =>
      have h2 : i < t.length := by simpa using h
      have := ih (Memory.write m a b) (a + 1) i h2 (Memory.wf_write m a b hw)
      rw [show a + (i + 1) = a + 1 + i by omega, this]
      rfl

/-- A read of a run has its length. -/
@[simp] theorem Memory.readBytes_length (m : List Host.Cell) (n : Nat) : ∀ a, (Memory.readBytes m a n).length = n := by
  induction n with
  | zero => intro a; rfl
  | succ n ih => intro a; simp [Memory.readBytes, ih]

/-- The bytes just written are read back. -/
theorem Memory.readBytes_writeBytes (bs : List Byte) : ∀ (m : List Host.Cell) (a : Nat), Memory.wf m = true →
    Memory.readBytes (Memory.writeBytes m a bs) a bs.length = bs := by
  intro m a hw
  rw [readBytes_eq_map]
  apply List.ext_getElem
  · simp
  · intro i h1 h2
    simp only [List.getElem_map, List.getElem_range', Nat.one_mul]
    exact Memory.read_writeBytes_inside bs m a i h2 hw

/-- A run that a write does not meet is read as before. -/
theorem Memory.readBytes_writeBytes_apart (m : List Host.Cell) (a c n : Nat) (bs : List Byte)
    (h : c + n ≤ a ∨ a + bs.length ≤ c) :
    Memory.readBytes (Memory.writeBytes m a bs) c n = Memory.readBytes m c n := by
  rw [readBytes_eq_map, readBytes_eq_map]
  apply List.map_congr_left
  intro k hk
  rw [List.mem_range'_1] at hk
  exact Memory.read_writeBytes_outside bs m a k (by omega)

/-! ## Bytes and numbers -/

/-- The number of bytes asked for. -/
@[simp] theorem toBytes_length (n : Nat) : ∀ x, (toBytes x n).length = n := by
  induction n with
  | zero => intro x; rfl
  | succ n ih => intro x; simp [toBytes, ih]

/-- Little-endian bytes of a number give it back, cut to their width (R8). -/
theorem ofBytes_toBytes (n : Nat) : ∀ x, ofBytes (toBytes x n) = x % 2 ^ (8 * n) := by
  induction n with
  | zero => intro x; simp [toBytes, ofBytes, Nat.mod_one]
  | succ n ih =>
    intro x
    simp only [toBytes, ofBytes, ih, BitVec.toNat_ofNat]
    rw [show 8 * (n + 1) = 8 + 8 * n by omega, Nat.pow_add, Nat.mod_mul]

/-- The number of some bytes lies below their width. -/
theorem ofBytes_lt (bs : List Byte) : ofBytes bs < 2 ^ (8 * bs.length) := by
  induction bs with
  | nil => simp [ofBytes]
  | cons b t ih =>
    simp only [ofBytes, List.length_cons]
    have hb := b.isLt
    rw [show 8 * (t.length + 1) = 8 + 8 * t.length by omega, Nat.pow_add]
    omega

/-! ## The state's memory -/

/-- The canonical form stands after a write of bytes. -/
theorem State.wf_writePhys (s : State) (pa : Nat) (bs : List Byte) (h : Memory.wf s.mem = true) :
    Memory.wf (s.writePhys pa bs).mem = true := Memory.wf_writeBytes bs s.mem pa h

/-- A word just written is read. -/
theorem State.readWord_writeWord (s : State) (pa : Nat) (w : Word) (h : Memory.wf s.mem = true) :
    (s.writeWord pa w).readWord pa = w := by
  have := Memory.readBytes_writeBytes (toBytes w.toNat 8) s.mem pa h
  simp only [toBytes_length] at this
  simp only [State.readWord, State.readPhys, State.writeWord, State.writePhys, this, ofBytes_toBytes]
  apply BitVec.eq_of_toNat_eq
  have := w.isLt
  simp; omega

/-- A word apart from a write is read as before. -/
theorem State.readWord_writePhys_apart (s : State) (pa c : Nat) (bs : List Byte)
    (h : c + 8 ≤ pa ∨ pa + bs.length ≤ c) : (s.writePhys pa bs).readWord c = s.readWord c := by
  simp only [State.readWord, State.readPhys, State.writePhys, Memory.readBytes_writeBytes_apart _ _ _ _ _ h]

end Sys2Proof.Machine
end

