-- ==== Sys2Proof/Laws/Perform.lean ====
section
/-! SUPPORT. What the accesses of one instruction do when nothing stands between them and memory. -/
set_option Elab.async false
namespace Sys2Proof.Machine

/-! ## Marks -/

/-- A mark leaves the state, or writes the entry (13 R275). -/
theorem State.markEntry_cases (s : State) (e : Nat) (b : Bool) :
    s.markEntry e b = s ∨ ∃ w, s.markEntry e b = s.writeWord e w := by
  unfold State.markEntry
  simp only
  split <;> split
  all_goals first | exact .inl rfl | exact .inr ⟨_, rfl⟩

/-- A mark changes memory alone. -/
theorem State.markEntry_same (s : State) (e : Nat) (b : Bool) : s.markEntry e b = { s with mem := (s.markEntry e b).mem } := by
  obtain h | ⟨w, h⟩ := s.markEntry_cases e b <;> rw [h] <;> rfl

/-- A mark leaves the bytes outside its entry. -/
theorem State.markEntry_read (s : State) (e : Nat) (b : Bool) (a : Nat) (h : a < e ∨ e + 8 ≤ a) :
    Memory.read (s.markEntry e b).mem a = Memory.read s.mem a := by
  obtain h' | ⟨w, h'⟩ := s.markEntry_cases e b <;> rw [h']
  exact Memory.read_writeBytes_outside _ _ _ _ (by simpa using h)

/-- A mark keeps memory's canonical form. -/
theorem State.markEntry_wf (s : State) (e : Nat) (b : Bool) (h : Memory.wf s.mem = true) :
    Memory.wf (s.markEntry e b).mem = true := by
  obtain h' | ⟨w, h'⟩ := s.markEntry_cases e b <;> rw [h']
  · exact h
  · exact Memory.wf_writeBytes _ _ _ h

/-- Marks change memory alone. -/
theorem State.markParts_same (b : Bool) (ps : List Part) : ∀ s : State,
    s.markParts b ps = { s with mem := (s.markParts b ps).mem } := by
  induction ps with
  | nil => intro s; rfl
  | cons p t ih => intro s; simp only [State.markParts]; rw [ih, State.markEntry_same]

/-- Marks leave the bytes outside their entries. -/
theorem State.markParts_read (b : Bool) (ps : List Part) : ∀ (s : State) (a : Nat),
    (∀ p ∈ ps, a < p.entry ∨ p.entry + 8 ≤ a) → Memory.read (s.markParts b ps).mem a = Memory.read s.mem a := by
  induction ps with
  | nil => intro s a _; rfl
  | cons p t ih =>
    intro s a h
    simp only [State.markParts]
    rw [ih _ _ fun q hq => h q (List.mem_cons_of_mem _ hq), State.markEntry_read _ _ _ _ (h p (List.mem_cons_self ..))]

/-- Marks keep memory's canonical form. -/
theorem State.markParts_wf (b : Bool) (ps : List Part) : ∀ s : State, Memory.wf s.mem = true →
    Memory.wf (s.markParts b ps).mem = true := by
  induction ps with
  | nil => intro s h; exact h
  | cons p t ih => intro s h; exact ih _ (State.markEntry_wf _ _ _ h)

/-- The marks of an instruction's operations change memory alone. -/
theorem State.markOps_same (l : List (MemOp × List Part)) : ∀ s : State, s.markOps l = { s with mem := (s.markOps l).mem } := by
  induction l with
  | nil => intro s; rfl
  | cons x t ih => intro s; obtain ⟨o, ps⟩ := x; simp only [State.markOps]; rw [ih, State.markParts_same]

/-- They leave the bytes outside the entries. -/
theorem State.markOps_read (l : List (MemOp × List Part)) : ∀ (s : State) (a : Nat),
    (∀ x ∈ l, ∀ p ∈ x.2, a < p.entry ∨ p.entry + 8 ≤ a) → Memory.read (s.markOps l).mem a = Memory.read s.mem a := by
  induction l with
  | nil => intro s a _; rfl
  | cons x t ih =>
    intro s a h
    obtain ⟨o, ps⟩ := x
    simp only [State.markOps]
    rw [ih _ _ fun y hy => h y (List.mem_cons_of_mem _ hy), State.markParts_read _ _ _ _ (h (o, ps) (List.mem_cons_self ..))]

/-- They keep memory's canonical form. -/
theorem State.markOps_wf (l : List (MemOp × List Part)) : ∀ s : State, Memory.wf s.mem = true →
    Memory.wf (s.markOps l).mem = true := by
  induction l with
  | nil => intro s h; exact h
  | cons x t ih => intro s h; obtain ⟨o, ps⟩ := x; exact ih _ (State.markParts_wf _ _ _ h)

/-- Poison is not kept in memory's bytes. -/
theorem State.poisoned_of_same {s t : State} (h1 : t.lineMeta = s.lineMeta) (h2 : t.reliab = s.reliab) (a n : Nat) :
    t.poisoned a n = s.poisoned a n := by
  have : t.linePoisoned = s.linePoisoned := by
    funext l
    simp only [State.linePoisoned, State.metaOf, h1, h2]
  simp only [State.poisoned, this]

/-! ## The way to the array -/

/-- In a quiet state an access meets nothing on its way (25 R473 to R478, 27 R509). -/
theorem State.reachLine_quiet {s : State} (h : s.quiet) (c o : Nat) (w b : Bool) (n : Nat) : s.reachLine c o w b n = s := by
  obtain ⟨_, he, hi, hs, hc, hf, _⟩ := h
  have ht : s.touch n = s := by simp [State.touch, hf]
  have hm : s.arrayMatters c n = false := by
    simp [State.arrayMatters, he, hs, hc, State.chanOf, Table.get, Channel.reset, State.injLine, State.injArmed, hi]
  unfold State.reachLine
  split
  · rfl
  · simp only [ht, ite_self, hm]; rfl

/-- The same for some bytes. -/
theorem State.reachBytes_quiet {s : State} (h : s.quiet) (c o : Nat) (w : Bool) (pa n : Nat) : s.reachBytes c o w pa n = s := by
  unfold State.reachBytes
  induction linesOf pa n with
  | nil => rfl
  | cons l t ih => rw [List.foldl_cons, State.reachLine_quiet h, ih]

/-- The same for the pieces of an access. -/
theorem State.reachParts_quiet {s : State} (h : s.quiet) (c o : Nat) (w : Bool) (ps : List Part) : s.reachParts c o w ps = s := by
  induction ps with
  | nil => rfl
  | cons p t ih => simp only [State.reachParts, State.reachBytes_quiet h, ih]

/-- The same for an instruction's operations. -/
theorem State.reachOps_quiet {s : State} (h : s.quiet) (w : Who) (l : List (MemOp × List Part)) : s.reachOps w l = s := by
  induction l with
  | nil => rfl
  | cons x t ih => obtain ⟨o, ps⟩ := x; simp only [State.reachOps, State.reachParts_quiet h, ih]

/-- A state that differs in memory alone is as quiet. -/
theorem State.quiet_mem {s t : State} (h : s.quiet) (ht : t = { s with mem := t.mem }) : t.quiet := by
  rw [ht]; exact h

/-! ## Local pieces -/

/-- The answer of a local piece among the answers of remote ones. -/
def noAnswers (l : List (MemOp × List Part)) : List (List (List Byte × Bool)) := l.map fun x => x.2.map fun _ => ([], false)

/-- Local operations need no remote access. -/
theorem anyRemote_local (l : List (MemOp × List Part)) (h : ∀ x ∈ l, ∀ p ∈ x.2, p.isRemote = false) : anyRemote l = false := by
  simp only [anyRemote, List.any_eq_false, List.any_eq_true, not_exists, not_and]
  intro x hx p hp
  simp [h x hx p hp]

/-- Pieces that lie in no host memory ask the host for nothing (26 R503). -/
theorem hostAsks_none (n : Nat) (b : Bool) (ps : List Part) (h : ∀ p ∈ ps, homeOf p.pa ≠ .host) : hostAsks n b ps = [] := by
  rw [hostAsks, List.filterMap_eq_nil_iff]
  intro p hp
  split
  · next e => exact absurd e (h p hp)
  · rfl

/-- Operations that reach no host memory ask for nothing. -/
theorem State.askOps_none (s : State) (w : Who) (l : List (MemOp × List Part)) (h : ∀ x ∈ l, ∀ p ∈ x.2, homeOf p.pa ≠ .host) :
    s.askOps w l = s := by
  have : l.flatMap (fun x => hostAsks (s.ctxOf w.ctx).tenant x.1.act.writes x.2) = [] := by
    rw [List.flatMap_eq_nil_iff]
    exact fun x hx => hostAsks_none _ _ _ (h x hx)
  simp only [State.askOps, this, List.append_nil]

/-- The operations of checks that pass are those asked for, in order. -/
theorem State.checkOps_ops {s : State} {w : Who} {ws : Walks} (ops : List MemOp) : ∀ {i : Nat} {l : List (MemOp × List Part)},
    s.checkOps ws w ops i = .ok l → l.map (·.1) = ops := by
  induction ops with
  | nil => intro i l h; cases h; rfl
  | cons o t ih =>
    intro i l h
    unfold State.checkOps at h
    split at h
    · cases h
    · split at h
      · cases h
      · next l' h' => cases h; simp [ih h']

/-- Some operations that pass their checks in a quiet state are performed: A and D are marked, the host memory among their pieces is
asked for, then each is done in order. -/
theorem perform_pass {s : State} {w : Who} {ops : List MemOp} {l : List (MemOp × List Part)} (hc : s.quiet)
    (h : OpsPass s w ops l) :
    perform w ops s =
      (let r := ((s.markOps l).askOps w l).localPass l (noAnswers l)
       let t := r.2.cleanLines (storeExtents l)
       (.ok r.1, { t with ticket := t.ticket + (l.filter fun x => x.1.ord == 4).length })) := by
  obtain ⟨hck, hp⟩ := h
  have hquiet : (s.markOps l).quiet := State.quiet_mem hc (State.markOps_same l s)
  have hf : s.flightOf w.agent ops = none := by simp [State.flightOf, hc.2.2.2.2.2.2]
  have hd : s.drainFor w = s := by
    unfold State.drainFor
    split
    · simp [State.drainAdds, hc.1]
    · rfl
  have hmig : (l.any fun x => x.1.act.writes && x.2.any fun p => p.mig) = false := by
    simp only [List.any_eq_false, Bool.and_eq_true, List.any_eq_true, not_and, not_exists]
    intro x hx _ p hpx
    simp [(hp x hx p hpx).2.1]
  have hctx : ∀ n, (s.markOps l).ctxOf n = s.ctxOf n := by intro n; rw [State.markOps_same]; rfl
  have hask : ∀ n, ((s.markOps l).askOps w l).ctxOf n = s.ctxOf n := hctx
  have hpois : (l.any fun x => x.1.strict && x.1.act.reads && x.2.any fun p =>
      !p.isRemote && ((s.markOps l).askOps w l).poisoned p.pa p.len) = false := by
    simp only [List.any_eq_false, Bool.and_eq_true, List.any_eq_true, not_and, not_exists]
    intro x hx _ p hpx _
    rw [State.poisoned_of_same (t := (s.markOps l).askOps w l) (s := s) (by rw [State.askOps, State.markOps_same])
      (by rw [State.askOps, State.markOps_same])]
    simp [(hp x hx p hpx).2.2]
  have hr := anyRemote_local l fun x hx p hpx => (hp x hx p hpx).1
  unfold perform
  simp only [M.bind_run, M.get_run, hf, hck, hmig, hd, State.reachOps_quiet hquiet, hask, hr, M.set_run, M.ite_run,
    M.pure_run, Bool.false_eq_true, if_false, Bool.and_not_self, finishOps, hpois, noAnswers]

/-! ## Loads -/

/-- Local pieces hold what memory holds. -/
theorem State.gather_local (s : State) (ps : List Part) : ∀ rs, (∀ p ∈ ps, p.isRemote = false) → s.gather ps rs = s.bytesAt ps := by
  induction ps with
  | nil => intro rs _; rfl
  | cons p t ih =>
    intro rs h
    have hp := h p (List.mem_cons_self ..)
    simp only [State.gather, hp, State.bytesAt, List.flatMap_cons]
    rw [ih _ fun q hq => h q (List.mem_cons_of_mem _ hq)]
    rfl

/-- Loads in order, each of its own pieces. -/
theorem State.localPass_loads (s : State) (l : List (MemOp × List Part)) (hl : ∀ x ∈ l, x.1.act = .load)
    (hr : ∀ x ∈ l, ∀ p ∈ x.2, p.isRemote = false) (hp : ∀ x ∈ l, ∀ p ∈ x.2, s.poisoned p.pa p.len = false) :
    s.localPass l (noAnswers l) = (l.map fun x => (s.bytesAt x.2, false), s) := by
  induction l with
  | nil => rfl
  | cons x t ih =>
    obtain ⟨op, ps⟩ := x
    have h1 : (ps.any fun p => !p.isRemote && s.poisoned p.pa p.len) = false := by
      simp only [List.any_eq_false, Bool.and_eq_true, not_and]
      intro p hm _
      simp [hp (op, ps) (List.mem_cons_self ..) p hm]
    have h2 : ((noAnswers ((op, ps) :: t)).headD []).any (·.2) = false := by simp [noAnswers]
    have h3 : s.doOp op ps ((noAnswers ((op, ps) :: t)).headD []) = (s.bytesAt ps, s) := by
      unfold State.doOp
      rw [hl (op, ps) (List.mem_cons_self ..)]
      simp only
      rw [State.gather_local s ps _ (hr (op, ps) (List.mem_cons_self ..))]
    have h4 := ih (fun y hy => hl y (List.mem_cons_of_mem _ hy)) (fun y hy => hr y (List.mem_cons_of_mem _ hy))
      fun y hy => hp y (List.mem_cons_of_mem _ hy)
    simp only [State.localPass, h1, h2, h3, List.map_cons]
    rw [show (noAnswers ((op, ps) :: t)).tail = noAnswers t from rfl, h4]
    rfl

/-- Loads store nothing. -/
theorem storeExtents_loads (l : List (MemOp × List Part)) (hl : ∀ x ∈ l, x.1.act = .load) : storeExtents l = [] := by
  induction l with
  | nil => rfl
  | cons x t ih =>
    have := hl x (List.mem_cons_self ..)
    rw [storeExtents, List.flatMap_cons]
    simp only [this, List.nil_append]
    exact ih fun y hy => hl y (List.mem_cons_of_mem _ hy)

/-- Loads that pass their checks in a quiet state give the bytes of their pieces, once their leaf entries are marked and the host
memory among them is asked for. -/
theorem perform_loads {s : State} {w : Who} {ops : List MemOp} {l : List (MemOp × List Part)} (hc : s.quiet)
    (h : OpsPass s w ops l) (hl : ∀ x ∈ l, x.1.act = .load) :
    perform w ops s = (.ok (l.map fun x => ((s.markOps l).bytesAt x.2, false)),
      { (s.markOps l).askOps w l with ticket := s.ticket + (l.filter fun x => x.1.ord == 4).length }) := by
  have hp : ∀ x ∈ l, ∀ p ∈ x.2, ((s.markOps l).askOps w l).poisoned p.pa p.len = false := by
    intro x hx p hm
    rw [State.poisoned_of_same (t := (s.markOps l).askOps w l) (s := s) (by rw [State.askOps, State.markOps_same])
      (by rw [State.askOps, State.markOps_same])]
    exact (h.2 x hx p hm).2.2
  rw [perform_pass hc h]
  simp only [State.localPass_loads _ l hl (fun x hx p hm => (h.2 x hx p hm).1) hp, storeExtents_loads l hl]
  have hclean : ∀ t : State, t.cleanLines [] = t := by intro t; unfold State.cleanLines; split <;> rfl
  have hticket : ((s.markOps l).askOps w l).ticket = s.ticket := by rw [State.askOps, State.markOps_same]
  have hbytes : ∀ ps, ((s.markOps l).askOps w l).bytesAt ps = (s.markOps l).bytesAt ps := fun _ => rfl
  simp only [hclean, hticket, hbytes]

/-- Loads of marked pages of the package's own memory change nothing. -/
theorem perform_reads {s : State} {w : Who} {ops : List MemOp} {vals : List (List Byte)} (hc : s.quiet)
    (h : s.Reads w ops vals) (hl : ∀ o ∈ ops, o.act = .load ∧ o.ord ≠ 4) :
    perform w ops s = (.ok (vals.map fun b => (b, false)), s) := by
  obtain ⟨l, hp, hm, hv, hh⟩ := h
  have hops : ∀ x ∈ l, x.1 ∈ ops := fun x hx => State.checkOps_ops ops hp.1 ▸ List.mem_map_of_mem hx
  have hf : (l.filter fun x => x.1.ord == 4) = [] := by
    rw [List.filter_eq_nil_iff]
    intro x hx
    simpa using (hl _ (hops x hx)).2
  rw [perform_loads hc hp fun x hx => (hl _ (hops x hx)).1, hm, hf, hv, List.map_map, State.askOps_none s w l hh]
  rfl

end Sys2Proof.Machine
end

