-- ==== Sys2Proof/Laws/Vector.lean ====
section
/-! SUPPORT. Elements, masks and poison of vector registers after a write, and what a vector instruction does between its
issue and its end. -/
set_option Elab.async false
namespace Sys2Proof.Machine

/-! ## Fields of numbers -/

/-- A bit of a number. -/
theorem bitOf_eq (x i : Nat) : bitOf x i = x.testBit i := by
  unfold bitOf
  rw [Nat.testBit_eq_decide_div_mod_eq]
  rfl

/-- A bit of a field. -/
theorem testBit_field (x lo n i : Nat) : (field x lo n).testBit i = (decide (i < n) && x.testBit (lo + i)) := by
  simp [field, Nat.testBit_mod_two_pow, Nat.testBit_div_two_pow, Nat.add_comm]

/-- A bit of a number with a field replaced. -/
theorem testBit_setField (x lo n v i : Nat) :
    (setField x lo n v).testBit i = if lo ≤ i ∧ i < lo + n then v.testBit (i - lo) else x.testBit i := by
  have hx : x = (x / 2 ^ (lo + n) * 2 ^ n + field x lo n) * 2 ^ lo + x % 2 ^ lo := by
    unfold field
    have h1 : x / 2 ^ (lo + n) = x / 2 ^ lo / 2 ^ n := by rw [Nat.div_div_eq_div_mul, ← Nat.pow_add]
    rw [h1, Nat.div_add_mod', Nat.div_add_mod']
  have hs : setField x lo n v = 2 ^ lo * (2 ^ n * (x / 2 ^ (lo + n)) + v % 2 ^ n) + x % 2 ^ lo := by
    unfold setField
    conv => lhs; rw [hx]
    rw [show field ((x / 2 ^ (lo + n) * 2 ^ n + field x lo n) * 2 ^ lo + x % 2 ^ lo) lo n = field x lo n by rw [← hx]]
    generalize x / 2 ^ (lo + n) = q
    generalize field x lo n = f
    generalize x % 2 ^ lo = r
    generalize v % 2 ^ n = u
    rw [Nat.add_mul, Nat.mul_add, Nat.mul_comm q (2 ^ n), Nat.mul_comm (2 ^ lo) u, Nat.mul_comm (2 ^ lo) (2 ^ n * q)]
    omega
  rw [hs, Nat.testBit_two_pow_mul_add _ (Nat.mod_lt _ (Nat.two_pow_pos _))]
  by_cases h1 : i < lo
  · have : ¬ (lo ≤ i ∧ i < lo + n) := by omega
    simp [h1, this, Nat.testBit_mod_two_pow]
  · rw [if_neg h1, Nat.testBit_two_pow_mul_add _ (Nat.mod_lt _ (Nat.two_pow_pos _))]
    by_cases h2 : i - lo < n
    · have : lo ≤ i ∧ i < lo + n := by omega
      simp [h2, this, Nat.testBit_mod_two_pow]
    · have : ¬ (lo ≤ i ∧ i < lo + n) := by omega
      rw [if_neg h2, if_neg this, Nat.testBit_div_two_pow]
      congr 1
      omega

/-- A field read where it was written. -/
theorem field_setField_same (x lo n v : Nat) : field (setField x lo n v) lo n = v % 2 ^ n := by
  apply Nat.eq_of_testBit_eq
  intro i
  rw [testBit_field, testBit_setField, Nat.testBit_mod_two_pow]
  by_cases h : i < n
  · simp [h]
  · simp [h]

/-- A field read beside the one that was written. -/
theorem field_setField_apart (x lo n v at_ m : Nat) (h : at_ + m ≤ lo ∨ lo + n ≤ at_) :
    field (setField x lo n v) at_ m = field x at_ m := by
  apply Nat.eq_of_testBit_eq
  intro i
  rw [testBit_field, testBit_setField, testBit_field]
  by_cases hi : i < m
  · rw [if_neg (by omega)]
  · simp [hi]

/-- A field of a number cut above it. -/
theorem field_mod (x lo n k : Nat) (h : lo + n ≤ k) : field (x % 2 ^ k) lo n = field x lo n := by
  apply Nat.eq_of_testBit_eq
  intro i
  rw [testBit_field, testBit_field, Nat.testBit_mod_two_pow]
  by_cases hi : i < n
  · simp [hi, show lo + i < k by omega]
  · simp [hi]

/-- Elements written in turn, each with a value of its own: the written ones hold theirs, the others stand. -/
theorem field_writePieces (w : Nat) (g : Nat → Nat) (es : List Nat) : ∀ (old e : Nat),
    field (writePieces old (es.map fun e => (w * e, w, g e))) (w * e) w
      = if e ∈ es then g e % 2 ^ w else field old (w * e) w := by
  induction es with
  | nil => intro old e; rfl
  | cons h t ih =>
    intro old e
    have step : writePieces old ((h :: t).map fun e => (w * e, w, g e))
        = writePieces (setField old (w * h) w (g h)) (t.map fun e => (w * e, w, g e)) := rfl
    rw [step, ih]
    by_cases he : e ∈ t
    · simp [he]
    · rw [if_neg he]
      by_cases hh : e = h
      · subst hh; simp [field_setField_same]
      · rw [if_neg (by simp [hh, he])]
        apply field_setField_apart
        rcases Nat.lt_or_gt_of_ne hh with hlt | hlt
        · left
          calc w * e + w = w * (e + 1) := by rw [Nat.mul_succ]
            _ ≤ w * h := Nat.mul_le_mul_left _ hlt
        · right
          calc w * h + w = w * (h + 1) := by rw [Nat.mul_succ]
            _ ≤ w * e := Nat.mul_le_mul_left _ hlt

/-! ## Masks and activity -/

/-- Membership in the positions of 1 bits. -/
theorem mem_onesBelow (x n i : Nat) : i ∈ onesBelow x n ↔ i < n ∧ bitOf x i = true := by
  simp [onesBelow]

/-- A mask has 16,384 bits. -/
theorem mr_lt (v : Vec) (k : Nat) : v.mr k < 2 ^ 16384 := by
  unfold Vec.mr
  split
  · exact Nat.sub_lt (Nat.two_pow_pos _) Nat.one_pos
  · exact BitVec.isLt _

/-- A bit of the governing mask. -/
theorem bitOf_governing (v : Vec) (msk : BitVec 3) (mn : BitVec 1) (e : Nat) (he : e < 16384) :
    bitOf (v.governing msk mn) e = (bitOf (v.mr msk.toNat) e != (mn == 1)) := by
  have hlt := mr_lt v msk.toNat
  unfold Vec.governing maskOnes
  by_cases h : mn = 1
  · subst h
    simp only [if_true, bitOf_eq]
    rw [Nat.sub_sub, Nat.add_comm 1, Nat.testBit_two_pow_sub_succ hlt]
    simp [he]
  · simp only [if_neg h]
    rw [show (mn == 1) = false by simpa using h, Bool.bne_false]

/-- The active elements of an instruction, as its rule has them. -/
theorem mem_active (v : Vec) (msk : BitVec 3) (mn : BitVec 1) (e : Nat) (he : e < 16384) :
    e ∈ v.active msk mn ↔ v.acts msk mn e = true := by
  simp only [Vec.active, List.mem_filter, mem_onesBelow, Vec.acts, bitOf_governing v msk mn e he, Bool.and_eq_true,
    decide_eq_true_eq]
  exact ⟨fun h => ⟨⟨h.2, h.1.1⟩, h.1.2⟩, fun h => ⟨⟨h.1.2, h.2⟩, h.1.1⟩⟩

/-- The governing mask has no bit beyond the last element. -/
theorem governing_lt (v : Vec) (msk : BitVec 3) (mn : BitVec 1) : v.governing msk mn < 2 ^ 16384 := by
  have h0 : v.mr msk.toNat < 2 ^ 16384 := mr_lt v _
  unfold Vec.governing
  simp only
  split
  · exact Nat.lt_of_le_of_lt (Nat.sub_le _ _) (Nat.sub_lt (Nat.two_pow_pos _) Nat.one_pos)
  · exact h0

/-- An element that the machine counts as active is active by its rule. -/
theorem acts_of_mem (v : Vec) (msk : BitVec 3) (mn : BitVec 1) (e : Nat) (h : e ∈ v.active msk mn) :
    v.acts msk mn e = true ∧ e < 16384 := by
  have h' := h
  simp only [Vec.active, List.mem_filter, mem_onesBelow] at h'
  have he : e < 16384 := by
    rcases Nat.lt_or_ge e 16384 with hlt | hge
    · exact hlt
    · have := Nat.testBit_lt_two_pow (Nat.lt_of_lt_of_le (governing_lt v msk mn) (Nat.pow_le_pow_right (by decide) hge))
      rw [bitOf_eq, this] at h'
      exact absurd h'.1.2 (by decide)
  exact ⟨(mem_active v msk mn e he).1 h, he⟩

/-! ## A register after a write -/

/-- The bits of a vector register fit. -/
theorem Vec.bits_lt (v : Vec) (n : Nat) : v.bits n < 2 ^ 65536 := BitVec.isLt _

/-- Pieces of no length change nothing. -/
theorem writePieces_filter (ps : List (Nat × Nat × Nat)) : ∀ old,
    writePieces old (ps.filter fun p => p.2.1 != 0) = writePieces old ps := by
  induction ps with
  | nil => intro old; rfl
  | cons p t ih =>
    intro old
    by_cases h : p.2.1 = 0
    · have hf : (p :: t).filter (fun p => p.2.1 != 0) = t.filter fun p => p.2.1 != 0 := by simp [h]
      have hs : setField old p.1 p.2.1 p.2.2 = old := by
        rw [h]; unfold setField field; simp [Nat.mod_one]
      rw [hf, ih]
      show _ = writePieces (setField old p.1 p.2.1 p.2.2) t
      rw [hs]
    · have hf : (p :: t).filter (fun p => p.2.1 != 0) = p :: t.filter fun p => p.2.1 != 0 := by simp [h]
      rw [hf]
      exact ih _

/-- A vector entry after another was replaced. -/
theorem getD_set {w k : Nat} (x : Vector (BitVec w) k) (i j : Nat) (hi : i < k) (a : BitVec w) :
    (x.set i a hi).toList.getD j 0 = if j = i then a else x.toList.getD j 0 := by
  by_cases h : j = i
  · subst h; simp [List.getD_eq_getElem?_getD, hi]
  · have h' : i ≠ j := fun e => h e.symm
    simp [List.getD_eq_getElem?_getD, h, h']

/-- The bits of a register after pieces are written into it. -/
theorem Vec.bits_write (v : Vec) (n : BitVec 5) (ps : List (Nat × Nat × Nat)) (r : Nat) :
    (v.write n ps).bits r = if r = n.toNat then writePieces (v.bits n.toNat) ps % 2 ^ 65536 else v.bits r := by
  unfold Vec.write
  split
  · next h =>
    have := writePieces_filter ps (v.bits n.toNat)
    rw [h] at this
    rw [← this]
    split
    · next hr => subst hr; exact (Nat.mod_eq_of_lt (Vec.bits_lt v _)).symm
    · rfl
  · next h =>
    have := writePieces_filter ps (v.bits n.toNat)
    rw [show (ps.filter fun p => p.2.1 != 0) = _ from rfl] at this
    simp only [Vec.bits, getD_set]
    split
    · rw [BitVec.toNat_ofNat]; exact congrArg (· % 2 ^ 65536) this
    · rfl

/-- The elements of a register after elements are written, each with a value of its own. -/
theorem Vec.elem_writeElems (v : Vec) (n : BitVec 5) (w : Nat) (es : List Nat) (g : Nat → Nat) (e : Nat)
    (he : w * (e + 1) ≤ 65536) :
    (v.writeElems n w (es.map fun e => (e, g e))).elem n.toNat e w
      = if e ∈ es then g e % 2 ^ w else v.elem n.toNat e w := by
  unfold Vec.elem Vec.writeElems
  rw [Vec.bits_write, if_pos rfl, field_mod _ _ _ _ (by rw [Nat.mul_succ] at he; exact he), List.map_map]
  exact field_writePieces w g es _ e

/-- Bits taken away one by one, from a number that has them: none comes up. -/
theorem clear_bits (c : Nat → Prop) [DecidablePred c] (js : List Nat) : ∀ x : Nat, js.Nodup → (∀ j ∈ js, x.testBit j = true) →
    ∀ i, (js.foldl (fun acc j => if c j then acc - 2 ^ j else acc) x).testBit i = true → x.testBit i = true := by
  induction js with
  | nil => intro x _ _ i h; exact h
  | cons j t ih =>
    intro x hn hx i h
    have hj := hx j (List.mem_cons_self ..)
    rw [List.nodup_cons] at hn
    rw [List.foldl_cons] at h
    split at h
    · have hs : ∀ k, (x - 2 ^ j).testBit k = (x.testBit k && decide (k ≠ j)) := by
        intro k
        have e : x - 2 ^ j = setField x j 1 0 := by
          have hf : field x j 1 = 1 := by
            rw [Nat.testBit_eq_decide_div_mod_eq, decide_eq_true_eq] at hj
            exact hj
          unfold setField
          rw [hf]
          simp
        rw [e, testBit_setField]
        by_cases hk : k = j
        · subst hk; simp
        · rw [if_neg (by omega)]; simp [hk]
      have := ih (x - 2 ^ j) hn.2 (by
        intro k hk
        rw [hs, hx k (List.mem_cons_of_mem _ hk)]
        have : k ≠ j := fun e => hn.1 (e ▸ hk)
        simp [this]) i h
      rw [hs] at this
      exact (Bool.and_eq_true_iff.1 this).1
    · exact ih x hn.2 (fun k hk => hx k (List.mem_cons_of_mem _ hk)) i h

/-- Poison bits of a register after the groups written in full are cleared. -/
theorem poison_cleared (c : Nat → Prop) [DecidablePred c] (p j : Nat)
    (h : (if p = 0 then 0 else (onesBelow p 1024).foldl (fun acc j => if c j then acc - 2 ^ j else acc) p).testBit j = true) :
    p.testBit j = true := by
  split at h
  · rw [Nat.zero_testBit] at h
    exact absurd h (by decide)
  · refine clear_bits c _ _ ?_ ?_ j h
    · exact List.Nodup.sublist List.filter_sublist List.nodup_range
    · intro k hk
      have := ((mem_onesBelow _ _ _).1 hk).2
      rwa [bitOf_eq] at this

/-- A write into a register sets no poison bit (07 R160). -/
theorem Vec.poison_write (v : Vec) (n : BitVec 5) (ps : List (Nat × Nat × Nat)) (r j : Nat)
    (h : ((v.write n ps).poison r).testBit j = true) : (v.poison r).testBit j = true := by
  unfold Vec.write at h
  split at h
  · exact h
  · simp only [Vec.poison, getD_set] at h ⊢
    split at h
    · next hr =>
      subst hr
      rw [BitVec.toNat_ofNat, Nat.testBit_mod_two_pow, Bool.and_eq_true] at h
      exact poison_cleared _ _ _ h.2
    · exact h

/-- A write into a register leaves the poison of the others. -/
theorem Vec.poison_write_other (v : Vec) (n : BitVec 5) (ps : List (Nat × Nat × Nat)) (r : Nat) (h : r ≠ n.toNat) :
    (v.write n ps).poison r = v.poison r := by
  unfold Vec.write
  split
  · rfl
  · simp only [Vec.poison, getD_set, if_neg h]

/-- A write into a register changes registers, poison and HWM alone. -/
theorem Vec.write_same (v : Vec) (n : BitVec 5) (ps : List (Nat × Nat × Nat)) :
    v.write n ps = { v with v := (v.write n ps).v, pois := (v.write n ps).pois, hwm := (v.write n ps).hwm } := by
  unfold Vec.write
  split <;> rfl

/-- The masks after a write into a vector register. -/
theorem Vec.mr_write (v : Vec) (n : BitVec 5) (ps : List (Nat × Nat × Nat)) (k : Nat) : (v.write n ps).mr k = v.mr k := by
  rw [Vec.write_same]; rfl

/-- The frame of a write into one vector register. -/
theorem Vec.sameBut_write (v : Vec) (n : BitVec 5) (ps : List (Nat × Nat × Nat)) :
    v.sameBut { v.write n ps with vstart := 0 } [n.toNat] [] := by
  refine ⟨by rw [Vec.write_same], ?_, fun k _ => Vec.mr_write v n ps k, fun r j h => Vec.poison_write v n ps r j h, by simp⟩
  intro r hr
  have hr' : r ≠ n.toNat := by simpa using hr
  exact ⟨by
    show (v.write n ps).bits r = _
    rw [Vec.bits_write, if_neg hr'], Vec.poison_write_other v n ps r hr'⟩

/-! ## A mask register after a write -/

/-- Bits written in turn, each with a value of its own. -/
theorem bits_setFields (g : Nat → Bool) (es : List Nat) : ∀ (old e : Nat),
    bitOf ((es.map fun e => (e, g e)).foldl (fun acc x => setField acc x.1 1 (bit x.2)) old) e
      = if e ∈ es then g e else bitOf old e := by
  induction es with
  | nil => intro old e; rfl
  | cons h t ih =>
    intro old e
    rw [List.map_cons, List.foldl_cons, ih]
    by_cases he : e ∈ t
    · simp [he]
    · rw [if_neg he]
      by_cases hh : e = h
      · subst hh
        rw [bitOf_eq, testBit_setField, if_pos (by omega)]
        cases g e <;> simp [bit]
      · rw [if_neg (by simp [hh, he]), bitOf_eq, testBit_setField, if_neg (by omega), bitOf_eq]

/-- A bit of a mask register after bits are written. -/
theorem Vec.mr_writeMask (v : Vec) (d : BitVec 3) (es : List Nat) (g : Nat → Bool) (e : Nat) (he : e < 16384) :
    bitOf ((v.writeMask d (es.map fun e => (e, g e))).mr d.toNat) e
      = if d = 0 then true else if e ∈ es then g e else bitOf (v.mr d.toNat) e := by
  unfold Vec.writeMask
  by_cases hd : d = 0
  · subst hd
    simp only [if_true]
    show bitOf maskOnes e = true
    rw [bitOf_eq, maskOnes, Nat.testBit_two_pow_sub_one]
    simp [he]
  · have hd' : d.toNat ≠ 0 := fun h => hd (BitVec.eq_of_toNat_eq h)
    simp only [if_neg hd]
    rw [show ∀ x, Vec.mr { v with m := x } d.toNat = (x.toList.getD d.toNat 0).toNat from fun x => by simp [Vec.mr, hd'],
      getD_set, if_pos rfl, BitVec.toNat_ofNat, bitOf_eq, Nat.testBit_mod_two_pow]
    simp only [he, decide_true, Bool.true_and]
    rw [← bitOf_eq, bits_setFields]

/-- The frame of a write into one mask register. -/
theorem Vec.sameBut_writeMask (v : Vec) (d : BitVec 3) (l : List (Nat × Bool)) :
    v.sameBut { v.writeMask d l with vstart := 0 } [] [d.toNat] := by
  have hs : v.writeMask d l = { v with m := (v.writeMask d l).m } := by unfold Vec.writeMask; split <;> rfl
  refine ⟨by rw [hs], fun r _ => by rw [hs]; exact ⟨rfl, rfl⟩, ?_, fun r j h => by rw [hs] at h; exact h, fun _ => by rw [hs]⟩
  intro k hk
  have hk' : k ≠ d.toNat := by simpa using hk
  show (v.writeMask d l).mr k = v.mr k
  unfold Vec.writeMask
  split
  · rfl
  · simp only [Vec.mr, getD_set, if_neg hk']

/-! ## Between issue and end -/

/-- A word of a vector instruction is issued. -/
theorem vecIssue_run {o : Op} {w : Word} {regs widths : List Nat} {s : State} (h : s.VecReady regs widths)
    (hf : Legal.usesF64 o w = true → s.hasF64 = true) : vecIssue o w regs widths s = (.ok ⟨⟩, s.nextLane) := by
  have h1 : (Legal.usesF64 o w && !s.hasF64) = false := by
    cases hu : Legal.usesF64 o w
    · rfl
    · simp [hf hu]
  have h2 : (regs.any fun r => decide (regCount s.hart.vec.nreg ≤ r)) = false := by
    simp only [List.any_eq_false, decide_eq_true_eq]
    exact fun r hr => Nat.not_le_of_lt (h.1 r hr)
  have h3 : (widths.any fun x => decide (s.hart.vec.vlmax < s.hart.vec.vl * x)) = false := by
    simp only [List.any_eq_false, decide_eq_true_eq]
    exact fun x hx => Nat.not_lt_of_le (h.2 x hx)
  simp only [vecIssue, M.bind_run, M.get_run, M.ite_run, M.raise_run, M.change_run, h1, h2, h3,
    Bool.false_eq_true, if_false]

/-- Clean elements are consumed without an event. -/
theorem consume_run {n w : Nat} {es : List Nat} {s : State} {used : Nat → Bool} (h : s.hart.vec.Clean n w used)
    (he : ∀ e ∈ es, used e = true) : consume n w es s = (.ok ⟨⟩, s) := by
  have h1 : s.hart.vec.hits n w es = false := by
    unfold Vec.hits
    simp only [Bool.and_eq_false_iff, List.any_eq_false]
    right
    intro e hm
    simp [h e (he e hm)]
  simp [consume, h1]

/-- A vector instruction ends. -/
theorem vecDone_run (f : Vec → Vec) (s : State) :
    vecDone f s = (.ok ⟨⟩, (s.setVec { f s.hart.vec with vstart := 0 }).advance) := by
  simp [vecDone]

/-- The lane under check moves on, and the acting sequencer does not. -/
theorem State.nextLane_hart (s : State) : s.nextLane.hart = s.hart := rfl

/-- The end of a vector instruction, as a step. -/
theorem vecStep_done (s : State) (f : Vec → Vec) (regs masks : List Nat)
    (h : s.hart.vec.sameBut { f s.hart.vec with vstart := 0 } regs masks) :
    VecStep s (((s.nextLane.setVec { f s.hart.vec with vstart := 0 }).advance).endInstr) regs masks := by
  refine ⟨rfl, rfl, ?_, h⟩
  exact State.fallsThrough_advance s (s.nextLane.setVec { f s.hart.vec with vstart := 0 }) rfl rfl rfl

/-- A vector instruction whose computation is an issue and a write of some active elements. -/
theorem vecWrites_of {i : Instr} {s : State} {w : Word} {m : M Unit} {d : BitVec 5} {ew : Nat} {act : Nat → Bool}
    {es : List Nat} {g : Nat → Nat} (hi : exec i s = s.run w m)
    (hm : m s = (.ok ⟨⟩, (s.nextLane.setVec { s.hart.vec.writeElems d ew (es.map fun e => (e, g e)) with vstart := 0 }).advance))
    (hes : ∀ e, ew * (e + 1) ≤ 65536 → (e ∈ es ↔ act e = true)) : VecWrites i s d ew act g := by
  refine ⟨_, hi.trans (State.run_ok hm), ?_, ?_⟩
  · exact vecStep_done s (fun v => v.writeElems d ew (es.map fun e => (e, g e))) _ _ (Vec.sameBut_write _ _ _)
  · intro e he
    show Vec.elem (s.hart.vec.writeElems d ew (es.map fun e => (e, g e))) d.toNat e ew = _
    rw [Vec.elem_writeElems _ _ _ _ _ _ he]
    simp only [hes e he]

/-- A vector instruction whose computation is an issue and a write of some active mask bits. -/
theorem maskWrites_of {i : Instr} {s : State} {w : Word} {m : M Unit} {d : BitVec 3} {act : Nat → Bool}
    {es : List Nat} {g : Nat → Bool} (hi : exec i s = s.run w m)
    (hm : m s = (.ok ⟨⟩, (s.nextLane.setVec { s.hart.vec.writeMask d (es.map fun e => (e, g e)) with vstart := 0 }).advance))
    (hes : ∀ e, e < 16384 → (e ∈ es ↔ act e = true)) : MaskWrites i s d act g := by
  refine ⟨_, hi.trans (State.run_ok hm), ?_, ?_⟩
  · exact vecStep_done s (fun v => v.writeMask d (es.map fun e => (e, g e))) _ _ (Vec.sameBut_writeMask _ _ _)
  · intro e he
    show bitOf (Vec.mr (s.hart.vec.writeMask d (es.map fun e => (e, g e))) d.toNat) e = _
    rw [Vec.mr_writeMask _ _ _ _ _ he]
    simp only [hes e he]

end Sys2Proof.Machine
end

