-- ==== Sys2Proof/Tests/Slice0.lean ====
section
/-! SUPPORT. Tests: ill-formed terms, words of the spec, and for every statement with hypotheses a state that meets them. -/
set_option Elab.async false
namespace Sys2Proof.Tests

open Sys2Proof.Machine

/-! ## Helpers -/

/-- The instance of context 0 at supervisor level, PC 0x20000, with one page of 16 GiB that maps every
address onto die 0, its A and D set. -/
def base : State :=
  { State.reset with
    hart := fetchHart 0 0
    ctxs := [(0, fetchCtx)]
    mem := [(0x8000, 1), (0x8002, 1), (0x10000, 0xF3), (0x10001, 3), (0x20007, 0x1E)] }

/-- A state with its acting sequencer changed. -/
def on (s : State) (f : Hart → Hart) : State := { s with hart := f s.hart }

/-- `base` with some g registers set. -/
def regs (l : List (Nat × Word)) : State := on base fun h => { h with g := l.foldl (fun g x => g.setIfInBounds x.1 x.2) h.g }

/-- The state after an instruction, where it completes. -/
noncomputable def after (i : Instr) (s : State) : State :=
  match exec i s with
  | .next t => t
  | _ => s

/-- The places of some operations that pass. -/
def places (s : State) (w : Who) (ops : List MemOp) : List (MemOp × List Part) :=
  match s.checkOps (s.walksFor w.ctx ops []) w ops 0 with
  | .ok l => l
  | .error _ => []

/-- The operations pass, on local pieces. -/
def passes (s : State) (w : Who) (ops : List MemOp) : Bool :=
  match s.checkOps (s.walksFor w.ctx ops []) w ops 0 with
  | .ok l => l.all fun x => x.2.all fun p => !p.isRemote && !p.mig && !s.poisoned p.pa p.len
  | .error _ => false

theorem opsPass_of (s : State) (w : Who) (ops : List MemOp) (h : passes s w ops = true) : OpsPass s w ops (places s w ops) := by
  unfold passes at h
  unfold places OpsPass
  split at h
  · rename_i l e
    refine ⟨by rw [e], fun x hx p hp => ?_⟩
    have := List.all_eq_true.1 (List.all_eq_true.1 h x hx) p hp
    simp only [Bool.and_eq_true, Bool.not_eq_true'] at this
    exact ⟨this.1.1, this.1.2, this.2⟩
  · cases h

/-- No piece of the operations lies in host memory. -/
def offHost (s : State) (w : Who) (ops : List MemOp) : Bool :=
  (places s w ops).all fun x => x.2.all fun p => decide (homeOf p.pa ≠ .host)

/-- What some loads read at once. -/
def reads (s : State) (w : Who) (ops : List MemOp) : List (List Byte) := (places s w ops).map fun x => s.bytesAt x.2

theorem marks_of (s : State) (l : List (MemOp × List Part)) (h : (s.markOps l).mem = s.mem) : s.markOps l = s := by
  rw [State.markOps_same, h]

theorem reads_of (s : State) (w : Who) (ops : List MemOp) (h : passes s w ops = true)
    (m : (s.markOps (places s w ops)).mem = s.mem)
    (o : offHost s w ops = true := by decide +kernel) :
    s.Reads w ops (reads s w ops) :=
  ⟨_, opsPass_of s w ops h, marks_of s _ m, rfl, fun x hx p hp =>
    of_decide_eq_true (List.all_eq_true.1 (List.all_eq_true.1 o x hx) p hp)⟩

theorem clean_of (v : Vec) (n w : Nat) (used : Nat → Bool) (h : v.poison n = 0) : v.Clean n w used := by
  intro e _
  rw [h]
  simp [poisonHit]


/-- `base` with a trap handler at 0x30000. -/
def handled : State := on base fun h => { h with tvec := 0x30000 }

/-- `base` at program level, with a handler. -/
def prog : State := on handled fun h => { h with level := .program }

/-- `handled` at the last address of its innermost loop, which has one iteration left. -/
def looping : State := on handled fun h => { h with loops := [⟨false, 0x20000, 0x1FFF0, 2, 0⟩, ⟨false, 0x20100, 0x1FFE0, 9, 3⟩] }

/-- A loop-stack entry far away. -/
def far : Loop := ⟨false, 0x40000, 0x30000, 5, 1⟩

/-! ## Statements with hypotheses: scalar, control, system -/

/-- R136: the whole word, and its top bit. -/
theorem witness_BitManipulation :
    (1 ≤ 64 ∧ 0 + 64 ≤ 64 ∧ BitVec.ofNat 35 (64 * 64 + 0) = (0x1000 : BitVec 35))
    ∧ (1 ≤ 1 ∧ 63 + 1 ≤ 64 ∧ BitVec.ofNat 35 (64 * 1 + 63) = (0x7F : BitVec 35)) := by decide

theorem witness_ImmediateArithmetic : (63 < 64 ∧ BitVec.ofNat 35 63 = (63 : BitVec 35)) ∧ (0 < 64 ∧ BitVec.ofNat 35 0 = (0 : BitVec 35)) := by
  decide

theorem witness_ConditionsAndConstants : ((0x7FFFF : BitVec 45).toNat < 2 ^ 19) := by decide

theorem witness_Branches : base.plainPc ∧ (on base fun h => { h with loops := [far] }).plainPc ∧ (base.rg 0).toNat % 8 = 0
    ∧ ((regs [(6, 0xFFFFFFFFFFFFFFF8)]).rg 6).toNat % 8 = 0 := by
  unfold State.plainPc; decide +kernel

theorem witness_TransferTraps :
    handled.canTrap ∧ handled.plainPc ∧ ((on handled fun h => { h with g := h.g.set 6 1 }).rg 6).toNat % 8 ≠ 0
    ∧ looping.canTrap ∧ ¬ looping.plainPc ∧ (encode (.bc 5 ⟨0, 1, 2, -1⟩)).isSome ∧ (encode (.j ⟨0, 0, 0, -1⟩)).isSome
    ∧ (encode (.jl ⟨1, 0, 0, 1⟩)).isSome ∧ (encode (.jr ⟨1, 2, 0, 0⟩)).isSome ∧ (encode (.loop ⟨0, 1, 0, 2⟩)).isSome := by
  unfold State.canTrap State.plainPc; decide +kernel

theorem witness_LoopPushes :
    let five := on (regs [(6, 1)]) fun h => { h with loops := List.replicate 5 far }
    let six := on handled fun h => { h with loops := List.replicate 6 far, g := h.g.set 6 1 }
    base.plainPc ∧ base.hart.pc.toNat + 8 * (1 : BitVec 35).toNat < 2 ^ 57 ∧ base.rg 0 = 0
    ∧ five.plainPc ∧ five.rg 6 ≠ 0 ∧ five.hart.loops.length < 6
    ∧ (∀ e ∈ five.hart.loops.find? (fun e => e.h == five.hart.handling),
        (five.hart.pc + BitVec.ofNat 64 (8 * (0x4000 : BitVec 35).toNat)).toNat ≤ e.last.toNat)
    ∧ six.plainPc ∧ six.rg 6 ≠ 0 ∧ 6 ≤ six.hart.loops.length ∧ six.canTrap
    ∧ (let nested := on handled fun h => { h with loops := [far], g := h.g.set 6 1 }
       nested.plainPc ∧ nested.hart.pc.toNat + 8 * (0x4001 : BitVec 35).toNat < 2 ^ 57 ∧ nested.rg 6 ≠ 0 ∧ nested.canTrap
       ∧ ∃ e ∈ nested.hart.loops.find? (fun e => e.h == nested.hart.handling),
           e.last.toNat < (nested.hart.pc + BitVec.ofNat 64 (8 * (0x4001 : BitVec 35).toNat)).toNat) := by
  unfold State.canTrap State.plainPc; decide +kernel

theorem witness_LoopEnds :
    let done := on handled fun h => { h with loops := [⟨false, 0x20000, 0x1FFF0, 1, 0⟩] }
    (∃ e l, looping.hart.loops = e :: l ∧ e.last.setWidth 64 = looping.hart.pc ∧ e.h = looping.hart.handling
      ∧ e.index.toNat + 1 < e.count.toNat)
    ∧ (∃ e l, done.hart.loops = e :: l ∧ e.last.setWidth 64 = done.hart.pc ∧ e.h = done.hart.handling
      ∧ e.count.toNat ≤ e.index.toNat + 1)
    ∧ (∃ e l, (on base fun h => { h with loops := [far] }).hart.loops = e :: l
      ∧ ¬ (e.last.setWidth 64 = base.hart.pc ∧ e.h = base.hart.handling))
    ∧ (∀ e ∈ handled.hart.loops.head?, e.h ≠ handled.hart.handling) ∧ handled.canTrap ∧ base.hart.loops = [] := by
  unfold State.canTrap
  refine ⟨⟨_, _, rfl, by decide +kernel⟩, ⟨_, _, rfl, by decide +kernel⟩, ⟨_, _, rfl, by decide +kernel⟩, by decide +kernel⟩

theorem witness_SystemRegisterReads :
    base.csrOpen 0x104 ∧ 0x104 ∉ [0x41, 0x110] ∧ prog.csrOpen 0x00 ∧ 0x00 ∉ [0x41, 0x110] ∧ prog.csrOpen 0x40 ∧ (0x104 < 0x800)
    ∧ prog.csrOpen 0x06 ∧ prog.csrOpen 0x28 ∧ prog.csrOpen 0x2D ∧ base.csrOpen 0x111 ∧ base.csrOpen 0xFC0 ∧ base.csrOpen 0xFC1
    ∧ 0xF00 ≤ 0xFC0 := by
  unfold State.csrOpen; decide +kernel

theorem witness_SystemRegisterWrites :
    let f : SyF := { d := 5, a := 6, sreg := 0x103, imm := 0 }
    base.csrOpen f.sreg.toNat ∧ f.sreg.toNat ∉ [0x41, 0x110] ∧ f.sreg.toNat < 0x800 ∧ prog.csrOpen 0x02 ∧ prog.csrOpen 0x10 := by
  unfold State.csrOpen; decide +kernel

theorem witness_PrivilegeTraps :
    prog.canTrap ∧ prog.hart.level = .program ∧ csrListed 0xFFF = false ∧ csrListed 0x100 = true ∧ csrSupervisor 0x100 = true
    ∧ (encode (.csrr { d := 0, a := 0, sreg := 0x100, imm := 0 })).isSome
    ∧ (encode (.rft { d := 0, a := 0, sreg := 0, imm := 0 })).isSome := by
  unfold State.canTrap; decide +kernel

theorem witness_TrapOnRequest : handled.canTrap := by
  unfold State.canTrap; decide +kernel

theorem witness_TrapReturn :
    let inTrap := on handled fun h => { h with cause := 0x1C00000000000001, loops := [⟨true, 0, 0, 1, 0⟩] }
    inTrap.hart.level = .supervisor ∧ inTrap.hart.handling = true ∧ handled.hart.level = .supervisor ∧ handled.canTrap := by
  unfold State.canTrap; decide +kernel

theorem witness_SynchronisingForms :
    let u := base.advance
    base.adds = [] ∧ base.hart.level = .supervisor
    ∧ base.translated 0 (fun va page => va / page == (base.rg 0).toNat / page) = false ∧ base.translated 0 (fun _ _ => true) = false
    ∧ (u.ctxWrite u.hart.ctx .supervisor ((u.ctxOf u.hart.ctx).save + 282688 * u.hart.blk)
        (u.hart.scalarBlock
          { fatal := false, halted := true, miditer := false, lazily := u.hart.owner == some (u.hart.ctx, u.hart.inst)
            pc := u.hart.pc, cause := u.hart.cause, epc := u.hart.epc, tval := u.hart.tval })).isSome := by
  refine ⟨rfl, rfl, by decide +kernel, by decide +kernel, by decide +kernel⟩

/-! ## Statements with hypotheses: vector instructions -/

/-- `handled` with a lane group of the whole core, 32 registers and VLMAX = 32,768. -/
def vectors (vl vstart : Nat) : State :=
  on handled fun h =>
    { h with group := some 0, part := 1, gcap := 32768, vec := { h.vec with vl, vstart, vlmax := 32768, ew := 2, ty := 1 } }

/-- The longest vector of 32-bit elements. -/
def full : State := vectors 1024 0

theorem full_clean (n w : Nat) (used : Nat → Bool) (h : n < 32) : full.hart.vec.Clean n w used := by
  apply clean_of
  have : ∀ n, n < 32 → full.hart.vec.poison n = 0 := by decide +kernel
  exact this n h

theorem witness_VectorInteger : full.hart.vec.Clean 31 32 (full.hart.vec.acts 0 0) ∧ full.VecReady [31, 31, 31, 31] [32] :=
  ⟨full_clean _ _ _ (by decide), by unfold State.VecReady; decide +kernel⟩

theorem witness_VectorIntegerUnary :
    full.VecReady [31, 0] [32, 16] ∧ full.hart.vec.Clean 0 16 (full.hart.vec.acts 0 0)
    ∧ full.VecReady [31, 31] [32] ∧ (9 : BitVec 16).toNat = 9 ∧ full.VecReady [31, 30, 29] [32]
    ∧ full.hart.vec.Clean 29 32 (fun e => full.hart.vec.acts 0 0 e && !bitOf (full.hart.vec.mr 7) e) :=
  ⟨by unfold State.VecReady; decide +kernel, full_clean _ _ _ (by decide), by unfold State.VecReady; decide +kernel, rfl,
    by unfold State.VecReady; decide +kernel, full_clean _ _ _ (by decide)⟩

theorem witness_PackedPixels :
    let s := vectors 2048 0
    (0x1E : BitVec 16).toNat % 16 ∈ [10, 12, 14] ∧ (0x0A : BitVec 16).toNat % 16 ∈ [10, 12, 14] ∧ s.VecReady [31, 31] [16]
    ∧ (∀ e, s.hart.vec.acts 0 0 e = true → poisonHit (s.hart.vec.poison 31) (14 * e) 14 = false)
    ∧ s.hart.vec.Clean 31 16 (s.hart.vec.acts 0 0) := by
  have h : (vectors 2048 0).hart.vec.poison 31 = 0 := by decide +kernel
  exact ⟨by decide, by decide, by unfold State.VecReady; decide +kernel, fun e _ => by rw [h]; simp [poisonHit], clean_of _ _ _ _ h⟩

/-- R111: a mode of the word and DYN, binary64 on a part that has it. -/
theorem witness_VectorFloatBinary :
    full.hasF64 = true ∧ full.modeNow 0 = some .rne ∧ full.modeNow 6 = some .rne
    ∧ full.hart.vec.Clean 31 32 (full.hart.vec.acts 0 0) ∧ full.VecReady [31, 31, 31, 31] [32]
    ∧ (vectors 512 0).VecReady [31, 31, 31] [64] := by
  refine ⟨by decide +kernel, by decide +kernel, by decide +kernel, full_clean _ _ _ (by decide), ?_, ?_⟩ <;>
    (unfold State.VecReady; decide +kernel)

theorem witness_VectorFloatUnary :
    full.hasF64 = true ∧ full.modeNow 4 = some .rna ∧ full.VecReady [31, 30] [32, 16]
    ∧ full.hart.vec.Clean 30 16 (full.hart.vec.acts 0 0) ∧ (1 : BitVec 3) ∈ [(0 : BitVec 3), 1] ∧ (2 : BitVec 3) ∉ [(0 : BitVec 3), 1]
    ∧ full.VecReady [31, 31] [32] ∧ (11 : BitVec 16).toNat = 11 := by
  refine ⟨by decide +kernel, by decide +kernel, ?_, full_clean _ _ _ (by decide), by decide, by decide, ?_, rfl⟩ <;>
    (unfold State.VecReady; decide +kernel)

theorem witness_VectorMoves :
    let late := vectors 8 1
    full.VecReady [31, 31, 31] [32] ∧ full.hart.vec.Clean 31 32 (fun i => full.hart.vec.acts 0 0 (i + 1023))
    ∧ (∀ e, full.hart.vec.acts 0 0 e = true → full.hart.vec.elem 31 e 32 < full.hart.vec.vl →
        poisonHit (full.hart.vec.poison 31) (32 * full.hart.vec.elem 31 e 32) 32 = false)
    ∧ full.hart.vec.fromZero ∧ late.VecReady [31, 31] [32] ∧ ¬ late.hart.vec.fromZero ∧ late.canTrap
    ∧ (encode (.viota { d := 1, a := 2, b := 0, c := 0, msk := 0, mn := 0, ew := 2, ty := 0, sat := 0, rm := 0, imm := 0 })).isSome := by
  have h : full.hart.vec.poison 31 = 0 := by decide +kernel
  refine ⟨?_, full_clean _ _ _ (by decide), fun e _ _ => by rw [h]; simp [poisonHit], ?_, ?_, ?_, ?_, by decide⟩
  · unfold State.VecReady; decide +kernel
  · unfold Vec.fromZero; decide +kernel
  · unfold State.VecReady; decide +kernel
  · unfold Vec.fromZero; decide +kernel
  · unfold State.canTrap; decide +kernel

theorem witness_IntegerReductions :
    full.VecReady [31, 31] [32] ∧ full.hart.vec.Clean 31 32 (full.hart.vec.acts 0 0) ∧ (1 : BitVec 3) ∈ [(0 : BitVec 3), 1] :=
  ⟨by unfold State.VecReady; decide +kernel, full_clean _ _ _ (by decide), by decide⟩

/-- The carry group of registers 27 to 31, on full and on no elements. -/
theorem witness_FloatReductions :
    ((2, 2) ∈ [(1, 2), (2, 2), (3, 2), (1, 3)]) ∧ full.hasF64 = true ∧ full.VecReady [31, 31] [32]
    ∧ full.modeNow 3 = some .rup ∧ full.hart.canon = false ∧ (on full fun h => { h with rmode := 0x10 }).hart.canon = true
    ∧ full.hart.vec.active 0 0 ≠ [] ∧ (vectors 0 0).hart.vec.active 0 0 = [] ∧ (vectors 1 0).hart.vec.active 0 0 = [0]
    ∧ full.VecReady (26 :: (List.range 5).map (27 + ·)) [32] ∧ ¬ (27 ≤ 26 ∧ 26 ≤ 27 + 4) ∧ 27 + 4 < 32
    ∧ full.hart.vec.vstart < full.hart.vec.vl ∧ ¬ (vectors 8 8).hart.vec.vstart < (vectors 8 8).hart.vec.vl ∧ (∀ k, k < 5 → poisonHit (full.hart.vec.poison (27 + k)) 0 512 = false)
    ∧ full.hart.vec.Clean 26 32 (full.hart.vec.acts 0 0) := by
  refine ⟨by decide, by decide +kernel, ?_, by decide +kernel, by decide +kernel, by decide +kernel, by decide +kernel,
    by decide +kernel, by decide +kernel, ?_, by decide, by decide, by decide +kernel, by decide +kernel,
    by decide +kernel, full_clean _ _ _ (by decide)⟩
  all_goals unfold State.VecReady; decide +kernel

theorem witness_GroupMaximaAndScans :
    full.hart.vec.fromZero ∧ full.VecReady [31, 31] [32] ∧ full.hart.vec.Clean 31 32 (full.hart.vec.acts 0 0)
    ∧ (0 : BitVec 3) ∈ [(0 : BitVec 3), 1] ∧ (2 : BitVec 3) ∉ [(0 : BitVec 3), 1] ∧ full.hasF64 = true ∧ full.modeNow 1 = some .rtz := by
  refine ⟨?_, ?_, full_clean _ _ _ (by decide), by decide, by decide, by decide +kernel, by decide +kernel⟩
  · unfold Vec.fromZero; decide +kernel
  · unfold State.VecReady; decide +kernel

theorem witness_BlockFormats :
    (31 : BitVec 5) ≠ 30 ∧ full.VecReady [31, 29, 30] [32, 4] ∧ 1024 / 32 * 16 ≤ full.hart.vec.vlmax ∧ full.hart.vec.fromZero
    ∧ full.hart.vec.vl % 32 = 0 ∧ full.hart.vec.vstart < full.hart.vec.vl ∧ full.hart.vec.vl ≤ 16384
    ∧ full.hart.vec.Clean 29 32 (fun e => decide (e < full.hart.vec.vl))
    ∧ (full.hart.vec.vl + 31) / 32 * 16 ≤ full.hart.vec.vlmax ∧ full.modeNow 0 = some .rne
    ∧ (∀ e, full.hart.vec.acts 0 0 e = true → poisonHit (full.hart.vec.poison 30) (16 * (e / 32)) 16 = false)
    ∧ full.VecReady [31, 29, 30] [32, 32] ∧ full.hart.vec.Clean 31 32 (full.hart.vec.acts 0 0) := by
  have h : full.hart.vec.poison 30 = 0 := by decide +kernel
  refine ⟨by decide, ?_, by decide +kernel, ?_, by decide +kernel, by decide +kernel, by decide +kernel, full_clean _ _ _ (by decide),
    by decide +kernel, by decide +kernel, fun e _ => by rw [h]; simp [poisonHit], ?_, full_clean _ _ _ (by decide)⟩
  · unfold State.VecReady; decide +kernel
  · unfold Vec.fromZero; decide +kernel
  · unfold State.VecReady; decide +kernel

theorem witness_VectorLength :
    (full.hart.group.isSome = true ∧ full.hart.pend = false ∧ 32768 = min 65536 (min (1048576 / (full.hart.part * 32)) full.hart.tvl))
    ∧ (base.hart.group = none ∧ (base.rg 0).toNat = 0)
    ∧ (32768 = min 65536 (min (1048576 / (1 * 32)) base.hart.tvl) ∧ 0 < ((regs [(4, 1)]).rg 4).toNat ∧ base.hart.live = true
      ∧ base.hart.owner = some (base.hart.ctx, base.hart.inst) ∧ base.rest = [] ∧ base.hart.sq < 4
      ∧ (base.coreOf base.hart.core).want = [] ∧ (base.coreOf base.hart.core).waitQ = []
      ∧ (base.coreOf base.hart.core).groupOf base.hart.sq = none)
    ∧ (8 ∈ [8, 16, 32] ∧ (8 : BitVec 16) = BitVec.ofNat 16 8)
    ∧ (let p : State := { on full fun h => { h with pend := true } with
         cores := [(0, { Core.reset with g := 2, groups := [some 1, some 0], want := [1, 0] })] }
       p.hart.group.isSome = true ∧ p.hart.pend = true ∧ p.hart.waiting = false ∧ p.hart.live = true
       ∧ p.hart.owner = some (p.hart.ctx, p.hart.inst) ∧ p.rest = [] ∧ p.hart.sq < 4
       ∧ (p.coreOf 0).groups.findIdx? (· == some p.hart.sq) = some 1) := by decide +kernel

/-! ## Statements with hypotheses: memory -/

theorem opsPass_eq (s : State) (w : Who) (ops : List MemOp) (l : List (MemOp × List Part)) (h : passes s w ops = true)
    (e : places s w ops = l) : OpsPass s w ops l := e ▸ opsPass_of s w ops h

theorem reads_eq (s : State) (w : Who) (ops : List MemOp) (v : List (List Byte)) (h : passes s w ops = true)
    (m : (s.markOps (places s w ops)).mem = s.mem) (e : reads s w ops = v) (o : offHost s w ops = true := by decide +kernel) :
    s.Reads w ops v := e ▸ reads_of s w ops h m o

/-- An operation on n bytes. -/
def access (va : Int) (n : Nat) (align strict : Bool) (act : Act) (ord : Nat := 0) : MemOp :=
  { va, n, align, strict, act, ord, scope := 0 }

/-- A plain strict operation of a program on n bytes, at the scope that it has. -/
def plain (va : Int) (n : Nat) (act : Act) : MemOp := { va, n, align := false, strict := true, act, ord := 0, scope := 1 }

/-- A piece of the page of `base`. -/
def piece (va n : Nat) : Part := { va, pa := va, len := n, ordk := 0, mig := false, entry := 0x10000, page := 2 ^ 34 }

theorem base_calm : base.calm := by unfold State.calm State.Canonical State.quiet; decide +kernel

theorem full_calm : full.calm := by unfold State.calm State.Canonical State.quiet; decide +kernel

theorem base_wf : Memory.wf base.mem = true := by decide +kernel

/-- A byte at 0, eight bytes at the end of the page, `.sc` on an aligned word. -/
theorem witness_ScalarLoadsAndStores :
    base.calm ∧ Memory.wf base.mem = true
    ∧ OpsPass base base.me [plain 0 1 .load] [(plain 0 1 .load, [piece 0 1])]
    ∧ OpsPass base base.me [plain 0x3FFFFFFF8 8 (.store (toBytes 5 8))] [(plain 0x3FFFFFFF8 8 (.store (toBytes 5 8)), [piece 0x3FFFFFFF8 8])]
    ∧ OpsPass base base.me [access 0x20000 8 true true .load 4] [(access 0x20000 8 true true .load 4, [piece 0x20000 8])]
    ∧ OpsPass base base.me [access 4 4 true true (.store (toBytes 5 4)) 2] [(access 4 4 true true (.store (toBytes 5 4)) 2, [piece 4 4])] := by
  refine ⟨base_calm, base_wf, ?_, ?_, ?_, ?_⟩ <;> exact opsPass_eq _ _ _ _ (by decide +kernel) (by decide +kernel)

theorem witness_ScalarAtomics :
    base.calm ∧ Memory.wf base.mem = true
    ∧ OpsPass base base.me [access 0x3FFFFFFF8 8 true true (.amo 1 7 0)] [(access 0x3FFFFFFF8 8 true true (.amo 1 7 0), [piece 0x3FFFFFFF8 8])]
    ∧ OpsPass base base.me [access 0 1 true true (.amo 9 255 0) 3] [(access 0 1 true true (.amo 9 255 0) 3, [piece 0 1])] := by
  refine ⟨base_calm, base_wf, ?_, ?_⟩ <;> exact opsPass_eq _ _ _ _ (by decide +kernel) (by decide +kernel)

/-- Some elements of a state with eight of 32 bits. -/
def eight : State := vectors 8 0

theorem eight_clean (n w : Nat) (used : Nat → Bool) (h : n < 32) : eight.hart.vec.Clean n w used := by
  apply clean_of
  have : ∀ n, n < 32 → eight.hart.vec.poison n = 0 := by decide +kernel
  exact this n h

theorem eight_calm : eight.calm := by unfold State.calm State.Canonical State.quiet; decide +kernel

/-- Loads of eight elements; a load whose fifth element lies beyond the page. -/
theorem witness_VectorLoads :
    let es := eight.hart.vec.active 0 0
    let ops (b : Nat) := es.map fun e => access ((b + e * 4 : Nat) : Int) 4 false false .load
    let seg := es.flatMap fun e => (List.range 2).map fun i => access ((0x1000 + (e * 2 + i) * 4 : Nat) : Int) 4 false false .load
    eight.calm ∧ eight.VecReady [31] [32] ∧ eight.VecReady [31, 30] [32] ∧ eight.hart.vec.Clean 30 32 (eight.hart.vec.acts 0 0)
    ∧ OpsPass eight eight.me (ops 0x1000) (places eight eight.me (ops 0x1000))
    ∧ eight.VecReady ((List.range 2).map (30 + ·)) [32] ∧ OpsPass eight eight.me seg (places eight eight.me seg)
    ∧ eight.firstFail eight.me (ops 0x3FFFFFFF0) = some (4, 5, 0x400000000) ∧ 0 < 4 ∧ es[4]? = some 4
    ∧ OpsPass eight eight.me ((ops 0x3FFFFFFF0).take 4) (places eight eight.me ((ops 0x3FFFFFFF0).take 4)) := by
  refine ⟨eight_calm, ?_, ?_, eight_clean _ _ _ (by decide), ?_, ?_, ?_, by decide +kernel, by decide, by decide +kernel, ?_⟩
  · unfold State.VecReady; decide +kernel
  · unfold State.VecReady; decide +kernel
  · exact opsPass_of _ _ _ (by decide +kernel)
  · unfold State.VecReady; decide +kernel
  · exact opsPass_of _ _ _ (by decide +kernel)
  · exact opsPass_of _ _ _ (by decide +kernel)

/-- Stores of eight elements, of their bytes under a mask, and of none. -/
theorem witness_VectorStores :
    let es := eight.hart.vec.active 0 0
    let v := eight.hart.vec
    let ops := es.map fun e => access ((0x1000 + e * 4 : Nat) : Int) 4 true false (.store (toBytes (v.elem 31 e 32) 4))
    let seg := es.flatMap fun e => (List.range 2).map fun i =>
      access ((0x1000 + (e * 2 + i) * 4 : Nat) : Int) 4 false false (.store (toBytes (v.elem (30 + i) e 32) 4))
    let bytes := ((List.range 3).filter fun i => bitOf (v.governing 0 0) i).map fun (i : Nat) =>
      access (0x1000 + (i : Int)) 1 false false (.store (toBytes (v.elem 31 i 8) 1))
    eight.calm ∧ Memory.wf eight.mem = true ∧ eight.VecReady [31] [32] ∧ eight.VecReady [31, 30] [32]
    ∧ v.Clean 31 32 (v.acts 0 0) ∧ v.Clean 30 32 (v.acts 0 0) ∧ OpsPass eight eight.me ops (places eight eight.me ops)
    ∧ eight.VecReady ((List.range 2).map (30 + ·)) [32] ∧ OpsPass eight eight.me seg (places eight eight.me seg)
    ∧ eight.VecReady [31] [] ∧ v.vstart = 0 ∧ 3 ≤ v.vlmax / 8 ∧ OpsPass eight eight.me bytes (places eight eight.me bytes) := by
  refine ⟨eight_calm, by decide +kernel, ?_, ?_, eight_clean _ _ _ (by decide), eight_clean _ _ _ (by decide), ?_, ?_, ?_, ?_,
    by decide +kernel, by decide +kernel, ?_⟩
  · unfold State.VecReady; decide +kernel
  · unfold State.VecReady; decide +kernel
  · exact opsPass_of _ _ _ (by decide +kernel)
  · unfold State.VecReady; decide +kernel
  · exact opsPass_of _ _ _ (by decide +kernel)
  · unfold State.VecReady; decide +kernel
  · exact opsPass_of _ _ _ (by decide +kernel)

/-- One element alone at its address, and the additions of eight to one address. -/
theorem witness_VectorAtomics :
    let one := vectors 1 0
    let ops1 := (one.hart.vec.active 0 0).map fun _ => access 0 4 true true (.amo 1 0 0)
    let ops8 := (eight.hart.vec.active 0 0).map fun e => access 0 4 true true (.add (eight.hart.vec.elem 31 e 32) 0)
    one.calm ∧ Memory.wf one.mem = true ∧ one.VecReady [31, 30, 29] [32] ∧ (31 : BitVec 5) ≠ 30 ∧ (31 : BitVec 5) ≠ 29
    ∧ one.hart.vec.Clean 31 32 (one.hart.vec.acts 0 0) ∧ OpsPass one one.me ops1 (places one one.me ops1)
    ∧ OpsPass eight eight.me ops8 (places eight eight.me ops8) ∧ ∀ y ∈ places eight eight.me ops8, y.2.length = 1 := by
  refine ⟨?_, by decide +kernel, ?_, by decide, by decide, clean_of _ _ _ _ (by decide +kernel), ?_, ?_, by decide +kernel⟩
  · unfold State.calm State.Canonical State.quiet; decide +kernel
  · unfold State.VecReady; decide +kernel
  · exact opsPass_of _ _ _ (by decide +kernel)
  · exact opsPass_of _ _ _ (by decide +kernel)

/-- A scatter-addition under way; on a poisoned line of a context that has ended. -/
theorem witness_WaitsAndProbe :
    let add : Add := { core := 0, sq := 0, ctx := 0, pc := 0x20000, ins := 0, pa := 0x100, bytes := 8, val := 3 }
    let busy := { regs [(6, 4), (7, 8), (8, 12)] with adds := [add] }
    let u := (busy.adds.filter fun x => x.core == 0 && x.sq == 0).foldl State.performAdd busy
    let ended : State := { busy.setCtx 0 { busy.ctxOf 0 with ended := true } with lineMeta := [(4, ⟨true, 0, 0⟩)] }
    ((busy.rg 7).getLsbD 3 = true ∧ (busy.rg 7).getLsbD 2 = false ∧ (busy.rg 8).getLsbD 3 = true ∧ (busy.rg 8).getLsbD 2 = true
      ∧ (busy.rg 0).getLsbD 3 = false ∧ (busy.rg 0).getLsbD 2 = false ∧ (busy.rg 6).getLsbD 3 = false ∧ (busy.rg 6).getLsbD 2 = true)
    ∧ ((u.ctxOf 0).ended = (busy.ctxOf 0).ended ∧ u.adds = [])
    ∧ ((0x400000000 : Int) < 2 ^ 57 ∧ base.walk base.hart.ctx 0x400000000 = none ∧ base.walkPoisoned base.hart.ctx 0x400000000 = false
      ∧ (-1 : Int) < 0)
    ∧ (((base.walk base.hart.ctx 0x3FFFFFFFF).any fun l => decide (leafOrdk l.val < 4 ∧ l.lvl < 4)) = true
      ∧ base.walkPoisoned base.hart.ctx 0x3FFFFFFFF = false)
    ∧ (busy.adds[0]? = some add ∧ busy.linePoisoned (0x100 / 64) = false ∧ Memory.wf busy.mem = true)
    ∧ (ended.adds[0]? = some add ∧ ended.linePoisoned (0x100 / 64) = true ∧ (ended.ctxOf add.ctx).ended = true) := by
  decide +kernel

/-- The result of a check that passes. -/
def okOf {ε α : Type} (x : Except ε α) : Option α :=
  match x with
  | .ok y => some y
  | .error _ => none

theorem ok_of {ε α : Type} {x : Except ε α} {v : α} (h : okOf x = some v) : x = .ok v := by
  cases x <;> simp_all [okOf]

/-- A state with words in memory from an address. -/
def words (s : State) (pa : Nat) (ws : List Word) : State := s.writePhys pa (wordBytes ws)

/-- A state with g registers set. -/
def given (s : State) (l : List (Nat × Word)) : State :=
  on s fun h => { h with g := l.foldl (fun g x => g.setIfInBounds x.1 x.2) h.g }

/-- Headers: none, and one of a rectangle of one cell. -/
theorem witness_VectorSaveBlocks :
    let s := given base [(6, 0x400000)]
    let t := words (given full [(6, 0x400000)]) 0x400000 [0x0100000000008000, 0, 2, 1]
    let va := 0x400000
    let cell := on s fun h => { h with group := some 0, vec := { h.vec with vlmax := 512, hwm := 0x10101 } }
    let header (vlmax rect : Nat) : Nat × List Byte := (0, wordBytes [BitVec.ofNat 64 (2 ^ 56 + vlmax), 0, 2, BitVec.ofNat 64 rect, 0, 0, 0, 0])
    let saves (l : List (Nat × List Byte)) := l.map fun x => plain ((va + x.1 : Nat) : Int) x.2.length (.store x.2)
    let stores := saves [header 0 0]
    let one := saves ([(0x4840 + 8192, List.replicate 64 0), (0x40 + 128, [0])]
      ++ ((List.range 7).map fun k => (0x1040 + 2048 * k, toBytes 0 16)) ++ [header 512 0x10101])
    let load (at_ n : Nat) (strict : Bool) : MemOp := { plain (at_ : Int) n .load with strict }
    s.calm ∧ Memory.wf s.mem = true ∧ s.hart.level = .supervisor ∧ (s.rg 6).toNat % 64 = 0
    ∧ s.Reads s.me [plain 0x400000 64 .load] [List.replicate 64 0] ∧ OpsPass s s.me stores (places s s.me stores)
    ∧ (cell.calm ∧ cell.Reads cell.me [plain 0x400000 64 .load] [List.replicate 64 0] ∧ headerRefused (List.replicate 64 0) = true
      ∧ OpsPass cell cell.me one (places cell cell.me one))
    ∧ t.calm ∧ Memory.wf t.mem = true ∧ (∃ hdr, t.Reads t.me [plain 0x400000 64 .load] [hdr] ∧ headerRefused hdr = false
      ∧ t.vlmaxFor (hdrNreg hdr) = 32768 ∧ hdrVlmax hdr = 32768 ∧ t.hart.group.isSome = true ∧ min ((hdrRect hdr).ext * 512) 32768 = 512)
    ∧ t.Reads t.me [load (va + 0x4840) 64 false] [List.replicate 64 0]
    ∧ t.Reads t.me [load (va + 0x40) 1 false] [[0]]
    ∧ ∃ masks, t.Reads t.me ((List.range 7).map fun k => load (va + 0x1040 + 2048 * k) 1024 true) masks := by
  refine ⟨?_, by decide +kernel, by decide +kernel, by decide +kernel, ?_, ?_, ⟨?_, ?_, by decide +kernel, ?_⟩, ?_, by decide +kernel,
    ⟨wordBytes [0x0100000000008000, 0, 2, 1, 0, 0, 0, 0], ?_, by decide +kernel⟩, ?_, ?_,
    ⟨_, reads_of _ _ _ (by decide +kernel) (by decide +kernel)⟩⟩
  · unfold State.calm State.Canonical State.quiet; decide +kernel
  · exact reads_eq _ _ _ _ (by decide +kernel) (by decide +kernel) (by decide +kernel)
  · exact opsPass_of _ _ _ (by decide +kernel)
  · unfold State.calm State.Canonical State.quiet; decide +kernel
  · exact reads_eq _ _ _ _ (by decide +kernel) (by decide +kernel) (by decide +kernel)
  · exact opsPass_of _ _ _ (by decide +kernel)
  · unfold State.calm State.Canonical State.quiet; decide +kernel
  all_goals exact reads_eq _ _ _ _ (by decide +kernel) (by decide +kernel) (by decide +kernel)

/-- The words of a line at 0x1000, g6 its address, g7 a value. -/
def line (ws : List Word) (g7 : Word) : State := words (given base [(6, 0x1000), (7, g7)]) 0x1000 ws

/-- A sequencer parked on the line. -/
def parkedOn (s : State) (cond : ParkCond) (i : Instr) : State :=
  { s with parks := [{ key := .line 0x40, cond, agent := .seq 0 0, va := 0x1000, page := 2 ^ 34, lim := 7, pkt := toBytes ((encode i).getD 0).toNat 8 }] }

/-- A barrier that waits for one more, one that is complete, and one with OVER set; a count at its target and below it. -/
theorem witness_SharedCounters :
    let p : Part := { va := 0x1000, pa := 0x1000, len := 24, ordk := 0, mig := false, entry := 0x10000, page := 2 ^ 34 }
    let q : Part := { p with len := 16 }
    let b := line [2, 1, 0] 2
    let done := line [2, 2, 0] 2
    let word (k : Nat) (act : Act) := plain ((0x1000 + 8 * k : Nat) : Int) 8 act
    let sync (k : Nat) (act : Act) (ord scope : Nat) : MemOp := { word k act with ord, scope }
    let w := line [5, 7] 5
    let init : MemOp := plain 0x1000 24 (.store (toBytes 2 8 ++ List.replicate 16 0))
    let add := sync 1 (.amo 2 1 0) 2 0
    let set := sync 2 (.amo 1 (0 ||| 2 ^ 32) 0) 2 0
    let more := done.scatter [piece 0x1008 8] (toBytes 3 8)
    let up := sync 0 (.amo 9 5 0) 2 7
    (b.calm ∧ Memory.wf b.mem = true ∧ (b.rg 6).toNat % 64 = 0 ∧ p.mig = false ∧ p.isRemote = false
      ∧ b.checkAccess 0 .supervisor .store false true 0x1000 24 = .ok [p] ∧ b.checkAccess 0 .supervisor .load false true 0x1000 24 = .ok [p])
    ∧ (field 2 48 13 = 0 ∧ b.barrierWaited 0x40 = false ∧ b.Reads b.me [word 0 .load, word 1 .load] [toBytes 2 8, toBytes 1 8]
      ∧ OpsPass b b.me [init] [(init, [piece 0x1000 24])])
    ∧ (b.Reads b.me [word 0 .load, word 1 .load, word 2 .load] [toBytes 2 8, toBytes 1 8, toBytes 0 8] ∧ barrierReserved 2 0 = false
      ∧ (1 + 1) % 2 ^ 64 ≤ 2 ∧ OpsPass b b.me [add] [(add, [piece 0x1008 8])]
      ∧ b.markOps [(add, [piece 0x1008 8])] = b ∧ b.bytesAt [piece 0x1008 8] = toBytes 1 8)
    ∧ (done.Reads done.me [word 0 .load, word 1 .load, word 2 .load] [toBytes 2 8, toBytes 2 8, toBytes 0 8]
      ∧ done.Reads done.me [sync 2 .load 1 0] [toBytes 0 8] ∧ 2 % 2 ^ 48 ≤ 2 ∧ 1 < 2 % 2 ^ 48)
    ∧ (2 < (2 + 1) % 2 ^ 64 ∧ (0 : Nat).testBit 32 = false ∧ OpsPass done done.me [add] [(add, [piece 0x1008 8])] ∧ OpsPass more done.me [set] [(set, [piece 0x1010 8])]
      ∧ more.markOps [(set, [piece 0x1010 8])] = more ∧ more.bytesAt [piece 0x1010 8] = toBytes 0 8)
    ∧ ((parkedOn done .barrier (.bwait ⟨5, 6, 0, 0⟩)).lineWord 0x40 0 % 2 ^ 48 ≤ (parkedOn done .barrier (.bwait ⟨5, 6, 0, 0⟩)).lineWord 0x40 1
      ∧ done.linePoisoned 0x40 = false)
    ∧ (w.checkAccess 0 .supervisor .store false true 0x1000 16 = .ok [q] ∧ w.checkAccess 0 .supervisor .load false true 0x1000 16 = .ok [q]
      ∧ w.Reads w.me [word 0 .load, word 1 .load] [toBytes 5 8, toBytes 7 8] ∧ ofBytes (toBytes 7 8) < 8
      ∧ OpsPass w w.me [up] [(up, [piece 0x1000 8])] ∧ w.markOps [(up, [piece 0x1000 8])] = w
      ∧ w.bytesAt [piece 0x1000 8] = toBytes 5 8 ∧ w.Reads w.me [sync 0 .load 1 7] [toBytes 5 8] ∧ 5 ≤ 5 ∧ 5 < 6)
    ∧ (5 ≤ (parkedOn w (.watermark 5) (.wmbind ⟨5, 6, 7, 0⟩)).lineWord 0x40 0)
    ∧ ((on w fun h => { h with wmark := some 0x1000 }).hart.wmark = some 0x1000
      ∧ (on w fun h => { h with wmark := some 0x1000 }).Reads (on w fun h => { h with wmark := some 0x1000 }).me [word 1 .load] [toBytes 7 8]
      ∧ (on w fun h => { h with wmark := some 0x1000 }).Reads (on w fun h => { h with wmark := some 0x1000 }).me [sync 0 .load 1 7] [toBytes 5 8]) := by
  refine ⟨⟨?_, by decide +kernel, by decide +kernel, rfl, rfl, ok_of (by decide +kernel), ok_of (by decide +kernel)⟩,
    ⟨by decide, by decide +kernel, ?_, ?_⟩, ⟨?_, by decide, by decide, ?_, ?_, by decide +kernel⟩,
    ⟨?_, ?_, by decide, by decide⟩, ⟨by decide, by decide, ?_, ?_, ?_, by decide +kernel⟩, by decide +kernel,
    ⟨ok_of (by decide +kernel), ok_of (by decide +kernel), ?_, by decide, ?_, ?_, by decide +kernel, ?_, by decide, by decide⟩,
    by decide +kernel, ⟨rfl, ?_, ?_⟩⟩
  · unfold State.calm State.Canonical State.quiet; decide +kernel
  all_goals first
    | exact marks_of _ _ (by decide +kernel)
    | exact reads_eq _ _ _ _ (by decide +kernel) (by decide +kernel) (by decide +kernel)
    | exact opsPass_eq _ _ _ _ (by decide +kernel) (by decide +kernel)

/-- A staged table of two states: transition 0 from 0 to 1, transition 1 from any to any, each of any kind. -/
def twoStates : BitVec 512 := BitVec.ofNat 512 (2 ^ 56 + 2 * 2 ^ 52 + 0xA001 * 2 ^ 128 + 0xA0FF * 2 ^ 144)

/-- The line at 0x100000 bound, if it is, to that table, in a page with STAGED set; g6 its address, g7 64. -/
def stagedLine (binds : List Bind) : State :=
  let s := words (given base [(6, 0x100000), (7, 64)]) 0x10000 [0x20000000000003F3]
  s.setCtx 0 { s.ctxOf 0 with slots := [(0, twoStates)], binds }

/-- The binding of the line. -/
def bound : Bind := { num := 5, va := 0x100000, size := 64, slot := 0, extents := [(0x100000, 0x100000, 64)] }

theorem witness_StagedAccesses :
    let s := stagedLine [bound]
    let e (t : Nat) := field twoStates.toNat (128 + 16 * t) 16
    s.calm ∧ Memory.wf s.mem = true ∧ Table.wf Meta.zero s.lineMeta = true
    ∧ (0x100000 : Int) % 8 = 0 ∧ s.checkPart [] 0 .supervisor .load 0x100000 8 = .ok (piece 0x100000 8)
    ∧ s.checkPart [] 0 .supervisor .load 0x100000 1 = .ok (piece 0x100000 1)
    ∧ s.checkPart [] 0 .supervisor .store 0x100000 8 = .ok (piece 0x100000 8)
    ∧ s.foreignLine 0 0x4000 = false ∧ s.tableAt 0 0x4000 = some twoStates
    ∧ ((e 0).testBit 15 = true ∧ field (e 0) 12 2 = 2 ∧ field (e 0) 4 4 = (s.metaOf 0x4000).state.toNat ∧ field (e 0) 0 4 ≠ 15)
    ∧ ((e 1).testBit 15 = true ∧ field (e 1) 12 2 = 2 ∧ field (e 1) 4 4 = 15 ∧ field (e 1) 0 4 = 15)
    ∧ s.linePoisoned 0x4000 = false
    ∧ (s.writePhys 0x100000 (toBytes 64 8)).walk 0 0x100000 = s.walk 0 0x100000 := by
  refine ⟨?_, by decide +kernel, by decide +kernel, by decide, ok_of (by decide +kernel), ok_of (by decide +kernel),
    ok_of (by decide +kernel), by decide +kernel⟩
  unfold State.calm State.Canonical State.quiet; decide +kernel

theorem witness_StagedObjects :
    let s := stagedLine []
    let t := stagedLine [bound]
    let img := toBytes twoStates.toNat 64
    let k := words s 0x100000 ((List.range 8).map (wordAt img <| 8 * ·))
    let page : Leaf := { entry := 0x10000, val := 0x20000000000003F3, lvl := 3, base := 0, size := 17179869184 }
    (k.calm ∧ Table.wf Meta.zero k.lineMeta = true ∧ 0x100000 % 64 = 0 ∧ 15 < 16 ∧ (∀ b ∈ (k.ctxOf 0).binds, b.slot ≠ 15)
      ∧ k.Reads k.me [plain 0x100000 64 .load] [img] ∧ imageRefused (BitVec.ofNat 512 (ofBytes img)) = false)
    ∧ (s.calm ∧ 64 ≤ 64 ∧ 64 ≤ 2 ^ 40 ∧ s.rangePages 0 (64 / 16384 + 2) 0x100000 64 = .ok [(0x100000, page, 64)]
      ∧ bindDenied .supervisor page = false ∧ leafMig page.val = false ∧ (∃ x ∈ (s.ctxOf 0).slots, x.1 = (0 : BitVec 35).toNat % 16)
      ∧ (s.ctxOf 0).binds.length < 64 ∧ s.alreadyBound [(0x100000, 0x100000, 64)] = false)
    ∧ (t.calm ∧ (t.ctxOf 0).w0 ≠ 0 ∧ (t.ctxOf 0).binds.find? (fun b => b.va == 0x100000 && b.size == 64) = some bound
      ∧ t.parkedOn bound = false)
    ∧ t.checkPart [] 0 .supervisor .load 0x100000 1 = .ok (piece 0x100000 1) := by
  refine ⟨⟨?_, by decide +kernel, by decide, by decide, by decide +kernel, ?_, by decide +kernel⟩,
    ⟨?_, by decide, by decide, ok_of (by decide +kernel), by decide +kernel⟩, ⟨?_, by decide +kernel⟩, ok_of (by decide +kernel)⟩
  · unfold State.calm State.Canonical State.quiet; decide +kernel
  · exact reads_eq _ _ _ _ (by decide +kernel) (by decide +kernel) (by decide +kernel)
  · unfold State.calm State.Canonical State.quiet; decide +kernel
  · unfold State.calm State.Canonical State.quiet; decide +kernel

/-- An access of the acting sequencer parked on the line behind one that stays illegal, with a bound of one cycle; the line's state
is 2. -/
def parkedBehind (i : Instr) (trn kind : Nat) : State × Park :=
  let q : Park := { key := .line 0x4000, cond := .staged 0 trn kind, agent := .seq 0 0, va := 0x100008, page := 2 ^ 34, lim := 1
                    pkt := toBytes ((encode i).getD 0).toNat 8 }
  let other : Park := { q with cond := .staged 0 0 2, agent := .seq 0 1 }
  ({ on (stagedLine [bound]) (fun h => { h with tvec := 0x30000 }) with parks := [other, q], lineMeta := [(0x4000, ⟨false, 2, 0⟩)] }, q)

/-- A `strn`, a `sld` and a `sst` of transition 1. -/
theorem witness_ParkedAccesses :
    let f : SgF := { d := 5, a := 6, b := 7, trn := 1, scope := 0, off := 0 }
    ∀ y ∈ [(Instr.strn { f with b := 0 }, 2, 0x6A), (.sld 3 { f with b := 0 }, 0, 0x68), (.sst 3 { f with d := 0 }, 1, 0x69)],
      let x := parkedBehind y.1 1 y.2.1
      let s := x.1
      let q := x.2
      let e := field twoStates.toNat 144 16
      s.parks[1]? = some q ∧ q.agent = .seq s.hart.core s.hart.sq ∧ s.calm ∧ opOf q.word = y.2.2 ∧ (sgOf q.word).trn.toNat = 1
      ∧ 0 = s.hart.ctx ∧ s.lineMoving 0x4000 = false ∧ s.tableAt 0 0x4000 = some twoStates ∧ e.testBit 15 = true
      ∧ field e 12 2 = 2 ∧ field e 4 4 = 15 ∧ s.linePoisoned 0x4000 = false
      ∧ (∀ m p, m < 1 → s.parks[m]? = some p → s.parkReady p = false)
      ∧ (s.writePhys 0x100008 (toBytes (s.rg 7).toNat 8)).walk 0 0x100008 = s.walk 0 0x100008 ∧ q.lim ≠ 0 ∧ s.canTrap := by
  intro f y hy
  simp only [List.mem_cons, List.not_mem_nil, or_false] at hy
  have ready (i : Instr) (kind : Nat) (h : ∀ p ∈ (parkedBehind i 1 kind).1.parks[0]?, (parkedBehind i 1 kind).1.parkReady p = false) :
      ∀ m p, m < 1 → (parkedBehind i 1 kind).1.parks[m]? = some p → (parkedBehind i 1 kind).1.parkReady p = false := by
    intro m p hm hp
    obtain rfl : m = 0 := by omega
    exact h p hp
  unfold State.calm State.Canonical State.quiet State.canTrap
  rcases hy with rfl | rfl | rfl <;>
    exact ⟨rfl, rfl, by decide +kernel, by decide +kernel, by decide +kernel, rfl, by decide +kernel, by decide +kernel, by decide +kernel,
      by decide +kernel, by decide +kernel, by decide +kernel, ready _ _ (by decide +kernel), by decide +kernel, by decide, by decide +kernel⟩

/-! ## Statements with hypotheses: column registers -/

/-- A column of a type at a place. -/
def column (base len bound : Nat) (ew : BitVec 3) (pos : Bool) : Desc :=
  { base, isDef := true, pend := false, midop := false, pos, ew, ty := 0, bound, len, run := 0, cont := 0, phase := 0, curb := 0
    cura := 0, aux := 0 }

/-- Columns 1 to 5: an empty position column for two rows, two of three rows of 32 bits, one of three positions, one of 64-bit
numbers. -/
def columns : State :=
  on (vectors 512 0) fun h => { h with
    cols := ((((h.cols.set 1 (column 0x8000 0 2 3 true).bits).set 2 (column 0x9000 3 3 2 false).bits).set 3
      (column 0xA000 3 3 2 false).bits).set 4 (column 0xB000 3 3 3 true).bits).set 5 (column 0xC000 0 4 3 false).bits }

theorem columns_calm : columns.calm := by unfold State.calm State.Canonical State.quiet; decide +kernel

theorem column_of (s : State) (d : Desc) (x : Nat → Nat)
    (h : ∀ i, i < d.len → (passes s s.me [d.rowOp i true .load] && offHost s s.me [d.rowOp i true .load]) = true
      ∧ (s.markOps (places s s.me [d.rowOp i true .load])).mem = s.mem ∧ (reads s s.me [d.rowOp i true .load]).map ofBytes = [x i]) :
    s.Column d x := by
  intro i hi
  have h := h i hi
  have p := Bool.and_eq_true_iff.1 h.1
  have r := reads_of _ _ _ p.1 h.2.1 p.2
  have e := h.2.2
  revert r e
  generalize reads s s.me [d.rowOp i true .load] = rs
  intro r e
  match rs with
  | [] => simp at e
  | [b] => exact ⟨b, r, by simpa using e⟩
  | b :: c :: t => simp at e

theorem issues_of (s : State) (dests srcs : List Named) (cont : Nat) (f64 : Bool) (f : s.hasF64 = true)
    (h : (∀ x ∈ dests ++ srcs, x.2.isDef = true) ∧ destsMeet dests srcs = false
      ∧ (∀ x ∈ dests, x.2.pend = true ∨ x.2.midop = true → x.2.cont = cont)
      ∧ (∀ x ∈ dests, ∀ y ∈ dests, x.2.pend = y.2.pend ∧ x.2.midop = y.2.midop ∧ x.2.run = y.2.run ∧ x.2.cont = y.2.cont
          ∧ x.2.phase = y.2.phase ∧ x.2.cura = y.2.cura ∧ x.2.curb = y.2.curb ∧ x.2.aux = y.2.aux)
      ∧ s.hart.group.isSome = true) :
    s.ColIssues dests srcs cont f64 :=
  ⟨h.1, h.2.1, h.2.2.1, fun x hx y hy => by simp [Desc.contFields, h.2.2.2.1 x hx y hy], h.2.2.2.2, fun _ _ => f⟩

theorem witness_ColumnsDefineAndLoad :
    let s := given columns [(6, 0x40), (7, 1), (8, 1)]
    let a := s.hart.col 2
    (0x40 % 64 = 0 ∧ 1 ≤ 1 ∧ 1 < 2 ^ 40 ∧ 0x40 + 1 * (32 / 8) ≤ 2 ^ 57 ∧ ((1 : BitVec 4) ≠ 15) ∧ (15 : BitVec 5).toNat < 16)
    ∧ (¬ (0x40 % 64 = 0 ∧ 1 ≤ 0) ∧ s.canTrap) ∧ a.isDef = true
    ∧ s.calm ∧ s.ColIssues [] [(2, a)] 0 false ∧ s.VecReady [31] [32]
    ∧ ∃ vals, s.Reads s.me (((s.hart.vec.active 0 0).filter fun e => decide (1 + e < a.len)).map fun e => a.rowOp (1 + e) false .load) vals := by
  refine ⟨by decide, ⟨by decide, ?_⟩, by decide +kernel, ?_, ?_, ?_, ⟨_, reads_of _ _ _ (by decide +kernel) (by decide +kernel)⟩⟩
  · unfold State.canTrap; decide +kernel
  · unfold State.calm State.Canonical State.quiet; decide +kernel
  · exact issues_of _ _ _ _ _ (by decide +kernel) (by decide +kernel)
  · unfold State.VecReady; decide +kernel

theorem columns_col (n : BitVec 5) (h : n = 2 ∨ n = 3 ∨ n = 4) : columns.Column (columns.hart.col n) fun _ => 0 := by
  rcases h with rfl | rfl | rfl <;> exact column_of _ _ _ (by decide +kernel)

/-- The rows that `csel`, `cjoin`, `cprj`, `cgrp`, `cagg` and `cst` would append, two of three of which fit `csel`. -/
theorem witness_ColumnStreams :
    let s := columns
    let c (n : BitVec 5) := s.hart.col n
    let rows := (fitRows [2] [0] (pickStream (fun i => if keyCond 2 0 0 0 0 then some i else none) 3 .start)).1
    s.calm ∧ s.hart.preq = false ∧ s.VecReady [31] [64] ∧ s.hart.vec.Clean 31 64 (fun e => decide (e < 512))
    ∧ s.Column (c 2) (fun _ => 0) ∧ s.Column (c 3) (fun _ => 0) ∧ s.Column (c 4) (fun _ => 0)
    ∧ (c 1).pos = true ∧ (c 4).pos = true ∧ cmpForbidden (c 2).ty 0 = false ∧ (c 3).ew = (c 2).ew ∧ (c 3).ty = (c 2).ty
    ∧ s.ColIssues [(1, c 1)] [(2, c 2)] 0 true ∧ s.ColIssues [(1, c 1)] [(2, c 2), (3, c 3)] 0 true
    ∧ s.ColIssues [(1, c 1), (4, c 4)] [(2, c 2), (3, c 3)] 0 true ∧ s.ColIssues [(5, c 5), (1, c 1)] [(2, c 2)] 0 true
    ∧ ((c 5).ew = 3 ∧ (c 5).ty = 0 ∧ (c 5).pos = false) ∧ Agg.typed .cnt (c 5) (c 2) = true ∧ Agg.typed .sum (c 5) (c 2) = true
    ∧ Agg.typed .max (c 3) (c 2) = true ∧ rows.length = 2
    ∧ OpsPass s s.me (rowStores [c 1] rows) (places s s.me (rowStores [c 1] rows)) := by
  refine ⟨columns_calm, by decide +kernel, ?_, ?_, columns_col 2 (by simp), columns_col 3 (by simp), columns_col 4 (by simp),
    by decide +kernel, by decide +kernel, by decide +kernel, by decide +kernel, by decide +kernel, ?_, ?_, ?_, ?_, by decide +kernel,
    by decide +kernel, by decide +kernel, by decide +kernel, by decide +kernel, opsPass_of _ _ _ (by decide +kernel)⟩
  · unfold State.VecReady; decide +kernel
  · exact clean_of _ _ _ _ (by decide +kernel)
  all_goals exact issues_of _ _ _ _ _ (by decide +kernel) (by decide +kernel)

theorem witness_ColumnOrder :
    let s := columns
    let a := s.hart.col 2
    let d := s.hart.col 1
    s.calm ∧ s.hart.preq = false ∧ s.Column a (fun _ => 0) ∧ d.pos = true ∧ s.ColIssues [(1, d)] [(2, a)] 0 true
    ∧ OpsPass s s.me (rowStores [d] (fitRows [2] [0] (rankStream [0, 1, 2] ⟨0, 0, 0, 0⟩)).1)
        (places s s.me (rowStores [d] (fitRows [2] [0] (rankStream [0, 1, 2] ⟨0, 0, 0, 0⟩)).1)) := by
  refine ⟨columns_calm, by decide +kernel, columns_col 2 (by simp), by decide +kernel, ?_, opsPass_of _ _ _ (by decide +kernel)⟩
  exact issues_of _ _ _ _ _ (by decide +kernel) (by decide +kernel)

/-! ## Statements with hypotheses: tile tasks -/

theorem attempt_of {α : Type} (s : State) (m : M α) (a : α)
    (h : okOf (s.attempt m).1 = some a) : s.attempt m = (.ok a, (s.attempt m).2) :=
  Prod.ext (ok_of h) rfl

/-- The bytes of a record with a number of waits, its first wait entry and its steps, each of four words. -/
def record (waits : Nat) (entry : List Word) (steps : List (List Word)) : List Byte :=
  wordBytes ([BitVec.ofNat 64 (2 ^ 56 + steps.length * 2 ^ 48 + waits * 2 ^ 28), 1, 0, 0x600000, 0, 0, 0, 0]
    ++ (entry ++ entry ++ List.replicate 16 0).take 16 ++ steps.flatten)

/-- A ZERO step of every tile and the partial sums. -/
def zeroStep : List Word := [0x06FF800000000000, 0, 0, 0]

/-- A task of context 0 in a state, its record at 0x1000. -/
def task (image : List Byte) (state : TaskState) : Task := { newTask 0x8000000000000000 0 0 .supervisor 0x1000 image with state }

/-- A state whose cluster 0 holds one task, the line at 0x100000 bound; g6 is the handle. -/
def tasks (t : Task) : State := { given (stagedLine [bound]) [(6, 0x8000000000000000)] with tasks := [t] }

/-- Its STATUS. -/
def statusPart : List Part := [piece 0x1010 8]

/-- The store of its STATUS in a state. -/
def statusOf (t : Task) (state : TaskState) : MemOp := statusStore (0x1000 + 16) (toBytes ({ t with state } : Task).status.toNat 8)

theorem posts_of (s : State) (w : Who) (o : MemOp) (ps : List Part) (h : passes s w [o] = true) (e : places s w [o] = [(o, ps)]) :
    s.Posts w o ps := opsPass_eq s w [o] _ h e

/-- The accepted record, one with a header that is refused, and one with an entry that is refused. -/
theorem witness_TileTasks_tenq :
    let r := record 0 [] [zeroStep]
    let bad := record 0 [1] [zeroStep]
    let state (r : List Byte) := (given base [(6, 0x1000)]).writePhys 0x1000 r
    let s := state r
    let b := state bad
    let crowd := { s with tasks := List.replicate 128 (task r .ready) }
    s.calm ∧ 0x1000 % 64 = 0
    ∧ (base.calm ∧ (given base [(6, 0x1000)]).Reads base.me [plain 0x1000 64 .load] [List.replicate 64 0]
        ∧ headerCode (List.replicate 64 0) ≠ 0)
    ∧ (s.Reads s.me [plain 0x1000 64 .load] [r.take 64] ∧ headerCode (r.take 64) = 0 ∧ tkSteps (r.take 64) = 1
      ∧ s.Reads s.me [plain 0x1040 128 .load] [(r.drop 64).take 128] ∧ s.Reads s.me [plain 0x10C0 32 .load] [r.drop 192]
      ∧ recordCode r = none ∧ s.queueFull 0 0 = false
      ∧ s.Posts (newTask 0x8000000000000000 0 0 .supervisor 0x1000 r).who (statusStore (0x1000 + 16) (toBytes 0 8)) statusPart)
    ∧ (b.Reads b.me [plain 0x1040 128 .load] [(bad.drop 64).take 128] ∧ headerCode bad = 0 ∧ recordCode bad = some (3, 0xF0))
    ∧ (crowd.calm ∧ crowd.queueFull 0 0 = true) := by
  refine ⟨?_, by decide, ⟨base_calm, ?_, by decide +kernel⟩, ⟨?_, by decide +kernel, by decide +kernel, ?_, ?_, by decide +kernel, by decide +kernel, ?_⟩,
    ⟨?_, by decide +kernel, by decide +kernel⟩, ⟨?_, by decide +kernel⟩⟩
  · unfold State.calm State.Canonical State.quiet; decide +kernel
  · exact reads_eq _ _ _ _ (by decide +kernel) (by decide +kernel) (by decide +kernel)
  · exact reads_eq _ _ _ _ (by decide +kernel) (by decide +kernel) (by decide +kernel)
  · exact reads_eq _ _ _ _ (by decide +kernel) (by decide +kernel) (by decide +kernel)
  · exact reads_eq _ _ _ _ (by decide +kernel) (by decide +kernel) (by decide +kernel)
  · exact posts_of _ _ _ _ (by decide +kernel) (by decide +kernel)
  · exact reads_eq _ _ _ _ (by decide +kernel) (by decide +kernel) (by decide +kernel)
  · unfold State.calm State.Canonical State.quiet; decide +kernel

/-- No task, a running one between two points, a queued one. -/
theorem witness_TileTasks_tcancel :
    let h : Word := 0x8000000000000000
    let run := { task (record 0 [] [zeroStep, zeroStep]) .running with snext := 1 }
    let s := tasks run
    let q := tasks (task (record 0 [] [zeroStep]) .queued)
    wbits h 53 11 = 2 ^ 10 ∧ s.rg 6 = h ∧ (base.tasks.find? fun t => t.h == h && t.ctx == 0) = none
    ∧ ((s.tasks.find? fun t => t.h == h && t.ctx == 0).map (·.state) = some .running ∧ run.state = .running ∧ run.atPoint = false
      ∧ s.taskParked h = false ∧ run.stopping = false ∧ ∀ r ∈ s.remotes, r.agent ≠ .task h)
    ∧ ((q.tasks.find? fun t => t.h == h && t.ctx == 0).map (fun t => (t.state, t.owes)) = some (.queued, []) ∧ q.calm
      ∧ tkSigs (record 0 [] [zeroStep]) = 0
      ∧ q.Posts (task (record 0 [] [zeroStep]) .queued).who (statusOf (task (record 0 [] [zeroStep]) .queued).clear .cancelled)
          statusPart) := by
  refine ⟨by decide, by decide +kernel, by decide +kernel, by decide +kernel, by decide +kernel, ?_, by decide +kernel, ?_⟩
  · unfold State.calm State.Canonical State.quiet; decide +kernel
  · exact posts_of _ _ _ _ (by decide +kernel) (by decide +kernel)

theorem tasks_taskOf (t : Task) (h : t.h = 0x8000000000000000) : (tasks t).taskOf 0x8000000000000000 = some t := by
  simp [tasks, State.taskOf, h]

/-- A waiting task whose only wait is done, and one with two; a task at its end; a task that an engine is free for. -/
theorem witness_TileTasks_scheduler :
    let h : Word := 0x8000000000000000
    let one := task (record 0 [] [zeroStep]) .queued
    let two := task (record 2 [0x100000, 0] [zeroStep]) .queued
    let ready := task (record 0 [] [zeroStep]) .ready
    let ended := { task (record 0 [] [zeroStep]) .running with snext := 1 }
    (tasks one).calm ∧ (tasks one).taskOf h = some one ∧ (∀ p ∈ (tasks one).parks, p.agent ≠ .task h)
    ∧ (one.state = .queued ∧ one.owes = [] ∧ tkWaits one.image ≤ one.nextWait
      ∧ (tasks one).Posts one.who (statusOf one .ready) statusPart)
    ∧ (two.state = .queued ∧ two.owes = [] ∧ two.nextWait + 1 < tkWaits two.image ∧ (tasks two).taskOf h = some two
      ∧ ∃ v, (tasks two).attempt (two.transition (tkAddr two.image 0) (wbits (tkEntry two.image 0 1) 60 4)
          (wbits (tkEntry two.image 0 1) 53 3)) = (.ok (), v))
    ∧ (ready.state = .ready)
    ∧ (ended.state = .running ∧ ended.owes = [] ∧ ended.stopping = false ∧ tkSteps ended.image ≤ ended.snext ∧ tkSigs ended.image = 0
      ∧ (tasks ended).Posts ended.who (statusOf ended.clear .done) statusPart)
    ∧ ((tasks ready).nextTask 0 = some ready ∧ ready.h = h ∧ (tasks ready).enginesUsed 0 < 8 ∧ ready.cancelReq = false
      ∧ ready.suspendReq = false ∧ (tasks ready).Posts ready.who (statusOf ready .running) statusPart) := by
  refine ⟨?_, tasks_taskOf _ rfl, by decide +kernel, ⟨rfl, rfl, by decide +kernel, ?_⟩,
    ⟨rfl, rfl, by decide +kernel, tasks_taskOf _ rfl, _, attempt_of _ _ _ (by decide +kernel)⟩, rfl,
    ⟨rfl, rfl, rfl, by decide +kernel, by decide +kernel, ?_⟩,
    ⟨by decide +kernel, rfl, by decide +kernel, rfl, rfl, ?_⟩⟩
  · unfold State.calm State.Canonical State.quiet; decide +kernel
  all_goals exact posts_of _ _ _ _ (by decide +kernel) (by decide +kernel)

/-- An interrupted task whose spill area reads zero: its start. -/
def stopped : Task := task (record 0 [] [zeroStep]) .interrupted

/-- The operations that read its spill area. -/
def spilled : List MemOp :=
  (List.range 8).map (fun n => plain (0x600000 + 24576 * n : Nat) 24576 .load) ++ [plain (0x600000 + 196608 : Nat) 64 .load]

theorem spilled_reads : (tasks stopped).Reads stopped.who spilled (reads (tasks stopped) stopped.who spilled) :=
  reads_of _ _ _ (by decide +kernel) (by decide +kernel)

theorem tasks_calm (t : Task) : (tasks t).calm := 
  ⟨show (given (stagedLine [bound]) [(6, 0x8000000000000000)]).Canonical by unfold State.Canonical; decide +kernel,
    rfl, rfl, show bitOf base.reliab.errinj.toNat 63 = false by decide +kernel, rfl, rfl, rfl, rfl⟩

/-- The task as it comes back. -/
def restored : Task :=
  { stopped.clear with
    acc := Vector.ofFn fun n : Fin 8 =>
      BitVec.ofNat 196608 (ofBytes (((reads (tasks stopped) stopped.who spilled).map fun b => (b, false)).getD n.val ([], false)).1)
    suspendReq := false }

theorem restore_run : (tasks stopped).attempt stopped.restore = (.ok restored, tasks stopped) := by
  unfold State.attempt Task.restore
  have e : ({ tasks stopped with rix := 0 } : State) = tasks stopped := rfl
  have h := perform_reads (tasks_calm stopped).2 spilled_reads (by decide +kernel)
  have pos : ofBytes (((reads (tasks stopped) stopped.who spilled).map fun b => (b, false)).getD 8 ([], false)).1 = 0 := by
    decide +kernel
  rw [e]
  refine (M.bind_ok h).trans ?_
  simp only [pos]
  rw [if_neg (by decide +kernel)]
  rfl

theorem witness_TileTasks_resume :
    (tasks stopped).nextTask 0 = some stopped ∧ stopped.state = .interrupted
    ∧ (tasks stopped).attempt stopped.restore = (.ok restored, tasks stopped) ∧ (tasks stopped).calm
    ∧ (tasks stopped).enginesUsed 0 < 8 ∧ stopped.cancelReq = false ∧ (tasks stopped).tasks = [stopped]
    ∧ restored = { stopped with
        a := restored.a, b := restored.b, acc := restored.acc, psum := none, snext := restored.snext, knext := restored.knext
        suspendReq := false }
    ∧ ((tasks stopped).settle stopped.who.agent).Posts stopped.who (statusOf restored .running) statusPart :=
  ⟨by decide +kernel, rfl, restore_run, tasks_calm _, by decide +kernel, rfl, rfl, rfl,
    posts_of _ _ _ _ (by decide +kernel) (by decide +kernel)⟩


/-- A RUNNING task of one step. -/
def running (step : List Word) : Task := task (record 0 [] [step]) .running

/-- A state with one task, and no table bound. -/
def alone (t : Task) : State := { base with tasks := [t] }

theorem alone_taskOf (t : Task) (h : t.h = 0x8000000000000000) : (alone t).taskOf 0x8000000000000000 = some t := by
  simp [alone, State.taskOf, h]

theorem alone_calm (t : Task) : (alone t).calm :=
  ⟨base_calm.1, rfl, rfl, show bitOf base.reliab.errinj.toNat 63 = false by decide +kernel, rfl, rfl, rfl, rfl⟩

theorem atStep_of (t : Task) (code : Nat) (h : t.h = 0x8000000000000000)
    (g : t.state = .running ∧ (alone t).taskParked 0x8000000000000000 = false ∧ t.owes = [] ∧ t.cancelReq = false ∧ t.suspendReq = false
      ∧ t.snext < tkSteps t.image ∧ wbits (tkStep t.image t.snext 0) 56 8 = code) :
    (alone t).AtStep t 0x8000000000000000 code := ⟨alone_taskOf t h, g⟩

/-- A load of a step. -/
def stepLoad (va : Int) (n : Nat) : MemOp := { va, n, align := false, strict := false, act := .load, ord := 0, scope := 1 }

/-- A load of a step gives its bytes at once. -/
def stepReads (s : State) (t : Task) (va : Int) (n : Nat) (bs : List Byte) : Bool :=
  passes s t.who [stepLoad va n] && decide ((s.markOps (places s t.who [stepLoad va n])).mem = s.mem)
    && decide (reads s t.who [stepLoad va n] = [bs]) && offHost s t.who [stepLoad va n]

theorem stepReads_of (s : State) (t : Task) (va : Int) (n : Nat) (bs : List Byte) (h : stepReads s t va n bs = true) :
    s.Reads t.who [stepLoad va n] [bs] := by
  simp only [stepReads, Bool.and_eq_true, decide_eq_true_eq] at h
  exact reads_eq _ _ _ _ h.1.1.1 h.1.1.2 h.1.2 h.2

theorem panel_dense (s : State) (t : Task) (i k : Nat) (rows : List LatchRow) (bytes : Nat → List Byte)
    (hs : wbits (tkStep t.image i 0) 48 1 ≠ 1) (hg : wbits (tkStep t.image i 0) 49 1 ≠ 1)
    (hb : 0 ≤ t.panel i k ∧ t.panel i k < 2 ^ 57 ∧ rows.length = 64)
    (e : ∀ r, r < 64 →
      let a := t.panel i k + (r * wbits (tkStep t.image i 3) 0 32 : Nat)
      let fmt := wbits (tkStep t.image i 0) 52 4
      a % rowAlign fmt = 0 ∧ stepReads s t a (rowBytes fmt) (bytes r) = true ∧ rows[r]? = some (denseRow fmt (bytes r))) :
    s.PanelRows t i k rows := by
  unfold State.PanelRows
  simp only [if_neg hs]
  refine ⟨hb.1, hb.2.1, hb.2.2, fun r hr => ⟨r, fun h => absurd h hg, fun _ => rfl, ?_⟩⟩
  rw [if_neg fun h => hg h.1]
  have e := e r hr
  exact ⟨e.1, _, stepReads_of _ _ _ _ _ e.2.1, e.2.2⟩

theorem panel_gather (s : State) (t : Task) (i k : Nat) (bs : List Byte) (hs : wbits (tkStep t.image i 0) 48 1 ≠ 1)
    (hg : wbits (tkStep t.image i 0) 49 1 = 1) (hb : 0 ≤ t.panel i k ∧ t.panel i k < 2 ^ 57)
    (e : ∀ r, r < 64 → stepReads s t ((wbits (tkStep t.image i 2) 0 57 + 4 * r : Nat) : Int) 4 (List.replicate 4 0) = true)
    (f : let fmt := wbits (tkStep t.image i 0) 52 4
      let a := t.panel i k + (0 * wbits (tkStep t.image i 3) 0 32 : Nat)
      a % rowAlign fmt = 0 ∧ stepReads s t a (rowBytes fmt) bs = true) :
    s.PanelRows t i k (List.replicate 64 (denseRow (wbits (tkStep t.image i 0) 52 4) bs)) := by
  unfold State.PanelRows
  simp only [if_neg hs]
  refine ⟨hb.1, hb.2, by rw [List.length_replicate], fun r hr => ⟨0, fun _ => ⟨_, stepReads_of _ _ _ _ _ (e r hr), by decide⟩,
    fun h => absurd hg h, ?_⟩⟩
  rw [if_neg fun h => absurd h.2 (by decide)]
  exact ⟨f.1, _, stepReads_of _ _ _ _ _ f.2, by rw [List.getElem?_replicate, if_pos hr]⟩

/-- LDA of dense rows of 4-bit blocks, 18 bytes apart. -/
def lda : Task := running [0x0100000000000000, 0x9000, 0, 18]

/-- LDB of gathered rows of 8-bit integers, whose indices are all 0. -/
def ldb : Task := running [0x0232000000000000, 0x9000, 0xA000, 0]

/-- LDA of no elements under empty bitmaps. -/
def sparse : Task := (running [0x0131000000000000, 0x9000, 0, 0]).setSlot false 0 { LatchSlot.start with maps := 0 }

theorem witness_TileSteps_dense :
    (alone lda).calm ∧ (alone lda).AtStep lda 0x8000000000000000 1
    ∧ (alone lda).PanelRows lda 0 0 (List.replicate 64 (denseRow 0 (List.replicate 18 0))) :=
  ⟨alone_calm _, atStep_of _ _ rfl (by decide +kernel),
    panel_dense _ _ _ _ _ (fun _ => List.replicate 18 0) (by decide +kernel) (by decide +kernel) (by decide +kernel) (by decide +kernel)⟩

theorem witness_TileSteps_gather :
    (alone ldb).AtStep ldb 0x8000000000000000 2
    ∧ (alone ldb).PanelRows ldb 0 0 (List.replicate 64 (denseRow 3 (List.replicate 32 0))) :=
  ⟨atStep_of _ _ rfl (by decide +kernel),
    panel_gather _ _ _ _ _ (by decide +kernel) (by decide +kernel) (by decide +kernel) (by decide +kernel) (by decide +kernel)⟩

theorem witness_TileSteps_sparse :
    (alone sparse).AtStep sparse 0x8000000000000000 1 ∧ wbits (tkStep sparse.image 0 0) 48 1 = 1 ∧ sparse.panel 0 0 % rowAlign 3 = 0
    ∧ ((unpackBits 32 64 (sparse.slot false 0).maps.toNat).map fun m => popBits m 32).foldl (· + ·) 0 = 0 :=
  ⟨atStep_of _ _ rfl (by decide +kernel), by decide +kernel, by decide +kernel, by decide +kernel⟩


/-- A slot with a format. -/
def slotOf (fmt : Nat) : LatchSlot := { LatchSlot.start with fmt := some fmt }

/-- MMA of 8-bit integers, MMA of a block-scaled pair, SACC with the buffer filled, ZERO of all, SPMASK, TRN. -/
def mmaInts : Task := { running [0x0333000000000000, 0, 0, 0] with a := Vector.replicate 4 (slotOf 3), b := Vector.replicate 4 (slotOf 3) }
def mmaBlocks : Task := { running [0x0300000000000000, 0, 0, 0] with a := Vector.replicate 4 (slotOf 0), b := Vector.replicate 4 (slotOf 0) }
def saccTask : Task :=
  { running [0x0400000000000000, 0, 0, 0] with
    psum := some { unit := -4, ea := List.replicate 64 0, eb := List.replicate 64 0, sums := List.replicate 4096 none } }
def acvtTask : Task := running [0x0590000000000000, 0x9000, 0, 384]
def maskTask : Task := running [0x0700000000000000, 0x9000, 0, 0]
def trnTask : Task := running [0x0800000000000000, 0x100000, 0, 0]

theorem witness_TileSteps_engine :
    ((alone mmaInts).AtStep mmaInts 0x8000000000000000 3 ∧ (mmaInts.slot false 0).fmt = some 3 ∧ (mmaInts.slot true 0).fmt = some 3
      ∧ blockPair 3 3 = false)
    ∧ ((alone mmaBlocks).AtStep mmaBlocks 0x8000000000000000 3 ∧ (mmaBlocks.slot false 0).fmt = some 0
      ∧ (mmaBlocks.slot true 0).fmt = some 0 ∧ blockPair 0 0 = true)
    ∧ ((alone saccTask).AtStep saccTask 0x8000000000000000 4 ∧ ∃ p, saccTask.psum = some p ∧ p.sums.length = 4096 ∧ p.ea.length = 64
      ∧ p.eb.length = 64)
    ∧ (alone (running zeroStep)).AtStep (running zeroStep) 0x8000000000000000 6
    ∧ ((alone maskTask).AtStep maskTask 0x8000000000000000 7
      ∧ (alone maskTask).Reads maskTask.who [stepLoad (maskTask.panel 0 0) 256] [List.replicate 256 0])
    ∧ ((tasks trnTask).taskOf 0x8000000000000000 = some trnTask
      ∧ ∃ v, (tasks trnTask).attempt (trnTask.transition 0x100000 0 0) = (.ok (), v)) :=
  ⟨⟨atStep_of _ _ rfl (by decide +kernel), by decide +kernel, by decide +kernel, by decide⟩,
    ⟨atStep_of _ _ rfl (by decide +kernel), by decide +kernel, by decide +kernel, by decide⟩,
    ⟨atStep_of _ _ rfl (by decide +kernel), _, rfl, List.length_replicate .., List.length_replicate .., List.length_replicate ..⟩, atStep_of _ _ rfl (by decide +kernel),
    ⟨atStep_of _ _ rfl (by decide +kernel), stepReads_of _ _ _ _ _ (by decide +kernel)⟩,
    ⟨tasks_taskOf _ rfl, _, attempt_of _ _ _ (by decide +kernel)⟩⟩

/-- The 64 rows that ACVT stores unconverted, 384 bytes each. -/
theorem witness_TileSteps_acvt :
    let row (r : Nat) := acvtTask.outRow 0 r ((List.range 64).map (tileElem (acvtTask.tile 0) r))
    let ops := (List.range 64).map fun r => plain (acvtTask.panel 0 0 + (r * 384 : Nat)) (row r).length (.store (row r))
    (alone acvtTask).AtStep acvtTask 0x8000000000000000 5 ∧ (∀ r, r < 64 → (acvtTask.panel 0 0 + (r * 384 : Nat)) % outAlign 9 = 0)
    ∧ OpsPass (alone acvtTask) acvtTask.who ops (places (alone acvtTask) acvtTask.who ops) :=
  ⟨atStep_of _ _ rfl (by decide +kernel), by decide +kernel, opsPass_of _ _ _ (by decide +kernel)⟩



/-! ## Statements with hypotheses: Sluice -/

/-- A FILL of 64 bytes at 0x2000 that only signals its mask bit. -/
def fillRecord : List Word := [0x7800000000000040, 0, 0x2000, 0, 0x1122334455667788, 0, 0, 0]

/-- A batch of one record in v8 to v15. -/
def batching : State :=
  let v := fillRecord.zipIdx.foldl (fun v x => v.setIfInBounds (8 + x.2) (x.1.setWidth 65536)) full.hart.vec.v
  given (on full fun h => { h with vec := { h.vec with v } }) [(5, 1)]

theorem judged_of (l : List (Nat × Option (List Word))) (s : State) (h : Hart) (bits : List (Nat × Bool))
    (e : okOf (judgeAll l s).1 = some bits) (g : (judgeAll l s).2.hart = h) : ∃ u, judgeAll l s = (.ok bits, u) ∧ u.hart = h :=
  ⟨(judgeAll l s).2, Prod.ext (ok_of e) (Eq.refl (judgeAll l s).2), g⟩

theorem witness_SluiceInstructions_batch :
    let s := batching
    let v := s.hart.vec
    let regs := (List.range 8).map (8 + ·)
    let todo := (List.range 1).map fun i =>
      (i, if bitOf (v.governing 0 0) i then some (regs.map fun k => BitVec.ofNat 64 (v.elem k i 64)) else none)
    s.calm ∧ s.VecReady regs [] ∧ (s.rg 5).toNat = 1 ∧ 1 ≤ v.vlmax / 64
    ∧ (∀ r ∈ regs, v.Clean r 64 fun i => decide (i < 1) && bitOf (v.governing 0 0) i)
    ∧ (∃ u, judgeAll todo s.nextLane = (.ok [(0, true)], u) ∧ u.hart = s.hart)
    ∧ (commonOk [0] = false) ∧ (commonOk fillRecord = true ∧ s.kindOk fillRecord = true ∧ s.unitAbsent fillRecord = false
      ∧ cwSize fillRecord ≠ 0 ∧ s.slotsUsed s.hart.core < 64) := by
  refine ⟨?_, ?_, by decide +kernel, by decide +kernel, ?_, judged_of _ _ _ _ (by decide +kernel) (by decide +kernel),
    by decide +kernel, by decide +kernel⟩
  · unfold State.calm State.Canonical State.quiet; decide +kernel
  · unfold State.VecReady; decide +kernel
  · intro r hr
    exact clean_of _ _ _ _ (by revert r; decide +kernel)

/-- Two leaf entries of 2 MiB pages at level 1, PUBP, U, R and W set, that name two pages. -/
def pages : State :=
  let s := words (given base [(6, 0), (7, 1)]) 0x10000 [0x40001]
  words (words s 0x40000 [0x50001]) 0x50000 [0x08000000000003F3, 0x08000000002003F3]

theorem witness_SluiceInstructions_publ :
    let s := pages
    ∃ l, s.calm ∧ (s.rg 7).toNat = 1 ∧ s.walk s.hart.ctx 0 = some l ∧ leafPubp l.val = true ∧ l.entry = 0x50000
      ∧ l.entry % 1024 + 16 * 1 ≤ 1024
      ∧ s.badPair (s.ctxOf s.hart.ctx).tenant l.lvl ((List.range (2 * 1)).map fun k => l.entry + 8 * k) = none
      ∧ (∀ k, k < 2 * 1 → leafU (s.readWord (l.entry + 8 * k)) = true ∧ leafR (s.readWord (l.entry + 8 * k)) = true
          ∧ leafW (s.readWord (l.entry + 8 * k)) = true ∧ s.linePoisoned ((l.entry + 8 * k) / 64) = false) := by
  refine ⟨(pages.walk 0 0).get (by decide +kernel), ?_, by decide +kernel, Option.some_get _ |>.symm, by decide +kernel, by decide +kernel, by decide +kernel,
    by decide +kernel, by decide +kernel⟩
  unfold State.calm State.Canonical State.quiet; decide +kernel

/-- The table of one state whose entries are all 0, at 0x2000; where nothing is, word 0 is wrong. -/
def xtable : State := words (given base [(6, 0x2000)]) 0x2000 [0x0101000000000000]

theorem witness_SluiceInstructions_xtbl :
    let s := xtable
    let b := given base [(6, 0x2000)]
    let hd := (s.readPhys 0x2000 8)
    s.calm ∧ s.hasXform = true ∧ (s.rg 6).toNat % 64 = 0 ∧ s.Reads s.me [plain 0x2000 8 .load] [hd] ∧ xfWord0Bad (wordAt hd 0) = none
    ∧ 320 + 64 * wbits (wordAt hd 0) 48 8 = 384 ∧ s.Reads s.me [plain 0x2008 376 .load] [List.replicate 376 0]
    ∧ (∀ k, k < 384 → xfByteBad (hd ++ List.replicate 376 0) k = false)
    ∧ b.Reads b.me [plain 0x2000 8 .load] [List.replicate 8 0] ∧ xfWord0Bad 0 = some 6 := by
  refine ⟨?_, by decide +kernel, by decide +kernel, ?_, by decide +kernel, by decide +kernel, ?_, by decide +kernel, ?_, by decide +kernel⟩
  · unfold State.calm State.Canonical State.quiet; decide +kernel
  all_goals exact reads_eq _ _ _ _ (by decide +kernel) (by decide +kernel) (by decide +kernel)

/-! ## Statements with hypotheses: engine commands -/

theorem readBytes_sub (m : List Host.Cell) (n : Nat) : ∀ (a o L : Nat), o + n ≤ L →
    ((Memory.readBytes m a L).drop o).take n = Memory.readBytes m (a + o) n := by
  intro a o L h
  apply List.ext_getElem?
  intro i
  simp only [readBytes_eq_map]
  rw [List.getElem?_take]
  by_cases hi : i < n
  · rw [if_pos hi, List.getElem?_drop, List.getElem?_map, List.getElem?_map, List.getElem?_range' (by omega), List.getElem?_range' hi]
    simp [Nat.add_assoc]
  · rw [if_neg hi, List.getElem?_eq_none]
    simp; omega

/-- What makes some bytes of one page of `base` readable in every piece. -/
structure Plain (s : State) (w : Who) (va : Nat) (l : Leaf) : Prop where
  walk : s.walk w.ctx (va / 16384 * 16384) = some l
  free : (s.ctxs.all (fun c => c.2.binds.isEmpty) && s.launches.isEmpty) = true
  lines : s.lineMeta = []
  chans : s.reliab.chans = []
  right : rightDenied l.val w.level .load = false
  mig : leafMig l.val = false
  mark : s.markEntry l.entry false = s
  one : l.base = 0 ∧ l.size = 2 ^ 34

theorem readable_of {s : State} {w : Who} {va : Nat} {l : Leaf} (p : Plain s w va l) (L : Nat) (h : va % 16384 + L ≤ 16384)
    (top : va + L ≤ 2 ^ 34) : s.Readable w va (s.readPhys va L) := by
  intro o n hn hL
  rw [State.readPhys, Memory.readBytes_length] at hL
  have hd : (va + o) / 16384 = va / 16384 := by omega
  let part : Part := { va := va + o, pa := va + o, len := n, ordk := leafOrdk l.val, mig := leafMig l.val, entry := l.entry, page := l.size }
  let op : MemOp := { va := (va + o : Nat), n, align := false, strict := false, act := .load, ord := 0, scope := 1 }
  have hw : s.walksFor w.ctx [op] [] = [(va / 16384, some l)] := by
    have e : (va + o : Int).toNat / 16384 = va / 16384 := by omega
    simp only [op, State.walksFor]
    rw [if_neg (by simp; omega)]
    simp [e, p.walk]
  have hsplit : splitPages (n / 16384 + 2) ((va + o : Nat) : Int) n = [(((va + o : Nat) : Int), n)] := by
    have : n / 16384 + 2 = (n / 16384 + 1) + 1 := rfl
    rw [this, splitPages, if_neg (by omega)]
    simp only []
    rw [if_pos (by omega)]
  have hmod : (va + o) % l.size = va + o := by rw [p.one.2]; exact Nat.mod_eq_of_lt (by omega)
  have hpart : s.checkPart [(va / 16384, some l)] w.ctx w.level .load ((va + o : Nat) : Int) n = .ok part := by
    unfold State.checkPart
    rw [if_neg (by omega)]
    simp only [State.leafFor, Int.toNat_natCast, hd, List.lookup_cons, BEq.rfl, p.right, Bool.false_eq_true, if_false, hmod, p.one.1,
      Nat.zero_add]
    rfl
  have hck : s.checkOps (s.walksFor w.ctx [op] []) w [op] 0 = .ok [(op, [part])] := by
    rw [hw]
    simp only [State.checkOps, State.checkOp, State.checkAccessIn, op, Bool.false_and, Bool.false_eq_true, if_false, hsplit,
      State.checkParts, Act.right, hpart, State.stagedFault, p.free, if_true]
  have hdram : homeOf (va + o) = .dram 0 := by
    have : va + o < 2 ^ 34 := by omega
    unfold homeOf
    rw [if_pos (by omega), if_pos (by omega), Nat.div_eq_of_lt (by omega)]
  have hloc : part.isRemote = false := by simp only [Part.isRemote, part, hdram]
  have hpois : ∀ line, s.linePoisoned line = false := by
    intro line
    simp [State.linePoisoned, State.metaOf, p.lines, p.chans, Table.get, Meta.zero]
  refine ⟨[(op, [part])], ⟨hck, ?_⟩, ?_, ?_⟩
  · intro x hx q hq
    simp only [List.mem_singleton] at hx
    subst hx
    simp only [List.mem_singleton] at hq
    subst hq
    exact ⟨hloc, p.mig, by simp [State.poisoned, hpois]⟩
  · simp [State.markOps, State.markParts, op, part, Act.writes, p.mark]
  · constructor
    · simp only [List.map_cons, List.map_nil, State.bytesAt, List.flatMap_cons, List.flatMap_nil, List.append_nil, part, State.readPhys]
      rw [readBytes_sub _ _ _ _ _ hL]
    · intro x hx q hq
      simp only [List.mem_singleton] at hx
      subst hx
      simp only [List.mem_singleton] at hq
      subst hq
      simp only [part, hdram]
      decide

theorem mark_of (s : State) (a : Nat) (h : s.readWord a ||| 0x20 = s.readWord a) : s.markEntry a false = s := if_pos h

/-- A command at work on its record of eight words, and the state that holds it. -/
def command (w : List Word) : Cmd := { base.newCmd w with phase := .work }
def commanding (c : Cmd) : State := { base with cmds := [c] }

theorem commanding_calm (c : Cmd) : (commanding c).calm :=
  ⟨base_calm.1, rfl, rfl, show bitOf base.reliab.errinj.toNat 63 = false by decide +kernel, rfl, rfl, rfl, rfl⟩

theorem commanding_at (c : Cmd) (kind : Nat) (h : c.id = 0 ∧ c.phase = .work ∧ cwKind c.w = kind ∧ c.begun = false) : (commanding c).AtWork c 0 kind :=
  ⟨by simp [State.cmdOf, commanding, h.1], h.2⟩

/-- The leaf of `base`. -/
def leaf : Leaf := { entry := 0x10000, val := 0x3F3, lvl := 3, base := 0, size := 2 ^ 34 }

/-- What a command of `commanding` reads from a page without bytes. -/
theorem commanding_readable (c : Cmd) (va L : Nat) (h : c.ctx = 0 ∧ c.level = .supervisor) (g : va % 16384 + L ≤ 16384)
    (top : va + L ≤ 2 ^ 34) (w : base.walk 0 (va / 16384 * 16384) = some leaf) :
    (commanding c).Readable c.who va ((commanding c).readPhys va L) :=
  readable_of (l := leaf)
    ⟨by rw [show c.who.ctx = 0 from h.1]; exact w, rfl, rfl, rfl, by rw [show c.who.level = .supervisor from h.2]; decide +kernel,
      by decide +kernel, mark_of (commanding c) _ (show base.readWord 0x10000 ||| 0x20 = base.readWord 0x10000 by decide +kernel), rfl, rfl⟩ L g top

/-- No source of the work meets a destination, and its writes are aligned. -/
def carried (s : State) (c : Cmd) (w : Work) : Prop := s.overlaps c.ctx w = false ∧ ∀ x ∈ w.writes, x.va % x.align = 0

def work (writes : List LineStore) (count : Nat) (reads targets : List (Nat × Nat)) : Work :=
  { writes, count, fail := none, reads, targets }

theorem carried_one (s : State) (c : Cmd) (dst align : Nat) (bs : List Byte) (count : Nat) (reads targets : List (Nat × Nat))
    (h : s.overlaps c.ctx (work [] 0 reads targets) = false) (g : dst % align = 0) :
    carried s c (work [lineStore dst align bs] count reads targets) :=
  ⟨h, fun x hx => by rw [List.mem_singleton.1 hx]; exact g⟩

/-- COPY, FILL, CVT, DECODE, ENCODE, XFORM of both modes. -/
def copyCmd : Cmd := command [0x1000000000000040, 0x3000, 0x2000, 0, 0, 0, 0, 0x1000]
def fillCmd : Cmd := command [0x7000000000000009, 0, 0x2000, 0, 0x1122334455667788, 0, 0, 0x1000]
def cvtCmd (size w4 : Word) : Cmd := command [0x2000000000000000 + size, 0x3000, 0x5000, 0, w4, 0, 0, 0x1000]
def decodeCmd (w5 : Word) : Cmd := command [0x3000000000001000, 0x3000, 0x5000, 0, 8, w5, 0, 0x1000]
def encodeCmd : Cmd := command [0x4000000000001000, 0x5000, 0x3000, 0, 0x1000, 0, 0, 0x1000]
def unpackCmd : Cmd := command [0x5000000000000003, 0x3000, 0x5000, 0, 10, 0, 0, 0x1000]
def idleCmd : Cmd := command [0x5000000000000000, 0, 0, 0, 0x1000000000000000, 0x3040, 0, 0x1000]
def runCmd : Cmd :=
  { command [0x5000000000000004, 0x3000, 0, 0, 0x1000000000000000, 0x3040, 0, 0x1000] with
    table := wordBytes [0x0101000000000000, 1] ++ List.replicate 368 0 }

theorem witness_EngineCommands_moves :
    ((commanding copyCmd).AtWork copyCmd 0 1 ∧ cwSize copyCmd.w = 64 ∧ cwSrc copyCmd.w = 0x3000
      ∧ (commanding copyCmd).Readable copyCmd.who 0x3000 ((commanding copyCmd).readPhys 0x3000 64))
    ∧ carried (commanding copyCmd) copyCmd (work ((lineStore 0x3000 1 ((commanding copyCmd).readPhys 0x3000 64)).lines.map fun p =>
        lineStore (0x2000 + (p.va - 0x3000)) 1 p.bytes) 64 [] [])
    ∧ (commanding fillCmd).AtWork fillCmd 0 7
    ∧ carried (commanding fillCmd) fillCmd (work [lineStore 0x2000 1 ((List.range 9).map fun i =>
        (toBytes 0x1122334455667788 8).getD (i % 8) 0)] 9 [] []) := by
  refine ⟨⟨commanding_at _ _ ⟨rfl, rfl, rfl, rfl⟩, by decide, by decide, commanding_readable _ 0x3000 64 ⟨rfl, rfl⟩ (by decide) (by decide) (by decide +kernel)⟩,
    ⟨by decide +kernel, by decide +kernel⟩, commanding_at _ _ ⟨rfl, rfl, rfl, rfl⟩, carried_one _ _ _ _ _ _ _ _ (by decide +kernel) (by decide)⟩

/-- A command with two stores to come, and with none. -/
theorem witness_EngineCommands_lines :
    let two := [lineStore 0x2000 1 [1, 2], lineStore 0x2040 1 [3]]
    let c := { fillCmd with begun := true, left := two }
    let none_ := { fillCmd with begun := true, left := [] }
    ((commanding c).cmdOf 0 = some c ∧ c.phase = .work ∧ cwKind c.w = 7 ∧ c.begun = true ∧ c.left = two
      ∧ OpsPass (commanding c) c.who [(lineStore 0x2000 1 [1, 2]).op] [((lineStore 0x2000 1 [1, 2]).op, [piece 0x2000 2])])
    ∧ ((commanding none_).cmdOf 0 = some none_ ∧ none_.phase = .work ∧ cwKind none_.w = 7 ∧ none_.begun = true ∧ none_.left = []) := by
  refine ⟨⟨by decide +kernel, rfl, by decide, rfl, rfl, opsPass_eq _ _ _ _ (by decide +kernel) (by decide +kernel)⟩,
    by decide +kernel, rfl, by decide, rfl, rfl⟩

/-- f32 to f16 of two elements, f32 to blocks of E2M1 and back, of 32 elements. -/
theorem witness_EngineCommands_cvt :
    let c := cvtCmd 2 0x292
    let b := cvtCmd 32 0x992
    let u := cvtCmd 32 0x4A6
    ((commanding c).AtWork c 0 2 ∧ Legal.e2m1Pair (Cvt.of 0x292).dew (Cvt.of 0x292).dty = false
      ∧ Legal.e2m1Pair (Cvt.of 0x292).sew (Cvt.of 0x292).sty = false ∧ 8 = 2 * Cvt.bytes (Cvt.of 0x292).sew ∧ 0x3000 % 4 = 0
      ∧ (commanding c).Readable c.who 0x3000 ((commanding c).readPhys 0x3000 8)
      ∧ carried (commanding c) c (work (gatherStores 2 0 0x5000 0 (lineStore 0x5000 2 []) (lineStore 0 1 [])
          ((List.range 2).map fun e => c.cvtElem e 0)) 4 [(0x3000, 8)] [(0x5000, 4)]))
    ∧ ((commanding b).AtWork b 0 2 ∧ Legal.e2m1Pair (Cvt.of 0x992).dew (Cvt.of 0x992).dty = true ∧ 128 = 32 * Cvt.bytes (Cvt.of 0x992).sew
      ∧ (commanding b).Readable b.who 0x3000 ((commanding b).readPhys 0x3000 128)
      ∧ ∀ bs, carried (commanding b) b (work [lineStore 0x5000 1 bs] 18 [(0x3000, 128)] [(0x5000, 18)]))
    ∧ ((commanding u).AtWork u 0 2 ∧ Legal.e2m1Pair (Cvt.of 0x4A6).dew (Cvt.of 0x4A6).dty = false
      ∧ Legal.e2m1Pair (Cvt.of 0x4A6).sew (Cvt.of 0x4A6).sty = true
      ∧ (commanding u).Readable u.who 0x3000 ((commanding u).readPhys 0x3000 (32 / 32 * 18))
      ∧ ∀ bs, carried (commanding u) u (work [lineStore 0x5000 (Cvt.bytes (Cvt.of 0x4A6).dew) bs] (32 * Cvt.bytes (Cvt.of 0x4A6).dew)
          [(0x3000, 18)] [(0x5000, 32 * Cvt.bytes (Cvt.of 0x4A6).dew)])) := by
  refine ⟨⟨commanding_at _ _ ⟨rfl, rfl, rfl, rfl⟩, by decide, by decide, by decide, by decide,
      commanding_readable _ 0x3000 8 ⟨rfl, rfl⟩ (by decide) (by decide) (by decide +kernel), by decide +kernel, by decide +kernel⟩,
    ⟨commanding_at _ _ ⟨rfl, rfl, rfl, rfl⟩, by decide, by decide,
      commanding_readable _ 0x3000 128 ⟨rfl, rfl⟩ (by decide) (by decide) (by decide +kernel),
      fun _ => carried_one _ _ _ _ _ _ _ _ (by decide +kernel) (by decide)⟩,
    ⟨commanding_at _ _ ⟨rfl, rfl, rfl, rfl⟩, by decide, by decide,
      commanding_readable _ 0x3000 18 ⟨rfl, rfl⟩ (by decide) (by decide) (by decide +kernel),
      fun _ => carried_one _ _ _ _ _ _ _ _ (by decide +kernel) (by decide)⟩⟩

/-- DECODE of one ZERO record, whole and through samples; ENCODE of a block of zeros; XFORM of three samples and of a run. -/
theorem witness_EngineCommands_codec :
    let d := decodeCmd 0
    let e := decodeCmd 0x800000000000000A
    let zero (s : State) := s.writePhys 0x3000 (toBytes 0x8000000000000000 8)
    let w (c : Cmd) := zero (commanding c)
    let ways := (List.range 4).map fun _ => (0, 0)
    ((w d).AtWork d 0 3 ∧ (w e).AtWork e 0 3
      ∧ (w d).Readable d.who 0x3000 ((w d).readPhys 0x3000 8) ∧ (w d).readPhys 0x3000 8 = toBytes 0x8000000000000000 8
      ∧ (decodesTo (toBytes 0x8000000000000000 8) [] [List.replicate 512 0])
      ∧ (∀ bs, carried (w d) d (work [lineStore 0x5000 1 bs] 4096 [(0x3000, 8)] [(0x5000, 4096)]))
      ∧ ∀ bs, carried (w e) e (work [lineStore 0x5000 1 bs] 6552 [(0x3000, 8)] [(0x5000, 6552)]))
    ∧ ((commanding encodeCmd).AtWork encodeCmd 0 4 ∧ 4096 % 4096 = 0
      ∧ (commanding encodeCmd).Readable encodeCmd.who 0x5000 ((commanding encodeCmd).readPhys 0x5000 4096)
      ∧ (recordsOf [] [List.replicate 512 0]).length = 8
      ∧ ∀ bs, carried (commanding encodeCmd) encodeCmd (work [lineStore 0x3000 1 bs] 8 [(0x5000, 4096)] [(0x3000, 8)]))
    ∧ ((commanding unpackCmd).AtWork unpackCmd 0 5 ∧ wbits 10 60 4 = 0 ∧ (3 * 10 + 7) / 8 = 4
      ∧ (commanding unpackCmd).Readable unpackCmd.who 0x3000 ((commanding unpackCmd).readPhys 0x3000 4)
      ∧ ∀ bs, carried (commanding unpackCmd) unpackCmd (work [lineStore 0x5000 1 bs] 6 [(0x3000, 4)] [(0x5000, 6)]))
    ∧ ((commanding idleCmd).AtWork idleCmd 0 5 ∧ wbits 0x1000000000000000 60 4 = 1 ∧ cwSize idleCmd.w = 0
      ∧ carried (commanding idleCmd) idleCmd (work [] 0 [] []))
    ∧ ((commanding runCmd).AtWork runCmd 0 5 ∧ wbits 0x1000000000000000 60 4 = 1
      ∧ (commanding runCmd).Readable runCmd.who 0x3000 ((commanding runCmd).readPhys 0x3000 4)
      ∧ (commanding runCmd).Readable runCmd.who 0x3040 ((commanding runCmd).readPhys 0x3040 64)
      ∧ (let run := xfRun runCmd.table ways 0x3000 [0, 0, 0, 0] 0 0 [0, 0, 0, 0] []
         xfUsed run.1 none (wordAt runCmd.table 8) 0x3000 4 = none ∧ run.2 = [])
      ∧ carried (commanding runCmd) runCmd (work [] 0 [(0x3000, 4), (0x3040, 64)] [(0x3080, 32), (0, 0), (0, 0), (0, 0), (0, 0)])) := by
  refine ⟨⟨commanding_at _ _ ⟨rfl, rfl, rfl, rfl⟩, commanding_at _ _ ⟨rfl, rfl, rfl, rfl⟩,
      readable_of (l := leaf) ⟨by decide +kernel, rfl, rfl, rfl, by decide +kernel, by decide +kernel, mark_of _ _ (by decide +kernel), rfl, rfl⟩ 8
        (by decide) (by decide), by decide +kernel, ?_, fun _ => carried_one _ _ _ _ _ _ _ _ (by decide +kernel) (by decide),
      fun _ => carried_one _ _ _ _ _ _ _ _ (by decide +kernel) (by decide)⟩,
    ⟨commanding_at _ _ ⟨rfl, rfl, rfl, rfl⟩, by decide, commanding_readable _ 0x5000 4096 ⟨rfl, rfl⟩ (by decide) (by decide) (by decide +kernel),
      by decide +kernel, fun _ => carried_one _ _ _ _ _ _ _ _ (by decide +kernel) (by decide)⟩,
    ⟨commanding_at _ _ ⟨rfl, rfl, rfl, rfl⟩, by decide, by decide, commanding_readable _ 0x3000 4 ⟨rfl, rfl⟩ (by decide) (by decide) (by decide +kernel),
      fun _ => carried_one _ _ _ _ _ _ _ _ (by decide +kernel) (by decide)⟩,
    ⟨commanding_at _ _ ⟨rfl, rfl, rfl, rfl⟩, by decide, by decide, by decide +kernel, by decide +kernel⟩,
    ⟨commanding_at _ _ ⟨rfl, rfl, rfl, rfl⟩, by decide, commanding_readable _ 0x3000 4 ⟨rfl, rfl⟩ (by decide) (by decide) (by decide +kernel),
      commanding_readable _ 0x3040 64 ⟨rfl, rfl⟩ (by decide) (by decide) (by decide +kernel), by decide +kernel,
      by decide +kernel, by decide +kernel⟩⟩
  unfold decodesTo
  simp only [decodesTo]
  decide +kernel

/-- STORRD with its queue at 0x3000: full, with room for two, with a completion; at its end, with and without a signal. -/
def storrdCmd : Cmd := command [0x6000000000000200, 0, 0x5000, 0, 0x3000, 7, 0x100000001, 0x1000]

def queue (s : State) (entries cqn sqt : Nat) : State :=
  words s 0x3000 [0x4000, 0x4800, BitVec.ofNat 64 (entries * 65536 + cqn), 0x4A00, 0x4B00, 0xC0000000, 0x109, BitVec.ofNat 64 (sqt + 2 ^ 32)]

theorem witness_EngineCommands_storrd :
    let s := queue (commanding storrdCmd) 0 1 0
    let room := queue (commanding storrdCmd) 1 1 1
    let d := room.readPhys 0x3000 64
    let ops := [plain 0x4040 64 (.store (room.nextTick.nvmeEntry storrdCmd d (freeCid [] 65536 room.freeWord.toNat) 0 512)),
      plain 0x3038 8 (.store (queueWord 0 0 1)), plain 0x4A00 4 (.store (toBytes 0 4))]
    let one := { storrdCmd with pieces := [(7, 0, 512)], asked := 512, issued := true }
    let done (e : Word) := words (queue (commanding one) 1 1 1) 0x4800 [0, e]
    (s.AtWork storrdCmd 0 6 ∧ storrdCmd.left = [] ∧ storrdCmd.under = none ∧ storrdCmd.issued = false ∧ s.queueBusy storrdCmd = false ∧ ∃ v, s.attempt storrdCmd.submitOne = (.ok storrdCmd, v))
    ∧ (room.cmdOf 0 = some storrdCmd ∧ storrdCmd.pick = none ∧ room.Reads storrdCmd.who [plain 0x3000 64 .load] [d] ∧ min (pieceBytes d) (512 - 0) = 512 ∧ room.outstanding storrdCmd = []
      ∧ wbits (wordAt d 16) 16 16 + 1 = 2 ∧ OpsPass room storrdCmd.who ops (places room storrdCmd.who ops))
    ∧ (∀ x ∈ [((0x0001000700000000 : Word), 0), (0x0003000700000000, 1)],
        (done x.1).AtWork one 0 6 ∧ one.under = none ∧ one.failed = false ∧ (done x.1).queueBusy one = false
        ∧ ∃ v, (done x.1).attempt one.consumeCq = (.ok (some (7, x.2, 0)), v)
          ∧ (((v.settle one.who.agent).setCmd one).sameQueue one).find? (fun y => y.pieces.any fun p => p.1 == 7) = some one)
    ∧ wbits (cwWord storrdCmd.w 6) 32 32 ≠ 0 := by
  refine ⟨⟨commanding_at _ _ ⟨rfl, rfl, rfl, rfl⟩, rfl, rfl, rfl, by decide +kernel, _, attempt_of _ _ _ (by decide +kernel)⟩,
    ⟨by decide +kernel, rfl, reads_eq _ _ _ _ (by decide +kernel) (by decide +kernel) (by decide +kernel), by decide +kernel, by decide +kernel, by decide +kernel, opsPass_of _ _ _ (by decide +kernel)⟩,
    ?_, by decide⟩
  intro x hx
  simp only [List.mem_cons, List.not_mem_nil, or_false] at hx
  rcases hx with rfl | rfl <;>
    exact ⟨⟨by decide +kernel, rfl, rfl, rfl⟩, rfl, rfl, by decide +kernel, _, attempt_of _ _ _ (by decide +kernel), by decide +kernel⟩

theorem witness_EngineCommands_end :
    let silent := { command [0x7800000000000009, 0, 0x2000, 0, 0, 0, 0, 0] with phase := .complete }
    let status := { fillCmd with phase := .complete, count := 9 }
    let signal := { command [0x7400000000000009, 0, 0x2000, 0x100000, 0, 0, 0, 0] with phase := .complete, count := 9 }
    let s : State := { stagedLine [bound] with cmds := [signal] }
    ((commanding status).cmdOf 0 = some status ∧ (∀ p ∈ (commanding status).parks, p.agent ≠ .cmd 0) ∧ status.pieces = []
      ∧ cwCmpl status.w = 0 ∧ cwStat status.w ≠ 0 ∧ (commanding status).Posts status.who (resultStore 0x1000 (status.statusBytes 9)) [piece 0x1000 16])
    ∧ ((commanding { silent with w := [0x7000000000000009, 0, 0x2000, 0, 0, 0, 0, 0] }).cmds.map (fun c => (c.failed, cwCmpl c.w, cwStat c.w))
        = [(false, 0, 0)])
    ∧ (s.calm ∧ s.cmdOf 0 = some signal ∧ signal.failed = false ∧ cwCmpl signal.w = 1 ∧ cwStat signal.w = 0
      ∧ ∃ v, (s.setCmd { signal with phase := .held }).attempt (engineTransition signal.who 0x100000 0 0) = (.ok (), v)) := by
  refine ⟨⟨by decide +kernel, by decide +kernel, rfl, by decide, by decide, posts_of _ _ _ _ (by decide +kernel) (by decide +kernel)⟩,
    by decide +kernel, ⟨?_, by decide +kernel, rfl, by decide, by decide, _, attempt_of _ _ _ (by decide +kernel)⟩⟩
  unfold State.calm State.Canonical State.quiet; decide +kernel

/-! ## Statements with hypotheses: launches, chutes, the Headframe -/

/-- The result of a check that fails. -/
def errOf {ε α : Type} (x : Except ε α) : Option ε :=
  match x with
  | .ok _ => none
  | .error e => some e

/-- A record of two stages of two instances each, whose header and stages are sound, with one chute of two slots of 64 bytes
from stage 0 to stage 1, its control lines at 0x100000. -/
def launchRecord : List Byte :=
  wordBytes ([0x0320800000000000, 0x40000000008, 0, 7, 0x10, 0, 0, 0, 0x20000, 2, 0x8000, 0x1000, 0x20100, 2, 0, 0]
    ++ List.replicate 24 0 ++ [0x0400040004000000, 0x100000, 0, 0] ++ List.replicate 60 0)

def launched (serial : Nat) (c : Chute) : Launch :=
  { serial, ctx := 0, level := .supervisor, image := launchRecord, arg := 0x7000, prio := 0, next := [1, 1], passed := [0, 63]
    exited := [0, 0]
    chutes := [c] }

/-- The launch at work in the acting sequencer's stage, with the state of the first control line and slots held; g6 is the
chute word and g7 a length. -/
def chute (stage : Nat) (state : BitVec 4) (slots : List OpenSlot) (c : Chute) (word : Word) : State :=
  let s := given (stagedLine []) [(6, word), (7, 64)]
  { on s fun h => { h with inst := ⟨0, stage, 0⟩, slots } with
    launches := [launched 0 c], lineMeta := if state = 0 then [] else [(0x4000, ⟨false, state, 0⟩)] }

/-- The first slot open for a put on stage 0 and full for a get on stage 1; both not ready; the stage that a get waits for is
over; the last slot closed by each. -/
theorem witness_Chutes :
    let c : Chute := ⟨0, 0, [0x4000, 0x4001]⟩
    let put := chute 0 0 [] c 0
    let get := chute 1 2 [] ⟨1, 0, [0x4000, 0x4001]⟩ 0
    let wait := chute 0 2 [] c 0
    let empty := chute 1 0 [] c 0
    let past : State := { chute 1 0 [] c 0 with launches := [{ launched 0 c with exited := [2, 0] }] }
    let closing (stage : Nat) (b : Bool) := chute stage (if b then 1 else 3) [⟨0, b, 0⟩] c 256
    let allowed (s : State) (k : Nat) : Prop :=
      ∀ right ∈ [Right.load, .store], (okOf (s.checkPart [] 0 .supervisor right (slotLine launchRecord 0 k) 1)).isSome = true
    let mine (s : State) (b : Bool) (l : Launch) : Prop :=
      s.calm ∧ Table.wf Meta.zero s.lineMeta = true ∧ s.launchOf s.hart.inst.serial = some l ∧ l.ctx = s.hart.ctx
        ∧ 0 < recChutes l.image ∧ s.hart.inst.stage = (if b then recFrom l.image 0 else recTo l.image 0)
    (mine put true (launched 0 c) ∧ (launched 0 c).stageDone 1 = false ∧ put.chuteQueue 0 0 true = []
      ∧ (put.metaOf 0x4000).state = 0 ∧ put.migrating 0 (slotLine launchRecord 0 0) = false ∧ allowed put 0)
    ∧ (mine get false (launched 0 ⟨1, 0, [0x4000, 0x4001]⟩) ∧ get.chuteQueue 0 0 false = [] ∧ (get.metaOf 0x4000).state = 2
      ∧ get.migrating 0 (slotLine launchRecord 0 0) = false ∧ allowed get 0)
    ∧ (mine wait true (launched 0 c) ∧ (wait.metaOf 0x4000).state ≠ 0 ∧ allowed wait 0 ∧ (encode (.chputOpen ⟨5, 6, 7, 0⟩)).isSome)
    ∧ (mine empty false (launched 0 c) ∧ (empty.metaOf 0x4000).state ≠ 2 ∧ allowed empty 0 ∧ (encode (.chgetOpen ⟨5, 6, 0, 0⟩)).isSome)
    ∧ (mine past false { launched 0 c with exited := [2, 0] } ∧ ({ launched 0 c with exited := [2, 0] } : Launch).stageDone 0 = true ∧ c.get = c.put)
    ∧ (mine (closing 1 false) false (launched 0 c) ∧ ((closing 1 false).rg 6).toNat = 256
      ∧ (closing 1 false).hart.slots.find? (fun x => x.chute == 0 && x.put == false) = some ⟨0, false, 0⟩
      ∧ allowed (closing 1 false) 0 ∧ (closing 1 false).migrating 0 (slotLine launchRecord 0 0) = false)
    ∧ (mine (closing 0 true) true (launched 0 c) ∧ allowed (closing 0 true) 0 ∧ (closing 0 true).migrating 0 (slotLine launchRecord 0 0) = false
      ∧ ((closing 0 true).rg 7).toNat ≤ recBytes launchRecord 0
      ∧ ∃ ops, OpsPass (closing 0 true) (closing 0 true).me [plain (slotHeader launchRecord 0 0 : Int) 64
          (.store (wordBytes [64, (closing 0 true).hart.wid, 0, 0, 0, 0, 0, 0]))] ops) := by
  unfold State.calm State.Canonical State.quiet
  refine ⟨?_, ?_, ?_, ?_, ?_, ?_, by decide +kernel, by decide +kernel, by decide +kernel, by decide +kernel, _, opsPass_of _ _ _ (by decide +kernel)⟩
  all_goals decide +kernel

/-- An open parked on a slot that has become ready, and one that can never be served. -/
theorem witness_ParkedAccesses_chutes :
    let c : Chute := ⟨0, 0, [0x4000, 0x4001]⟩
    let q (put : Bool) (i : Instr) : Park :=
      { key := .chute 0 0 put, cond := .slot, agent := .seq 0 0, va := slotLine launchRecord 0 0, page := 2 ^ 34, lim := 1
        pkt := toBytes ((encode i).getD 0).toNat 8 }
    let p := q true (.chputOpen ⟨5, 6, 7, 0⟩)
    let g := q false (.chgetOpen ⟨5, 6, 0, 0⟩)
    let put : State := { on (chute 0 0 [] c 0) (fun h => { h with tvec := 0x30000 }) with parks := [p] }
    let past : State := { chute 1 0 [] c 0 with launches := [{ launched 0 c with exited := [2, 0] }], parks := [g] }
    (put.parks[0]? = some p ∧ p.agent = .seq put.hart.core put.hart.sq ∧ put.calm ∧ put.launchOf 0 = some (launched 0 c)
      ∧ (put.chuteQueue 0 0 true).head? = some p ∧ (launched 0 c).stageDone 1 = false ∧ (put.metaOf 0x4000).state = 0
      ∧ put.lineMoving 0x4000 = false
      ∧ (∀ right ∈ [Right.load, .store], (okOf (put.checkPart [] 0 .supervisor right (slotLine launchRecord 0 0) 1)).isSome = true)
      ∧ p.lim ≠ 0 ∧ put.canTrap)
    ∧ (past.parks[0]? = some g ∧ past.launchOf 0 = some { launched 0 c with exited := [2, 0] }
      ∧ (past.chuteQueue 0 0 false).head? = some g ∧ ({ launched 0 c with exited := [2, 0] } : Launch).stageDone 0 = true ∧ c.get = c.put) := by
  unfold State.calm State.Canonical State.quiet State.canTrap
  refine ⟨?_, ?_⟩ <;> decide +kernel

/-- The launch record in memory at 0x1000. -/
def recorded (s : State) : State :=
  words (words s 0x1000 [0x0320800000000000, 0x40000000008, 0, 7, 0x10, 0, 0, 0, 0x20000, 2, 0x8000, 0x1000, 0x20100, 2])
    0x1140 [0x0400040004000000, 0x100000]

/-- Instance 1 of stage 1, switched out. -/
def away : Saved :=
  { ctx := 0, inst := ⟨0, 1, 1⟩, blk := 1, halted := false, vsaved := none, lazyAt := none, asked := none, cycle := 0, slots := [], skipBp := true }

/-- The record accepted at 0x1000 on a page with STAGED set, a page of zeros refused, an exit, an end and a raise. -/
theorem witness_Launches :
    let s := recorded (given (stagedLine []) [(6, 0x1000), (7, 0x7000)])
    let no := given base [(6, 0x1000)]
    let run := chute 0 0 [] ⟨0, 0, [0x4000, 0x4001]⟩ 0
    let l := launched 0 ⟨0, 0, [0x4000, 0x4001]⟩
    let ended : State := { run with launches := [{ l with exited := [2, 2] }] }
    (s.calm ∧ s.Reads s.me [plain 0x1000 832 .load] [launchRecord] ∧ okOf (s.checkRecord 0 .supervisor launchRecord) = some [[0x4000, 0x4001]])
    ∧ (no.calm ∧ no.Reads no.me [plain 0x1000 832 .load] [List.replicate 832 0]
      ∧ errOf (no.checkRecord 0 .supervisor (List.replicate 832 0)) = some (2, 0xFF)
      ∧ no.refusedByPoison 0 .supervisor (List.replicate 832 0) 2 0xFF = false)
    ∧ (run.calm ∧ run.hart.handling = false ∧ run.hart.slots = [] ∧ (run.ctxOf run.hart.ctx).w0 ≠ 0 ∧ run.launchOf 0 = some l)
    ∧ (ended.calm ∧ ended.launchOf 0 = some { l with exited := [2, 2] } ∧ (∀ st, st < recStages launchRecord → recNinst launchRecord st ≤ [2, 2].getD st 0)
      ∧ (∀ p ∈ ended.parks, p.agent ≠ .launch 0) ∧ wbits (wordAt launchRecord 40) 62 2 = 0)
    ∧ (1 < recStages launchRecord ∧ l.next.getD 1 0 < recNinst launchRecord 1)
    ∧ ∃ x ∈ [away], x.inst.serial = 0 ∧ x.halted = false := by
  unfold State.calm State.Canonical State.quiet
  refine ⟨⟨by decide +kernel, reads_eq _ _ _ _ (by decide +kernel) (by decide +kernel) (by decide +kernel), by decide +kernel⟩,
    ⟨by decide +kernel, reads_eq _ _ _ _ (by decide +kernel) (by decide +kernel) (by decide +kernel), by decide +kernel⟩,
    by decide +kernel, by decide +kernel, by decide +kernel, _, List.mem_singleton_self _, rfl, rfl⟩

/-- Four save blocks at 0x400000, the first of them used; block 1 holds an instance at 0x20008 with g31 = 5. -/
def pool (s : State) : State :=
  let t := s.setCtx 0 { s.ctxOf 0 with w3 := 4 }
  words (words t (0x400000 + 282688) [0x0100000000000100, 0x20008]) (0x400000 + 282688 + 0x138) [5]

theorem some_of {α : Type} (o : Option α) (h : o.isSome = true) : ∃ v, o = some v := ⟨o.get h, (Option.some_get h).symm⟩

/-- Instance 1 of a stage starts, and an instance resumes, on the last sequencer of the package. -/
theorem witness_InstancesStart :
    let l := launched 0 ⟨0, 0, []⟩
    let s : State := { pool base with launches := [l], saved := [away] }
    (1023 < 1024 ∧ (s.seqAt 1023).live = false)
    ∧ (s.launchOf 0 = some l ∧ s.startable l 1 (1023 / 4) (1023 % 4) = true ∧ s.outranked l.serial (1023 / 4) (1023 % 4) = false
      ∧ (s.ctxOf 0).freeBlock = some 1)
    ∧ (s.saved[0]? = some away ∧ s.resumable away (1023 / 4) (1023 % 4) = true ∧ s.outranked 0 (1023 / 4) (1023 % 4) = false
      ∧ s.ctxPoisoned 0 .supervisor (0x400000 + 282688) 0x800 = false
      ∧ ∃ b, s.ctxRead 0 .supervisor (0x400000 + 282688) 0x800 = some b ∧ scalarRefused b = false) := by
  refine ⟨by decide +kernel, by decide +kernel, by decide +kernel, by decide +kernel, by decide +kernel, by decide +kernel,
    _, (Option.some_get (by decide +kernel)).symm, by decide +kernel⟩

/-- The block that a landing writes can be written. -/
def savable (s : State) (halted miditer : Bool) (cause : Word) : Bool :=
  let h := s.hart
  (s.ctxWrite h.ctx .supervisor ((s.ctxOf h.ctx).save + 282688 * h.blk)
    (h.scalarBlock { fatal := false, halted, miditer, lazily := h.owner == some (h.ctx, h.inst), pc := h.pc, cause, epc := h.epc
                     tval := h.tval })).isSome

/-- `handled` on a core whose other sequencers are at work, the only one that its context may use, with another instance of
its launch to start. -/
def crowded : State :=
  { handled.setCtx 0 { handled.ctxOf 0 with w4 := 1 } with
    launches := [launched 0 ⟨0, 0, []⟩], rest := [fetchHart 0 1, fetchHart 0 2, fetchHart 0 3]
    cores := [1, 2, 3, 8, 9, 10, 11].map fun k => (k, { Core.reset with faulty := true }) }

/-- An instance at a landing point and one that is not, with another of its context waiting, and one that waits for lanes beside
a LENDEP instance; breakpoints at its PC that halt and that trap. -/
theorem witness_Preemption :
    let s := crowded
    let calm (s : State) : Prop := s.adds = [] ∧ (∀ r ∈ s.remotes, r.agent ≠ .seq s.hart.core s.hart.sq) ∧ s.hart.core < 256
      ∧ s.hart.sq < 4 ∧ 0 = 4 * s.hart.core + s.hart.sq ∧ s.hart.live = true
    let waits := on s fun h => { h with waiting := true }
    let beside : State := { waits with
      launches := [{ launched 5 ⟨0, 0, []⟩ with image := toBytes (2 ^ 46) 8 }]
      rest := [{ fetchHart 0 1 with inst := ⟨5, 0, 0⟩ }], cores := [(0, { Core.reset with groups := [some 1], waitQ := [0] })] }
    let at_ := on s fun h => { h with atPoint := true, pend := true }
    let late := on s fun h => { h with preq := true, grace := true }
    let bp (b : Word) := handled.setCtx 0 { handled.ctxOf 0 with bps := [(15, b)] }
    let column := words (on at_ fun h => { h with cols := h.cols.set 2 (BitVec.twoPow 512 445) }) 0x20000 [0x760041281C0E0000]
    (at_.resumesColumn = false ∧ late.resumesColumn = false ∧ waits.resumesColumn = false ∧ beside.resumesColumn = false
      ∧ calm column ∧ column.resumesColumn = true ∧ column.hart.pend = true)
    ∧ calm s ∧ calm at_ ∧ calm late ∧ s.waitsAt (s.prioOf s.hart.inst.serial) = true
    ∧ (calm waits ∧ waits.givesWay waits.hart = true ∧ waits.waitsAt 0 = true ∧ savable waits false false 0 = true)
    ∧ (calm beside ∧ beside.waitsForLendep beside.hart = true)
    ∧ (at_.hart.pend = true ∧ at_.hart.handling = false ∧ savable at_ false false 0 = true)
    ∧ (s.hart.grace = false ∧ s.hart.atPoint = false ∧ s.hart.waiting = false ∧ s.hart.mayYield = false)
    ∧ (late.hart.preq = true ∧ savable late false true 0 = true)
    ∧ (calm (bp 0xC000000000020000) ∧ (bp 0xC000000000020000).matchingBp = some (15, 0xC000000000020000)
      ∧ (0xC000000000020000 : Word).getLsbD 62 = true ∧ savable (bp 0xC000000000020000) true false (BitVec.ofNat 64 (2 ^ 59 + 15 * 2 ^ 32 + 15)) = true)
    ∧ ((bp 0x8000000000020000).matchingBp = some (15, 0x8000000000020000) ∧ (0x8000000000020000 : Word).getLsbD 62 = false
      ∧ (bp 0x8000000000020000).canTrap) := by
  unfold State.canTrap
  refine ⟨?_, ?_, ?_, ?_, by decide +kernel, by decide +kernel, by decide +kernel, by decide +kernel, by decide +kernel,
    by decide +kernel, by decide +kernel, by decide +kernel⟩ <;> decide +kernel

/-- A core of three that want lanes; a sequencer waiting for the group that is its own; vector state of another owner. -/
theorem witness_LanesAndContexts :
    let s : State := { full with cores := [(255, { Core.reset with want := [0, 2, 3] })] }
    let w : State := { on base fun h => { h with waiting := true } with cores := [(0, { Core.reset with want := [0], waitQ := [0], groups := [some 0] })] }
    let f := on base fun h => { h with owner := none, vsaved := none }
    (255 < 256 ∧ s.lendepCore 255 = false ∧ full.lendepCore 0 = false ∧ full.hart.core = 0 ∧ full.hart.group.isSome = true)
    ∧ (w.rest = [] ∧ 0 = 4 * w.hart.core + w.hart.sq ∧ w.hart.live = true ∧ w.hart.waiting = true ∧ w.hart.group = none
      ∧ w.hart.sq ∈ (w.coreOf 0).waitQ ∧ w.hart.owner = some (w.hart.ctx, w.hart.inst)
      ∧ (w.coreOf 0).groups.findIdx? (· == some w.hart.sq) = some 0)
    ∧ (f.hart.live = true ∧ f.hart.owner = none ∧ f.hart.vsaved = none ∧ f.rest = []) := by
  decide +kernel

/-! ## Statements with hypotheses: recovery -/

/-- A FLOAT page of 16 KiB at 0x70000, mapped at 0, and the frame at 0x80000 in the pool. -/
def floating : State :=
  let s := words base 0x10000 [0x40001]
  let t := words (words (words s 0x40000 [0x50001]) 0x50000 [0x60001]) 0x60000 [0x10000000000703F3]
  { t with pool := [0x20] }

theorem witness_Recovery :
    let s := floating
    let m : Mig := { entry := 0x10000, val := 0x04000000000003F3, old := 0, new := 0x80000, size := 16384 }
    let quiet (s : State) : Prop := bitOf s.reliab.errinj.toNat 63 = false ∧ s.reliab.stuck = none ∧ s.reliab.injStore = none
    let next (s : State) (line : Nat) : Bool :=
      Table.wf Channel.reset s.reliab.chans && ((s.chanOf (chanNo line)).scrub (line % 0x40000000 / 64)).isSome
    let failed : State := { base with reliab := { base.reliab with chans := [(0, { Channel.reset with failed := true })] } }
    let hurt : State := { base with reliab := { base.reliab with errors := [(63, 2)] } }
    let bank (b : Bank) : State := base.setBank 3 7 b
    (s.calm ∧ Memory.wf s.mem = true ∧ (s.ctxOf 0).valid = true ∧ (∃ l, s.walk 0 16383 = some l ∧ leafFloat l.val = true
      ∧ leafLock l.val = false ∧ leafMig l.val = false ∧ l.size = 16384 ∧ l.base = 0x70000 ∧ l.entry = 0x60000)
      ∧ s.atticBases 0 16384 = [0x80000])
    ∧ (Memory.wf base.mem = true ∧ ({ base with migs := [m] } : State).migs[0]? = some m
      ∧ ({ base with migs := [m] } : State).flightIn m.old m.size = false ∧ ({ base with migs := [{ m with val := 0x3F3 }] } : State).readWord 0x10000 = 0x3F3)
    ∧ (inDram 0 = true ∧ inDram 0x2FFFFFFF = true ∧ quiet base ∧ (base.chanOf (chanNo 0x2FFFFFFF)).failed = false
      ∧ Table.get 0 0x2FFFFFFF base.reliab.errors = 0 ∧ next base 0 = true ∧ next base 0x2FFFFFFF = false)
    ∧ (quiet failed ∧ (failed.chanOf (chanNo 0)).failed = true ∧ next failed 0 = true)
    ∧ (quiet hurt ∧ Table.get 0 63 hurt.reliab.errors ≠ 0 ∧ next hurt 63 = true ∧ (hurt.chanOf (chanNo 63)).failed = false ∧ (errGroups (Table.get 0 63 hurt.reliab.errors)).length = 1)
    ∧ (base.adds = [] ∧ base.hart.live = true ∧ base.hart.level = .supervisor ∧ base.tenant = 0
      ∧ ∀ kind : Nat, kind ∈ [1, 2, 3] →
          let v := BitVec.ofNat 64 (2 ^ 63 + kind * 2 ^ 59 + 19 * 2 ^ 54)
          bitOf v.toNat 63 = true ∧ wbits v 59 3 = kind ∧ wbits v 54 5 ≤ 19)
    ∧ (bitOf ((bank { Bank.zero with stat := 0x8000000000000001 }).bankOf 3 7).stat.toNat 63 = true
      ∧ bitOf (base.bankOf 0 0).stat.toNat 63 = false)
    ∧ (let u : State := { base with inputs := [.upset (.vrfGroup 255 3 31 1023)] }
      u.firstReady = none ∧ u.mgmtOnly = false ∧ u.inputs = .upset (.vrfGroup 255 3 31 1023) :: []) := by
  unfold State.calm State.Canonical State.quiet
  refine ⟨⟨by decide +kernel, by decide +kernel, by decide +kernel, ⟨_, (Option.some_get (by decide +kernel)).symm, by decide +kernel⟩, by decide +kernel⟩,
    by decide +kernel, by decide +kernel, by decide +kernel, by decide +kernel, by decide +kernel, by decide +kernel, by decide +kernel⟩

/-! ## Statements with hypotheses: other devices and the host

Where an export leads is open, so that the state of these maps every virtual address onto the first 16 GiB. -/

/-- A table of n entries of eight bytes, of which the two at `o0` and `o1` are b0 and b1 and the rest 0. -/
def tableBytes (a n o1 : Nat) (b0 b1 : Byte) : List Host.Cell :=
  (List.range n).flatMap fun i => [(a + 8 * i, b0), (a + 8 * i + o1, b1)]

theorem read_of (m : List Host.Cell) (a : Nat) (b : Byte) (h : ∃ x ∈ m, x.1 = a) (g : ∀ x ∈ m, x.1 = a → x.2 = b) :
    Memory.read m a = b := by
  unfold Memory.read
  induction m with
  | nil => obtain ⟨x, hx, _⟩ := h; cases hx
  | cons y t ih =>
    obtain ⟨j, v⟩ := y
    simp only [Table.get]
    split
    · exact g (j, v) (List.mem_cons_self ..) ‹_›
    · rename_i hj
      refine ih ?_ fun x hx => g x (List.mem_cons_of_mem _ hx)
      obtain ⟨x, hx, e⟩ := h
      rcases List.mem_cons.1 hx with rfl | hx
      · exact absurd e hj
      · exact ⟨x, hx, e⟩

theorem read_none (m : List Host.Cell) (a : Nat) (h : ∀ x ∈ m, x.1 ≠ a) : Memory.read m a = 0 := by
  unfold Memory.read
  induction m with
  | nil => rfl
  | cons y t ih =>
    obtain ⟨j, v⟩ := y
    simp only [Table.get]
    rw [if_neg (h (j, v) (List.mem_cons_self ..))]
    exact ih fun x hx => h x (List.mem_cons_of_mem _ hx)


theorem mem_tables {x : Host.Cell} :
    x ∈ tableBytes 0x8000 4096 2 1 1 ++ tableBytes 0x10000 2048 1 0xF3 3 ↔
      (∃ i, i < 4096 ∧ (x = (0x8000 + 8 * i, 1) ∨ x = (0x8000 + 8 * i + 2, 1)))
      ∨ ∃ i, i < 2048 ∧ (x = (0x10000 + 8 * i, 0xF3) ∨ x = (0x10000 + 8 * i + 1, 3)) := by
  simp [tableBytes]

/-- Bytes of a root entry and of a leaf. -/
theorem read_root (i k : Nat) (hi : i < 4096) (hk : k < 8) :
    Memory.read (tableBytes 0x8000 4096 2 1 1 ++ tableBytes 0x10000 2048 1 0xF3 3) (0x8000 + 8 * i + k)
      = if k = 0 ∨ k = 2 then 1 else 0 := by
  split
  · rename_i h
    refine read_of _ _ _ ?_ ?_
    · rcases h with rfl | rfl
      · exact ⟨_, mem_tables.2 (.inl ⟨i, hi, .inl rfl⟩), by simp⟩
      · exact ⟨_, mem_tables.2 (.inl ⟨i, hi, .inr rfl⟩), by simp⟩
    · intro x hx e
      rcases mem_tables.1 hx with ⟨j, hj, rfl | rfl⟩ | ⟨j, hj, rfl | rfl⟩ <;> simp_all <;> omega
  · refine read_none _ _ ?_
    intro x hx e
    rcases mem_tables.1 hx with ⟨j, hj, rfl | rfl⟩ | ⟨j, hj, rfl | rfl⟩ <;> simp_all <;> omega

theorem read_leaf (i k : Nat) (hi : i < 2048) (hk : k < 8) :
    Memory.read (tableBytes 0x8000 4096 2 1 1 ++ tableBytes 0x10000 2048 1 0xF3 3) (0x10000 + 8 * i + k)
      = if k = 0 then 0xF3 else if k = 1 then 3 else 0 := by
  split
  · rename_i h
    subst h
    refine read_of _ _ _ ⟨_, mem_tables.2 (.inr ⟨i, hi, .inl rfl⟩), by simp⟩ ?_
    intro x hx e
    rcases mem_tables.1 hx with ⟨j, hj, rfl | rfl⟩ | ⟨j, hj, rfl | rfl⟩ <;> simp_all <;> omega
  · split
    · rename_i h
      subst h
      refine read_of _ _ _ ⟨_, mem_tables.2 (.inr ⟨i, hi, .inr rfl⟩), by simp⟩ ?_
      intro x hx e
      rcases mem_tables.1 hx with ⟨j, hj, rfl | rfl⟩ | ⟨j, hj, rfl | rfl⟩ <;> simp_all <;> omega
    · refine read_none _ _ ?_
      intro x hx e
      rcases mem_tables.1 hx with ⟨j, hj, rfl | rfl⟩ | ⟨j, hj, rfl | rfl⟩ <;> simp_all <;> omega

/-- The state; its first binding holds every line of the page, and its port 0 has received a packet of device 9. -/
def everywhere (p : Packet) (binds : List Bind) : State :=
  let c := base.ctxOf 0
  { base with
    mem := tableBytes 0x8000 4096 2 1 1 ++ tableBytes 0x10000 2048 1 0xF3 3
    ctxs := [(0, { c with slots := [(0, twoStates)], binds })]
    fabric := { base.fabric with
      ports := [(0, { Port.reset with up := true, rx := p.bytes })]
      exports := [(255, BitVec.ofNat 64 (2 ^ 63 + 9 * 2 ^ 53 + 255 * 2 ^ 45))] } }

theorem everywhere_walk (p : Packet) (bs : List Bind) (va : Nat) (h : va < 2 ^ 57) :
    (everywhere p bs).walk 0 va = some { leaf with entry := 0x10000 + 8 * (va / 2 ^ 34 % 2048) } := by
  have root : ∀ i, i < 4096 → (everywhere p bs).readWord (0x8000 + 8 * i) = 0x10001 := by
    intro i hi
    simp only [State.readWord, State.readPhys, readBytes_eq_map, everywhere, List.range', List.map_cons, List.map_nil]
    have r := fun k (hk : k < 8) => read_root i k hi hk
    have e0 := r 0 (by decide); have e1 := r 1 (by decide); have e2 := r 2 (by decide); have e3 := r 3 (by decide)
    have e4 := r 4 (by decide); have e5 := r 5 (by decide); have e6 := r 6 (by decide); have e7 := r 7 (by decide)
    simp only [Nat.add_assoc, Nat.reduceAdd, Nat.add_zero] at *
    rw [e0, e1, e2, e3, e4, e5, e6, e7]
    decide +kernel
  have leafs : ∀ i, i < 2048 → (everywhere p bs).readWord (0x10000 + 8 * i) = 0x3F3 := by
    intro i hi
    simp only [State.readWord, State.readPhys, readBytes_eq_map, everywhere, List.range', List.map_cons, List.map_nil]
    have r := fun k (hk : k < 8) => read_leaf i k hi hk
    have e0 := r 0 (by decide); have e1 := r 1 (by decide); have e2 := r 2 (by decide); have e3 := r 3 (by decide)
    have e4 := r 4 (by decide); have e5 := r 5 (by decide); have e6 := r 6 (by decide); have e7 := r 7 (by decide)
    simp only [Nat.add_assoc, Nat.reduceAdd, Nat.add_zero] at *
    rw [e0, e1, e2, e3, e4, e5, e6, e7]
    decide +kernel
  have i4 : lvlIndex va 4 < 4096 := by simp [lvlIndex, field, lvlShift, lvlBits]; omega
  have i3 : lvlIndex va 3 < 2048 := by simp [lvlIndex, field, lvlShift, lvlBits]; omega
  have e3 : lvlIndex va 3 = va / 2 ^ 34 % 2048 := by simp [lvlIndex, field, lvlShift, lvlBits]
  have hr : ((everywhere p bs).ctxOf 0).root = 0x8000 := show (base.ctxOf 0).root = 0x8000 by decide +kernel
  have ht : ((everywhere p bs).ctxOf 0).tenant = 0 := show (base.ctxOf 0).tenant = 0 by decide +kernel
  simp only [State.walk, hr, ht, h, if_true]
  rw [State.walkFrom]
  have t4 : tableReadable (0x8000 + 8 * lvlIndex va 4) = true := by
    unfold tableReadable homeOf
    rw [if_pos (by omega)]
    rw [if_pos (by omega)]
  have t3 : tableReadable (0x10000 + 8 * lvlIndex va 3) = true := by
    unfold tableReadable homeOf
    rw [if_pos (by omega)]
    rw [if_pos (by omega)]
  simp only [t4, Bool.not_true, root _ i4]
  have a1 : bitOf (BitVec.toNat (0x10001 : Word)) 0 = true := by decide +kernel
  have a2 : bitOf (BitVec.toNat (0x10001 : Word)) 1 = false := by decide +kernel
  have a4 : wbits (0x10001 : Word) 9 43 * 2 ^ 9 = 0x10000 := by decide +kernel
  simp only [a1, a2, a4, Bool.not_true, Bool.false_eq_true, if_false]
  rw [State.walkFrom]
  simp only [t3, Bool.not_true, leafs _ i3]
  have b1 : bitOf (BitVec.toNat (0x3F3 : Word)) 0 = true := by decide +kernel
  have b2 : bitOf (BitVec.toNat (0x3F3 : Word)) 1 = true := by decide +kernel
  simp only [b1, b2, Bool.not_true, Bool.false_eq_true, if_false, if_true, e3]
  rfl

/-- An operation of at most 64 bytes at the start of a 16 KiB page, of any agent of context 0 at supervisor level. -/
def everyPart (va n : Nat) : Part :=
  { va, pa := va % 2 ^ 34, len := n, ordk := 0, mig := false, entry := 0x10000 + 8 * (va / 2 ^ 34 % 2048), page := 2 ^ 34 }

theorem everywhere_part (p : Packet) (bs : List Bind) (r : Right) (va n : Nat) (h : va < 2 ^ 57) :
    (everywhere p bs).checkPart [] 0 .supervisor r (va : Int) n = .ok (everyPart va n) := by
  unfold State.checkPart
  rw [if_neg (by omega)]
  simp only [State.leafFor, List.lookup, Int.toNat_natCast, everywhere_walk p bs va h]
  have : ∀ r, rightDenied (0x3F3 : Word) .supervisor r = false := by intro r; cases r <;> decide +kernel
  rw [show leaf.val = 0x3F3 from rfl, this]
  simp only [Bool.false_eq_true, if_false]
  have o : leafOrdk (0x3F3 : Word) = 0 := by decide +kernel
  have m : leafMig (0x3F3 : Word) = false := by decide +kernel
  simp only [o, m, everyPart, leaf, Nat.zero_add]

theorem everyPart_local (va n : Nat) : (everyPart va n).isRemote = false := by
  have : va % 2 ^ 34 < 2 ^ 34 := Nat.mod_lt _ (by decide)
  have e : homeOf (va % 2 ^ 34) = .dram (va % 2 ^ 34 / 0x1000000000) := by
    unfold homeOf
    rw [if_pos (by omega), if_pos (by omega)]
  show (match homeOf (va % 2 ^ 34) with
    | .fabric _ => true
    | _ => false) = false
  rw [e]

theorem everywhere_pass (p : Packet) (w : Who) (hw : w.ctx = 0 ∧ w.level = .supervisor) (page n : Nat) (o : MemOp)
    (h : page < 2 ^ 43) (ho : o.va = ((16384 * page : Nat) : Int) ∧ o.n = n ∧ 0 < n ∧ n ≤ 64 ∧ 16384 % n = 0) :
    OpsPass (everywhere p []) w [o] [(o, [everyPart (16384 * page) n])] := by
  obtain ⟨ha, hn, h0, h64, hd⟩ := ho
  have ok : ∀ ws : Walks, (∀ l, ws.lookup page = some l → l = (everywhere p []).walk 0 (16384 * page)) →
      (everywhere p []).checkPart ws 0 .supervisor o.act.right ((16384 * page : Nat) : Int) n = .ok (everyPart (16384 * page) n) := by
    intro ws hws
    rw [← everywhere_part p [] o.act.right (16384 * page) n (by omega)]
    unfold State.checkPart
    have : (everywhere p []).leafFor ws 0 (16384 * page) = (everywhere p []).leafFor [] 0 (16384 * page) := by
      unfold State.leafFor
      rw [show 16384 * page / 16384 = page by omega]
      cases e : ws.lookup page with
      | none => simp [List.lookup]
      | some l => simp [List.lookup, hws l e]
    simp only [Int.toNat_natCast, this]
  have hsplit : splitPages (n / 16384 + 2) ((16384 * page : Nat) : Int) n = [(((16384 * page : Nat) : Int), n)] := by
    rw [show n / 16384 + 2 = (n / 16384 + 1) + 1 from rfl, splitPages, if_neg (by omega)]
    simp only []
    rw [if_pos (by omega)]
  have hck : (everywhere p []).checkOps ((everywhere p []).walksFor w.ctx [o] []) w [o] 0 = .ok [(o, [everyPart (16384 * page) n])] := by
    have hal : (o.align && decide (o.va % o.n ≠ 0)) = false := by
      rw [ha, hn]
      have : ((16384 * page : Nat) : Int) % (n : Int) = 0 := by
        exact Int.emod_eq_zero_of_dvd
          (Int.natCast_dvd_natCast.2 (Nat.dvd_trans (Nat.dvd_of_mod_eq_zero hd) (Nat.dvd_mul_right ..)))
      rw [this]; simp
    have hf : ((everywhere p []).ctxs.all (fun c => c.2.binds.isEmpty) && (everywhere p []).launches.isEmpty) = true := rfl
    rw [hw.1]
    simp only [State.checkOps, State.checkOp, State.checkAccessIn, hal, Bool.false_eq_true, if_false, hw.1, hw.2]
    rw [ha, hn, hsplit]
    simp only [State.checkParts, State.stagedFault, hf, if_true]
    rw [ok]
    intro l hl
    simp only [State.walksFor, ha, List.any_nil, Bool.or_false] at hl
    rw [if_neg (by simp <;> omega)] at hl
    simp only [Int.toNat_natCast, show 16384 * page / 16384 = page by omega, List.lookup_cons, BEq.rfl, Option.some.injEq] at hl
    rw [← hl, Nat.mul_comm]
  refine ⟨hck, ?_⟩
  intro x hx q hq
  simp only [List.mem_singleton] at hx
  subst hx
  simp only [List.mem_singleton] at hq
  subst hq
  refine ⟨everyPart_local _ _, rfl, ?_⟩
  have hpois : ∀ line, (everywhere p []).linePoisoned line = false := by
    intro line
    have a : (everywhere p []).lineMeta = [] := rfl
    have b : (everywhere p []).reliab.chans = [] := rfl
    simp [State.linePoisoned, State.metaOf, a, b, Table.get, Meta.zero]
  simp [State.poisoned, hpois]

/-- A packet of device 9 in its window 255. -/
def from9 (type tc op : Nat) (payload : List Byte) : Packet :=
  { type, tc, src := 9, dst := 0, seq := 0, op, scope := 1, ord := 0, win := 255, route := 0, off := 0, opnd := 1, rack := 0, stat := 0
    payload }

theorem everywhere_calm (p : Packet) (bs : List Bind) : (everywhere p bs).calm :=
  ⟨⟨show Memory.wf (tableBytes 0x8000 4096 2 1 1 ++ tableBytes 0x10000 2048 1 0xF3 3) = true by decide +kernel, base_calm.1.2.1,
      decide_eq_true fun h => List.cons_ne_nil _ _ (congrArg Ctx.slots h), base_calm.1.2.2.2⟩,
    rfl, rfl, show bitOf base.reliab.errinj.toNat 63 = false by decide +kernel, rfl, rfl, rfl, rfl⟩

theorem everywhere_ctx (p : Packet) (bs : List Bind) :
    (everywhere p bs).ctxOf 0 = { base.ctxOf 0 with slots := [(0, twoStates)], binds := bs } := rfl

theorem everywhere_level (p q : Packet) (bs : List Bind) : ((everywhere p bs).remoteWho q 0).level = .supervisor := by
  have h : (base.ctxOf 0).level = .supervisor := by decide +kernel
  show ((everywhere p bs).ctxOf 0).level = .supervisor
  rw [everywhere_ctx]
  unfold Ctx.level at h ⊢
  exact h

/-- What a request of `everywhere` must show. -/
def opened (type : Nat) (p : Packet) : Bool :=
  let s := everywhere p []
  (s.portOf 0).headPacket == some p.bytes && Packet.parse p.bytes == p && p.type == type && p.tc ≤ 1
    && s.fabric.dst.isEmpty && (s.dstWin p.src p.tc).next == p.seq && s.exportCtx p.src p.win == some 0 && (s.ctxOf 0).valid

theorem request_of (type : Nat) (p : Packet) (bs : List Bind) (h : opened type p = true) : (everywhere p bs).Request 0 type 0 p := by
  simp only [opened, Bool.and_eq_true, beq_iff_eq, decide_eq_true_eq, List.isEmpty_iff] at h
  obtain ⟨⟨⟨⟨⟨⟨⟨a, b⟩, c⟩, d⟩, e⟩, f⟩, g⟩, v⟩ := h
  have e' : (everywhere p bs).fabric.dst = [] := e
  refine ⟨p.bytes, a, b, c, d, ?_, ⟨f, rfl, rfl, rfl⟩, g, v⟩
  intro w hw
  rw [e'] at hw
  cases hw

/-- The binding of every line of the page. -/
def allBound : Bind := { num := 0, va := 0, size := 2 ^ 34, slot := 0, extents := [(0, 0, 2 ^ 34)] }

/-- RD, WR, AT and SADD of eight bytes, of either class; SA of an eight-byte load. -/
theorem witness_RemoteAndHostAccess_served :
    (∀ x ∈ [(1, from9 1 0 3 []), (2, from9 2 1 3 (List.replicate 8 7)), (3, from9 3 1 (3 * 64 + 2) []), (8, from9 8 1 3 [])],
      let p := x.2
      let s := everywhere p []
      let va := Config.exportBase p.src p.win + p.off
      s.calm ∧ s.Request 0 x.1 0 p ∧ OpsPass s (s.remoteWho p 0) [p.memOp va] [(p.memOp va, [everyPart va 8])])
    ∧ (from9 2 1 3 (List.replicate 8 7)).stat ≠ causePoison
    ∧ (let p := from9 4 0 3 []
       let s := everywhere p [allBound]
       let va := Config.exportBase p.src p.win + p.off
       let line := (va % 2 ^ 34) / 64
       let e := tableEntry twoStates 0
       s.calm ∧ Table.wf Meta.zero s.lineMeta = true ∧ s.Request 0 4 0 p ∧ p.tc = 0 ∧ (va : Int) % 8 = 0
       ∧ s.checkPart [] 0 (s.remoteWho p 0).level .load (va : Int) 8 = .ok (everyPart va 8) ∧ (everyPart va 8).isRemote = false
       ∧ (everyPart va 8).pa / 64 = line ∧ s.foreignLine 0 line = false ∧ s.tableAt 0 line = some twoStates
       ∧ entryV e = true ∧ entryAdmits e 0 = true ∧ entryFrom e = (s.metaOf line).state.toNat
       ∧ s.checkPart [] 0 (s.remoteWho p 0).level .store (va : Int) 8 = .ok (everyPart va 8) ∧ s.linePoisoned line = false) := by
  have size : ∀ x ∈ [(1, from9 1 0 3 []), (2, from9 2 1 3 (List.replicate 8 7)), (3, from9 3 1 (3 * 64 + 2) []), (8, from9 8 1 3 [])],
      opened x.1 x.2 = true ∧ (x.2.memOp 0).n = 8 ∧ x.2.off = 0 := by decide +kernel
  have page (q : Packet) : (Config.exportPage q.src q.win).toNat < 2 ^ 43 := BitVec.isLt _
  refine ⟨fun x hx => ?_, by decide, everywhere_calm _ _, rfl, request_of _ _ _ (by decide +kernel), rfl, ?_, ?_, everyPart_local _ _, rfl, ?_, ?_,
    by decide +kernel, by decide +kernel, by decide +kernel, ?_, ?_⟩
  · obtain ⟨a, n, o⟩ := size x hx
    refine ⟨everywhere_calm _ _, request_of _ _ _ a, ?_⟩
    rw [show Config.exportBase x.2.src x.2.win + x.2.off = 16384 * (Config.exportPage x.2.src x.2.win).toNat by
      rw [o]; rfl]
    exact everywhere_pass _ _ ⟨rfl, everywhere_level ..⟩ _ 8 _ (page _) ⟨rfl, n, by decide, by decide, by decide⟩
  · show ((16384 * (Config.exportPage 9 255).toNat + 0 : Nat) : Int) % 8 = 0
    omega
  · rw [everywhere_level]
    exact everywhere_part _ _ _ _ _ (by show 16384 * (Config.exportPage 9 255).toNat + 0 < _; have := page (from9 4 0 3 []); simp only [from9] at this; omega)
  · have : ∀ line, line < 2 ^ 28 → (everywhere (from9 4 0 3 []) [allBound]).bindAt line = some (0, allBound) := by
      intro line h
      have : allBound.holds line = true := by simp [allBound, Bind.holds]; omega
      simp [State.bindAt, everywhere, List.find?, this]
    unfold State.foreignLine State.boundCtx
    rw [this _ (by omega)]
    rfl
  · have : ∀ line, line < 2 ^ 28 → (everywhere (from9 4 0 3 []) [allBound]).bindAt line = some (0, allBound) := by
      intro line h
      have : allBound.holds line = true := by simp [allBound, Bind.holds]; omega
      simp [State.bindAt, everywhere, List.find?, this]
    unfold State.tableAt
    rw [this _ (by omega)]
    rfl
  · rw [everywhere_level]
    exact everywhere_part _ _ _ _ _ (by show 16384 * (Config.exportPage 9 255).toNat + 0 < _; have := page (from9 4 0 3 []); simp only [from9] at this; omega)
  · have a : (everywhere (from9 4 0 3 []) [allBound]).lineMeta = [] := rfl
    have b : (everywhere (from9 4 0 3 []) [allBound]).reliab.chans = [] := rfl
    simp [State.linePoisoned, State.metaOf, a, b, Table.get, Meta.zero]

theorem flit_sound (lseq lack : Nat) (nak : Bool) (cred : Nat) (data : List Byte) (h : data.length = 240) :
    (flitBytes lseq lack nak cred data).length = 256
    ∧ ofBytes ((flitBytes lseq lack nak cred data).drop 248) = (crc64 ((flitBytes lseq lack nak cred data).take 248)).toNat := by
  have len : (toBytes (lseq * 2 ^ 52 + lack * 2 ^ 40 + bit nak * 2 ^ 39 + cred % 2 ^ 32) 8 ++ data).length = 248 := by simp [h]
  unfold flitBytes
  simp only [List.drop_left' len, List.take_left' len]
  refine ⟨by simp [h], ?_⟩
  rw [ofBytes_toBytes]
  exact Nat.mod_eq_of_lt (BitVec.isLt _)

/-- Port 11 down and up, a flit of the next number, a damaged one; RSP, ACK and WDR of what waits; a window with two routes and
one without; host requests at the last bytes of die 0; a drive's write. -/
theorem witness_RemoteAndHostAccess_links :
    let down := base
    let up (rx : List Byte) : State :=
      { base with fabric := { base.fabric with ports := [(0, { Port.reset with up := true, rx })] } }
    let flit := flitBytes 1 0 false 0 (List.replicate 240 0)
    let rsp := { from9 5 0 0 (List.replicate 8 0) with opnd := 0, stat := 0 }
    let ack := { from9 6 0 0 [] with opnd := 3 }
    let wdr := from9 7 0 0 []
    let win : SrcWin := { dst := 9, cls := 0, next := 3, retry := [(1, [])], kept := [(0, [])], awaited := [], route := 0, tries := 0 }
    let ways (routes : Table (Bool × Nat × Nat)) : State :=
      { base with fabric := { base.fabric with src := [win], routes, ports := [(0, { Port.reset with up := true })] } }
    let two := ways [(36, (true, 0, 5)), (37, (true, 0, 6))]
    let none_ := ways []
    let last : HostReq := { fn := 0, cxl := false, write := true, addr := 48 * 2 ^ 30 - 8, len := 8, data := List.replicate 8 1 }
    let beyond : HostReq := { last with write := false, addr := 48 * 2 ^ 30, data := [] }
    (down.portExists 11 = true ∧ (down.portOf 11).up = false ∧ (up []).portExists 0 = true ∧ ((up []).portOf 0).up = true)
    ∧ (flit.length = 256 ∧ ofBytes (flit.drop 248) = (crc64 (flit.take 248)).toNat ∧ wbits (wordAt flit 0) 39 1 = 0
      ∧ ([] : List Byte).length ≠ 256)
    ∧ (((up rsp.bytes).portOf 0).headPacket = some rsp.bytes ∧ Packet.parse rsp.bytes = rsp ∧ rsp.type = 5 ∧ rsp.opnd.toNat < 2)
    ∧ (((up ack.bytes).portOf 0).headPacket = some ack.bytes ∧ Packet.parse ack.bytes = ack ∧ ack.type = 6 ∧ ack.seq < 2)
    ∧ (((up wdr.bytes).portOf 0).headPacket = some wdr.bytes ∧ Packet.parse wdr.bytes = wdr ∧ wdr.type = 7
      ∧ ∃ x ∈ ({ up wdr.bytes with
          parks := [{ key := .line 1, cond := .barrier, agent := .remote 9 0 0, va := 0, page := 0, lim := 0, pkt := [] }] } : State).parks,
          x.agent = .remote wdr.src 0 wdr.seq)
    ∧ (9 ∉ two.fabric.unreach ∧ (two.srcWin 9 0).dst = 9 ∧ (two.srcWin 9 0).cls = 0 ∧ (two.srcWin 9 0).retry ≠ [] ∧ two.validRoutes 9 = 2
      ∧ (two.srcWin 9 0).tries + 1 < 3 * two.validRoutes 9 ∧ two.nextRoute 9 1 = some 1)
    ∧ (9 ∉ none_.fabric.unreach ∧ (none_.srcWin 9 0).retry ≠ [] ∧ none_.routeBroken (none_.srcWin 9 0) = true ∧ 3 * none_.validRoutes 9 ≤ (none_.srcWin 9 0).tries + 1)
    ∧ (last.data ≠ [] ∧ base.hostReaches last 8 = true ∧ base.hostStalls last 8 = false ∧ base.hostReaches beyond 8 = false ∧ beyond.len ≠ 0) := by
  refine ⟨by decide +kernel, ⟨(flit_sound _ _ _ _ _ List.length_replicate).1, (flit_sound _ _ _ _ _ List.length_replicate).2, by decide +kernel, by decide⟩, by decide +kernel, by decide +kernel, by decide +kernel,
    by decide +kernel, by decide +kernel, by decide +kernel⟩

theorem witness_RemoteAndHostAccess_aperture :
    let s := commanding storrdCmd
    let op := statusStore (0x5000 + 511) [7]
    s.calm ∧ s.AtWork storrdCmd 0 6 ∧ storrdCmd.left = [] ∧ storrdCmd.under = none ∧ ([7] : List Byte) ≠ [] ∧ 511 + 1 ≤ cwSize storrdCmd.w ∧ cwDst storrdCmd.w = 0x5000
    ∧ OpsPass s storrdCmd.who [op] [(op, [piece 0x51FF 1])] :=
  ⟨commanding_calm _, commanding_at _ _ ⟨rfl, rfl, rfl, rfl⟩, rfl, rfl, by decide, by decide, by decide, opsPass_eq _ _ _ _ (by decide +kernel) (by decide +kernel)⟩


/-- A state with a request of function fn in its mailbox. -/
def mailed (s : State) (fn code ctx : Nat) (ws : List Word) : State :=
  s.setFunc fn { s.funcOf fn with busy := true, mbreq := BitVec.ofNat 64 (code * 2 ^ 56 + ctx * 2 ^ 32) :: ws }

/-- A mailbox of function 0 in a state whose life cycle has begun, its save pool mapped with U = 0. -/
def begun : State := { words base 0x10000 [0x3B3] with mgmt := { base.mgmt with life := 1 } }

/-- The words of an isolation entry. -/
def isolation : List Word := [0x0010000000000000, 0x8000, 0x400000, 1, 1, 0, 0]

/-- A WINMAP of the longest window and an EXPORT. -/
def winmapWords : List Word := [255, 0x8001000020000000, 0x4000, 0, 0, 0, 0]
def exportWords : List Word := [255, 0x8000000000000000, 0, 0, 0, 0, 0]

/-- Every request code, with words that are in range at their ends. -/
theorem witness_MailboxAndQueues_asked :
    ∀ x ∈ [(1, 4095, isolation), (1, 0, isolation), (2, 0, [9, 0, 0, 0, 0, 0, 0]), (2, 0, [16, 0, 0, 0, 0, 0, 0]), (3, 0, isolation), (4, 0, isolation),
        (5, 0, [15, 0xC000000000020000, 0, 0, 0, 0, 0]), (6, 0, isolation), (7, 0, [1, 2, 3, 4, 0x1000, 0, 0]), (8, 0, winmapWords),
        (9, 0, exportWords), (10, 0, [0x0048640000000000, 0, 0, 0, 0, 0, 0]), (11, 0, isolation)],
      (mailed begun 0 x.1 x.2.1 x.2.2).Asked 0 x.1 x.2.1 x.2.2 := by
  unfold State.Asked
  decide +kernel

theorem witness_MailboxAndQueues_requests :
    let create := mailed begun 0 1 4095 isolation
    let idle := mailed (on begun fun h => { h with live := false }) 0 3 0 isolation
    let e := wset (winmapWords.getD 1 0) 58 5 0
    (create.mgmt.life ≠ 0 ∧ (create.ctxOf 4095).valid = false ∧ entryOk (isolation.take 5) = true
      ∧ (create.setCtx 4095 (newCtx 0 (isolation.take 5))).poolMapped 4095 = true ∧ (create.ctxOf 0).valid = true)
    ∧ (create.owns 0 0 = true ∧ (create.ctxOf 0).ended = false ∧ idle.seqsOf 0 = [] ∧ idle.tasks = [] ∧ Table.wf Ctx.none create.ctxs = true)
    ∧ ((create.winOf 255).1.getLsbD 63 = false ∧ wbits e 30 18 = 0 ∧ wbits e 0 30 = 2 ^ 29 ∧ wbits (winmapWords.getD 2 0) 0 14 = 0
      ∧ wbits (winmapWords.getD 2 0) 57 7 = 0)
    ∧ (wbits (exportWords.getD 1 0) 0 33 = 0 ∧ create.owns 0 (wbits (exportWords.getD 1 0) 33 12) = true
      ∧ (Table.get 0 255 create.fabric.exports).getLsbD 63 = false) := by
  decide +kernel


/-- Queue 31 of function 0: enabled for context 0, refused, switched out and in; an entry that names the launch record, and one
with a reserved bit. -/
theorem witness_MailboxAndQueues_queues :
    let s := recorded (words (stagedLine []) 0x2000 [0x1000])
    let queue (out : Bool) (s : State) : State :=
      (s.setQueue 0 31 { HostQ.reset with qbase := 0x2000, qctl := 0x8000000000000004, tail := 1, out }).useQueue 0 31
    let q := queue false s
    let bad := queue false (words (stagedLine []) 0x2000 [0x1001])
    let w := q.queueWho 0 31 0
    (31 < 32 ∧ base.owns 0 (wbits (0x8000000000000010 : Word) 16 12) = true ∧ wbits (0x8000000000000010 : Word) 0 5 = 16
      ∧ wbits (0x8000000000000003 : Word) 0 5 < 4)
    ∧ ((q.queueOf 0 31).en = true ∧ (q.queueOf 0 31).out = false)
    ∧ (((queue true s).queueOf 0 31).out = true ∧ (queue true s).queuesIn < 128 ∧ ((queue true s).ctxOf 0).suspended = false)
    ∧ (q.calm ∧ (q.ctxOf 0).valid = true ∧ (q.ctxOf 0).ended = false ∧ (q.queueOf 0 31).head % 16 ≠ (q.queueOf 0 31).tail % 16
      ∧ q.Reads w [plain 0x2000 64 .load] [q.readPhys 0x2000 64] ∧ (q.queueOf 0 31).owed = none ∧ q.idlest = some (0, 31)
      ∧ (∀ r ∈ q.remotes, r.agent ≠ .queue 0 31) ∧ (∀ r ∈ q.flights, r.agent ≠ .queue 0 31)
      ∧ q.Posts w (statusStore (0x2000 + 24) (toBytes (2 ^ 63 + q.serial) 8)) [piece 0x2018 8]
      ∧ q.Posts w (statusStore (0x2000 + 24) (toBytes 7 8)) [piece 0x2018 8]
      ∧ hostEntryBad (q.readPhys 0x2000 64) = false ∧ q.Reads w [plain 0x1000 8 .load] [q.readPhys 0x1000 8]
      ∧ recordSize (wbits (wordAt (q.readPhys 0x1000 8) 0) 56 8) = 832 ∧ q.Reads w [plain 0x1000 832 .load] [launchRecord]
      ∧ toV3 launchRecord = .ok launchRecord ∧ q.checkRecord 0 w.level launchRecord = .ok [[0x4000, 0x4001]]
      ∧ ∀ k ∈ linesOf 0x2018 8, k ∉ [[0x4000, 0x4001]].flatten)
    ∧ (bad.calm ∧ bad.Posts w (statusStore (0x2000 + 24) (toBytes 7 8)) [piece 0x2018 8] ∧ bad.Reads w [plain 0x2000 64 .load] [bad.readPhys 0x2000 64] ∧ hostEntryBad (bad.readPhys 0x2000 64) = true) := by
  unfold State.calm State.Canonical State.quiet
  refine ⟨by decide +kernel, by decide +kernel, by decide +kernel,
    ⟨by decide +kernel, by decide +kernel, by decide +kernel, by decide +kernel, reads_eq _ _ _ _ (by decide +kernel) (by decide +kernel) (by decide +kernel),
      by decide +kernel, by decide +kernel, by decide +kernel, by decide +kernel, posts_of _ _ _ _ (by decide +kernel) (by decide +kernel),
      posts_of _ _ _ _ (by decide +kernel) (by decide +kernel), by decide +kernel, reads_eq _ _ _ _ (by decide +kernel) (by decide +kernel) (by decide +kernel),
      by decide +kernel, reads_eq _ _ _ _ (by decide +kernel) (by decide +kernel) (by decide +kernel), ok_of (by decide +kernel), ok_of (by decide +kernel),
      by decide +kernel⟩,
    by decide +kernel, posts_of _ _ _ _ (by decide +kernel) (by decide +kernel),
    reads_eq _ _ _ _ (by decide +kernel) (by decide +kernel) (by decide +kernel), by decide +kernel⟩


/-- LIMIT and TTHR at their ends, SYS writes of a program and of a supervisor, a die at its limit, a frame given to tenant 31. -/
theorem witness_PackageManagement :
    let lost := { base with mgmt := { base.mgmt with recovery := true } }
    let fresh := { base with mgmt := { base.mgmt with life := 1 } }
    (wbits (0x0048500000000000 : Word) 48 7 = 72 ∧ wbits (0x0048500000000000 : Word) 40 8 = 80
      ∧ wbits (0x0078640000000000 : Word) 48 7 = 120 ∧ wbits (0x0078640000000000 : Word) 40 8 = 100)
    ∧ ¬ 72 ≤ wbits (0x0047500000000000 : Word) 48 7
    ∧ (fresh.mgmt.recovery = false ∧ fresh.mgmt.life < 3 ∧ lost.mgmt.recovery = true)
    ∧ (base.mgmt.trip = false ∧ fresh.mgmt.life ≠ 3 ∧ (fresh.funcOf 0).busy = false ∧ (1 : Word).getLsbD 0 = true ∧ fresh.mgmt.boot = .ready
      ∧ wbits ((fresh.funcOf 0).mbreq.getD 0 0) 56 8 = 0 ∧ wbits ((fresh.setFunc 0 { fresh.funcOf 0 with mbreq := [0x0B00000000000000] }).funcOf 0
          |>.mbreq.getD 0 0) 56 8 = 11)
    ∧ (72 < base.mgmt.limit ∧ 512 < (base.coreOf 0).pcap ∧ Table.wf Core.reset base.cores = true)
    ∧ (2 ^ 18 ≤ (0x40000 : Word).toNat ∧ (0x40000 : Word).toNat ≤ 2 ^ 24)
    ∧ (base.hart.live = true ∧ csrListed 0x103 = true ∧ csrSupervisor 0x103 = true ∧ base.hart.level = .supervisor ∧ csrSupervisor 0x10 = false)
    ∧ (Table.wf Core.reset base.cores = true ∧ base.mgmt.tthr ≤ 95) ∧ Table.wf Ctx.none base.ctxs = true
    ∧ (Table.wf 0 base.frames = true ∧ base.frameTenant 0xBFFFFC000 ≠ 31 ∧ homeOf 0xBFFFFC000 = .dram 0) := by
  refine ⟨by decide +kernel, by decide +kernel, by decide +kernel, by decide +kernel, by decide +kernel, by decide +kernel, by decide +kernel, by decide +kernel, by decide +kernel, by decide +kernel⟩


/-! ## Statements with hypotheses: encoding and the step -/

/-- A close of a chute, a branch to the word before, a word that decodes. -/
theorem witness_EncodeDecodeAgree :
    let b : Instr := .bc 5 ⟨0, 1, 2, -1⟩
    let c : Instr := .chputClose ⟨5, 6, 7, 0⟩
    (encode b).isSome = true ∧ b.wf = true ∧ (encode c).isSome = true ∧ c.wf = true
    ∧ decode 0x1E00000000000000 = .ok (.nop { d := 0, a := 0, b := 0, c := 0 }) :=
  ⟨by decide, by decide, by decide, by decide, rfl⟩

theorem witness_StepRunsDecoded :
    let nop := words base 0x20000 [0x1E00000000000000]
    let bad := words handled 0x20000 [0x0160A63800000000]
    let add := words (on base fun h => { h with owner := none }) 0x20000 [0x2000221815100000]
    let lost := on handled fun h => { h with pc := 0x400000000 }
    let z (s : State) : State := { s with rix := 0 }
    let access (s : State) := s.checkAccess s.hart.ctx s.hart.level .fetch false true s.hart.pc.toNat 8
    (nop.AtFetch ∧ nop.calm ∧ access nop = .ok [piece 0x20000 8] ∧ (piece 0x20000 8).isRemote = false ∧ nop.poisoned 0x20000 8 = false)
    ∧ ((∃ t, fetchWord (z nop) = (.ok 0x1E00000000000000, t)) ∧ decode 0x1E00000000000000 = .ok (.nop { d := 0, a := 0, b := 0, c := 0 }))
    ∧ (bad.AtFetch ∧ (∃ t, fetchWord (z bad) = (.ok 0x0160A63800000000, t)) ∧ decode 0x0160A63800000000 = .error .illegal ∧ bad.canTrap)
    ∧ (add.AtFetch ∧ (∃ t, fetchWord (z add) = (.ok 0x2000221815100000, t) ∧ t.hart.needsVfirst = true) ∧ touchesVec 0x2000221815100000 = true)
    ∧ (lost.AtFetch ∧ (∃ st t, fetchWord (z lost) = (.error st, t)) ∧ lost.canTrap ∧ errOf (access lost) = some (5, 0x400000000)) := by
  have fetched : ∀ (s : State) (w : Word), okOf (fetchWord s).1 = some w → fetchWord s = (.ok w, (fetchWord s).2) :=
    fun s w h => Prod.ext (ok_of h) rfl
  have failed : ∀ s : State, (okOf (fetchWord s).1).isNone = true → ∃ st t, fetchWord s = (.error st, t) := by
    intro s h
    match e : fetchWord s with
    | (.error st, t) => exact ⟨st, t, rfl⟩
    | (.ok w, t) => rw [e] at h; cases h
  unfold State.AtFetch State.calm State.Canonical State.quiet State.canTrap
  refine ⟨⟨by decide +kernel, by decide +kernel, ok_of (by decide +kernel), by decide, by decide +kernel⟩,
    ⟨⟨_, fetched _ _ (by decide +kernel)⟩, rfl⟩,
    ⟨by decide +kernel, ⟨_, fetched _ _ (by decide +kernel)⟩, rfl, by decide +kernel⟩,
    ⟨by decide +kernel, ⟨_, fetched _ _ (by decide +kernel), by decide +kernel⟩, by decide +kernel⟩,
    ⟨by decide +kernel, failed _ (by decide +kernel), by decide +kernel, by decide +kernel⟩⟩

theorem witness_StepKeepsTablesCanonical : State.reset.Canonical ∧ step State.reset = .next State.reset := by
  unfold State.Canonical
  exact ⟨by decide, rfl⟩


/-! ## Words written out from 04 Tables 4.1 and 4.6 -/

/-- 04 R81, R82, Tables 4.1 and 4.6: OP 0x01 to 0x13. -/
theorem test_decode_scalar :
    decode 0x015FFEEF00000000 = .ok (.fshr ⟨31, 30, 29, 28⟩)
    ∧ decode 0x0154A63A00000000 = .ok (.sel ⟨5, 6, 7, 8⟩)
    ∧ decode 0x021CA6000000003F = .ok (.rotli ⟨5, 6, 0, 63⟩)
    ∧ decode 0x0224A60000001000 = .ok (.bins ⟨5, 6, 0, 4096⟩)
    ∧ decode 0x030CA50000000000 = .ok (.rdls ⟨5, 5, 0, 0⟩)
    ∧ decode 0x0414A63800000000 = .ok (.setc 5 ⟨5, 6, 7, 0⟩)
    ∧ decode 0x0504A0000007FFFF = .ok (.lih ⟨5, 524287⟩)
    ∧ decode 0x0600A007FFFFFFFF = .ok (.pcadd ⟨5, 0, 0, -1⟩)
    ∧ decode 0x100CA607FFFFFFF8 = .ok (.ld 3 ⟨5, 6, 0, -8⟩)
    ∧ decode 0x1104063BFFFFFFFF = .ok (.st 1 ⟨0, 6, 7, 17179869183⟩)
    ∧ decode 0x1200A60001CEFFF8 = .ok (.ldOrdered ⟨5, 6, 0, 0, 0, 0, 3, 4, 7, 0, -8⟩)
    ∧ decode 0x1300063801260004 = .ok (.stOrdered ⟨0, 6, 7, 0, 0, 0, 2, 2, 3, 0, 4⟩) :=
  ⟨rfl, rfl, rfl, rfl, rfl, rfl, rfl, rfl, rfl, rfl, rfl, rfl⟩

/-- 04 Table 4.6: OP 0x18 to 0x1E. -/
theorem test_decode_control :
    decode 0x1810053FFFFFFFFF = .ok (.bc 4 ⟨0, 5, 7, -1⟩)
    ∧ decode 0x19000003FFFFFFFF = .ok (.j ⟨0, 0, 0, 17179869183⟩)
    ∧ decode 0x1A03E00400000000 = .ok (.jl ⟨31, 0, 0, -17179869184⟩)
    ∧ decode 0x1B03FE0000000000 = .ok (.jr ⟨31, 30, 0, 0⟩)
    ∧ decode 0x1C00060000000003 = .ok (.loop ⟨0, 6, 0, 3⟩)
    ∧ decode 0x1D00000000000000 = .ok (.lbrk ⟨0, 0, 0, 0⟩) :=
  ⟨rfl, rfl, rfl, rfl, rfl, rfl⟩

/-- 04 Table 4.6: OP 0x20 to 0x30. -/
theorem test_decode_vector :
    decode 0x204822193D800000 = .ok (.vfshrVv ⟨1, 2, 3, 4, 7, 1, 3, 0, 0, 0, 0⟩)
    ∧ decode 0x2108E21800100009 = .ok (.vcmp ⟨7, 2, 3, 0, 0, 0, 0, 1, 0, 0, 9⟩)
    ∧ decode 0x2110220001100009 = .ok (.vwid ⟨1, 2, 0, 0, 0, 0, 2, 1, 0, 0, 9⟩)
    ∧ decode 0x220022000080000A = .ok (.vpxu ⟨1, 2, 0, 0, 0, 0, 1, 0, 0, 0, 10⟩)
    ∧ decode 0x240C221900B60000 = .ok (.vfmaVv ⟨1, 2, 3, 4, 0, 0, 1, 3, 0, 6, 0⟩)
    ∧ decode 0x2514220001A00000 = .ok (.vfclass ⟨1, 2, 0, 0, 0, 0, 3, 2, 0, 0, 0⟩)
    ∧ decode 0x260022180120000B = .ok (.vfcmp ⟨1, 2, 3, 0, 0, 0, 2, 2, 0, 0, 11⟩)
    ∧ decode 0x2608220001210018 = .ok (.vficvt ⟨1, 2, 0, 0, 0, 0, 2, 2, 0, 1, 24⟩)
    ∧ decode 0x280022F801100000 = .ok (.vaddVs ⟨1, 2, 31, 0, 0, 0, 2, 1, 0, 0, 0⟩)
    ∧ decode 0x2C1822F801250000 = .ok (.vfdivVs ⟨1, 2, 31, 0, 0, 0, 2, 2, 0, 5, 0⟩)
    ∧ decode 0x304022000190FFFF = .ok (.vsraVi ⟨1, 2, 0, 0, 0, 0, 3, 1, 0, 0, -1⟩) :=
  ⟨rfl, rfl, rfl, rfl, rfl, rfl, rfl, rfl, rfl, rfl, rfl⟩

/-- 04 Table 4.6: OP 0x40 to 0x44 and 0x9F. -/
theorem test_decode_permute :
    decode 0x4000A2F801100000 = .ok (.vmvx ⟨5, 2, 31, 0, 0, 0, 2, 1, 0, 0, 0⟩)
    ∧ decode 0x4008260000400000 = .ok (.vbc ⟨1, 6, 0, 0, 0, 0, 0, 4, 0, 0, 0⟩)
    ∧ decode 0x4108221800A00000 = .ok (.vperm ⟨1, 2, 3, 0, 0, 0, 1, 2, 0, 0, 0⟩)
    ∧ decode 0x420C220001000000 = .ok (.vredand ⟨1, 2, 0, 0, 0, 0, 2, 0, 0, 0, 0⟩)
    ∧ decode 0x421C220001220000 = .ok (.vscan ⟨1, 2, 0, 0, 0, 0, 2, 2, 0, 2, 0⟩)
    ∧ decode 0x430CE62800000000 = .ok (.mandn ⟨7, 6, 5, 0, 0, 0, 0, 0, 0, 0, 0⟩)
    ∧ decode 0x4400221802600012 = .ok (.vqblk ⟨1, 2, 3, 0, 0, 0, 4, 6, 0, 0, 18⟩)
    ∧ decode 0x9F00E40001800000 = .ok (.setvl ⟨7, 4, 0, 0, 0, 0, 3, 0, 0, 0, 0⟩)
    ∧ decode 0x9F04000000000020 = .ok (.vcfg ⟨0, 0, 0, 0, 0, 0, 0, 0, 0, 0, 32⟩) :=
  ⟨rfl, rfl, rfl, rfl, rfl, rfl, rfl, rfl, rfl⟩

/-- 04 Table 4.6: OP 0x50 to 0x66. -/
theorem test_decode_memory :
    decode 0x500026000101FFF0 = .ok (.vldff ⟨1, 6, 0, 0, 0, 0, 2, 0, 0, 1, -16⟩)
    ∧ decode 0x5100263801800000 = .ok (.vlds ⟨1, 6, 7, 0, 0, 0, 3, 0, 0, 0, 0⟩)
    ∧ decode 0x5200261001000000 = .ok (.vldx ⟨1, 6, 2, 0, 0, 0, 2, 0, 0, 0, 0⟩)
    ∧ decode 0x5344260001000000 = .ok (.vldseg 17 ⟨1, 6, 0, 0, 0, 0, 2, 0, 0, 0, 0⟩)
    ∧ decode 0x54082610014A0000 = .ok (.vldscIndexed ⟨1, 6, 2, 0, 0, 0, 2, 4, 5, 0, 0⟩)
    ∧ decode 0x580026001C800000 = .ok (.vst ⟨1, 6, 0, 0, 3, 1, 1, 0, 0, 0, 0⟩)
    ∧ decode 0x5900263801800000 = .ok (.vsts ⟨1, 6, 7, 0, 0, 0, 3, 0, 0, 0, 0⟩)
    ∧ decode 0x5A00261001000000 = .ok (.vstx ⟨1, 6, 2, 0, 0, 0, 2, 0, 0, 0, 0⟩)
    ∧ decode 0x5C00263800000000 = .ok (.vstbm ⟨1, 6, 7, 0, 0, 0, 0, 0, 0, 0, 0⟩)
    ∧ decode 0x5D00260001400000 = .ok (.vstscUnit ⟨1, 6, 0, 0, 0, 0, 2, 4, 0, 0, 0⟩)
    ∧ decode 0x6004A63A01BE0000 = .ok (.amoCas ⟨5, 6, 7, 8, 0, 0, 3, 3, 7, 0, 0⟩)
    ∧ decode 0x61242610C1000000 = .ok (.vamoMaxn ⟨1, 6, 2, 3, 0, 0, 2, 0, 0, 0, 0⟩)
    ∧ decode 0x6500A40000000000 = .ok (.probe ⟨5, 4, 0, 0, 0, 0, 0, 0, 0, 0, 0⟩)
    ∧ decode 0x6604A63800000000 = .ok (.arrive ⟨5, 6, 7, 0⟩)
    ∧ decode 0x6300A60000000000 = .ok (.vwait ⟨5, 6, 0, 0⟩) :=
  ⟨rfl, rfl, rfl, rfl, rfl, rfl, rfl, rfl, rfl, rfl, rfl, rfl, rfl, rfl, rfl⟩

/-- 04 Table 4.6: OP 0x68 to 0x6E. -/
theorem test_decode_staged :
    decode 0x680CA607FFFFFFFF = .ok (.sld 3 ⟨5, 6, 0, 15, 7, -1⟩)
    ∧ decode 0x6900063880000004 = .ok (.sst 0 ⟨0, 6, 7, 1, 0, 4⟩)
    ∧ decode 0x6A00A60160000000 = .ok (.strn ⟨5, 6, 0, 2, 6, 0⟩)
    ∧ decode 0x6B00A63800000000 = .ok (.stbl ⟨5, 6, 7, 0⟩)
    ∧ decode 0x6C00A63800000003 = .ok (.sbind ⟨5, 6, 7, 3⟩)
    ∧ decode 0x6D00A63800000000 = .ok (.sunbind ⟨5, 6, 7, 0⟩)
    ∧ decode 0x6E00A60000000040 = .ok (.sqry ⟨5, 6, 0, 0, 0, 64⟩) :=
  ⟨rfl, rfl, rfl, rfl, rfl, rfl, rfl⟩

/-- 04 Table 4.6: OP 0x70 to 0x7D. -/
theorem test_decode_columns :
    decode 0x7000242801800000 = .ok (.cdef ⟨1, 4, 5, 0, 0, 6, 0⟩)
    ∧ decode 0x7100A110C00E0000 = .ok (.cld ⟨5, 1, 2, 3, 0, 0, 7⟩)
    ∧ decode 0x7500200000000000 = .ok (.cclr ⟨1, 0, 0, 0, 0, 0, 0⟩)
    ∧ decode 0x7300A10000000000 = .ok (.clen ⟨5, 1, 0, 0, 0, 0, 0⟩)
    ∧ decode 0x7C002200000E0000 = .ok (.cuniq ⟨1, 2, 0, 0, 0, 0, 7⟩)
    ∧ decode 0x7400AF0000000000 = .ok (.cpend ⟨5, 15, 0, 0, 0, 0, 0⟩) :=
  ⟨rfl, rfl, rfl, rfl, rfl, rfl⟩

/-- 04 Table 4.6: OP 0x80 to 0x95. -/
theorem test_decode_system :
    decode 0x8201050000000000 = .ok (.tcancel ⟨8, 5, 0, 0⟩)
    ∧ decode 0x880048283C000000 = .ok (.batch ⟨2, 8, 5, 7, 1⟩)
    ∧ decode 0x8900A63800000000 = .ok (.publ ⟨5, 6, 7, 0⟩)
    ∧ decode 0x8A00A60000000002 = .ok (.xtbl ⟨5, 6, 0, 2⟩)
    ∧ decode 0x9008A60300000000 = .ok (.csrs ⟨5, 6, 48, 0⟩)
    ∧ decode 0x910005000000FFFF = .ok (.trap ⟨0, 5, 0, 65535⟩)
    ∧ decode 0x9104000000000000 = .ok (.rft ⟨0, 0, 0, 0⟩)
    ∧ decode 0x9108000000000000 = .ok (.isync ⟨0, 0, 0, 0⟩)
    ∧ decode 0x910C000000000000 = .ok (.halt ⟨0, 0, 0, 0⟩)
    ∧ decode 0x9204E60000000000 = .ok (.vrest ⟨7, 6, 0, 0⟩)
    ∧ decode 0x9300A63800000000 = .ok (.launch ⟨5, 6, 7, 0⟩)
    ∧ decode 0x9308000000000000 = .ok (.exit ⟨0, 0, 0, 0⟩)
    ∧ decode 0x9404A60000000000 = .ok (.chgetOpen ⟨5, 6, 0, 0⟩)
    ∧ decode 0x9504A63800000000 = .ok (.wmpub ⟨5, 6, 7, 0⟩) :=
  ⟨rfl, rfl, rfl, rfl, rfl, rfl, rfl, rfl, rfl, rfl, rfl, rfl, rfl, rfl⟩

/-- 04 R94, R96: reserved OPs, an unassigned FN, a range of FN, a reserved field. R86: types outside the set and pairs. -/
theorem test_decode_refuses :
    decode 0 = .error .illegal ∧ decode 0xFFFFFFFFFFFFFFFF = .error .illegal ∧ decode 0x0160000000000000 = .error .illegal
    ∧ decode 0x1818000000000000 = .error .illegal ∧ decode 0x5300000000000000 = .error .illegal
    ∧ decode 0x1E00000000000001 = .error .rsvdField ∧ decode 0x2400853001300000 = .error .unimplCombo
    ∧ decode 0x2400853001400000 = .error .illegal ∧ decode 0x2400853001270000 = .error .illegal :=
  ⟨rfl, rfl, rfl, rfl, rfl, rfl, rfl, rfl, rfl⟩

/-! ## Ill-formed instructions, one for each check of WellFormed -/

/-- A used reserved field (R83), a code out of range (R91), a pair that is no type (R86). -/
theorem test_wf_refuses :
    (Instr.add ⟨5, 6, 7, 1⟩).wf = false
    ∧ (Instr.shli ⟨5, 6, 0, 64⟩).wf = false
    ∧ (Instr.vfaddVv ⟨4, 5, 6, 0, 0, 0, 2, 3, 0, 0, 0⟩).wf = false
    ∧ (Instr.add ⟨5, 6, 7, 0⟩).wf = true ∧ (Instr.shli ⟨5, 6, 0, 63⟩).wf = true
    ∧ (Instr.vfaddVv ⟨4, 5, 6, 0, 0, 0, 2, 2, 0, 0, 0⟩).wf = true := by
  decide

/-! ## The spec's worked examples -/

/-- The instruction completes and leaves v in a g register. -/
def gives (i : Instr) (s : State) (r : BitVec 5) (v : Word) : Bool :=
  match exec i s with
  | .next t => t.rg r == v
  | _ => false

/-- 06 Table 6.2. -/
theorem test_division :
    let s (a b : Word) := regs [(6, a), (7, b)]
    let f : RrF := ⟨5, 6, 7, 0⟩
    gives (.div f) (s (-7) 2) 5 (-3) ∧ gives (.rem f) (s (-7) 2) 5 (-1) ∧ gives (.divn f) (s (-7) 2) 5 0x7FFFFFFFFFFFFFFC
    ∧ gives (.remn f) (s (-7) 2) 5 1 ∧ gives (.div f) (s 7 (-2)) 5 (-3) ∧ gives (.rem f) (s 7 (-2)) 5 1
    ∧ gives (.div f) (s 0x8000000000000000 (-1)) 5 0x8000000000000000 ∧ gives (.rem f) (s 0x8000000000000000 (-1)) 5 0
    ∧ gives (.remn f) (s 0x8000000000000000 (-1)) 5 0x8000000000000000 ∧ gives (.div f) (s 5 0) 5 (-1) ∧ gives (.remn f) (s 5 0) 5 5 := by
  decide +kernel

/-- 06 R134, R136. -/
theorem test_bits :
    gives (.fshl ⟨5, 6, 7, 8⟩) (regs [(6, 0xFF), (7, 0xF000000000000000), (8, 4)]) 5 0xFFF
    ∧ gives (.fshr ⟨5, 6, 7, 8⟩) (regs [(6, 0xFF), (7, 0xF000000000000000), (8, 4)]) 5 0xFF00000000000000
    ∧ gives (.bext ⟨5, 6, 0, 0x308⟩) (regs [(6, 0xABCDEF)]) 5 0xBCD := by
  decide +kernel

/-- A state of three elements of 8 bits, with v2, v3 and v9 given by their bits. -/
def octets (a b c : Nat) : State :=
  let v := ((full.hart.vec.v.setIfInBounds 2 (BitVec.ofNat 65536 a)).setIfInBounds 3 (BitVec.ofNat 65536 b)).setIfInBounds 9
    (BitVec.ofNat 65536 c)
  on full fun h => { h with vec := { h.vec with v, vl := 3 } }

/-- The instruction completes and leaves an element of v1. -/
def leaves (i : Instr) (s : State) (e w : Nat) (v : Nat) : Bool :=
  match exec i s with
  | .next t => t.hart.vec.elem 1 e w == v
  | _ => false

/-- Fields of a vector word on v1, v2 and v3. -/
def vf (ew ty : BitVec 3) (sat : BitVec 1) (rm : BitVec 3) (imm : BitVec 16) (b c : BitVec 5) : VvF := ⟨1, 2, b, c, 0, 0, ew, ty, sat, rm, imm⟩

/-- 07 Table 7.3. -/
theorem test_octets :
    leaves (.vaddsVv (vf 0 1 0 0 0 3 0)) (octets 100 50 0) 0 8 0x7F ∧ leaves (.vaddsVv (vf 0 0 0 0 0 3 0)) (octets 200 100 0) 0 8 0xFF
    ∧ leaves (.vsubsVv (vf 0 0 0 0 0 3 0)) (octets 5 9 0) 0 8 0 ∧ leaves (.vavgVv (vf 0 0 0 0 0 3 0)) (octets 255 254 0) 0 8 0xFF
    ∧ leaves (.vavgVv (vf 0 1 0 0 0 3 0)) (octets 0xFD 2 0) 0 8 0 ∧ leaves (.vabsdVv (vf 0 1 0 0 0 3 0)) (octets 0x80 127 0) 0 8 0xFF
    ∧ leaves (.vmulhVv (vf 0 1 0 0 0 3 0)) (octets 0x80 0x80 0) 0 8 0x40 ∧ leaves (.vmulhVv (vf 0 0 0 0 0 3 0)) (octets 0xFF 0xFF 0) 0 8 0xFE
    ∧ leaves (.vsraVv (vf 0 1 0 0 0 3 0)) (octets 0x80 9 0) 0 8 0xC0 ∧ leaves (.vfshlVv (vf 0 0 0 0 0 3 9)) (octets 0x12 0x34 4) 0 8 0x23
    ∧ leaves (.vfshrVv (vf 0 0 0 0 0 3 9)) (octets 0x12 0x34 4) 0 8 0x23 := by
  decide +kernel

/-- 07 R167, R170: narrowing with and without saturation, packed samples of both orders. -/
theorem test_narrow :
    let s := octets (0xFFFB + 300 * 65536 + 200 * 65536 ^ 2) 0 0
    leaves (.vnar (vf 0 0 1 0 9 0 0)) s 0 8 0 ∧ leaves (.vnar (vf 0 0 1 0 9 0 0)) s 1 8 0xFF ∧ leaves (.vnar (vf 0 0 0 0 9 0 0)) s 0 8 0xFB
    ∧ leaves (.vnar (vf 0 0 0 0 9 0 0)) s 1 8 0x2C ∧ leaves (.vnar (vf 0 0 0 0 9 0 0)) s 2 8 0xC8
    ∧ leaves (.vpxu (vf 1 0 0 0 12 0 0)) (octets 0x123ABC 0 0) 0 16 0xABC ∧ leaves (.vpxu (vf 1 0 0 0 28 0 0)) (octets 0x23C1AB 0 0) 1 16 0x123
    ∧ leaves (.vpxu (vf 1 1 0 0 12 0 0)) (octets 0x123ABC 0 0) 0 16 0xFABC ∧ leaves (.vpxp (vf 1 0 1 0 12 0 0)) (octets 0x1ABC 0 0) 0 12 0xFFF
    ∧ leaves (.vpxp (vf 1 0 0 0 12 0 0)) (octets 0x1ABC 0 0) 0 12 0xABC := by
  decide +kernel

/-- 07 Table 7.7, and `vfexp2.f16` of 16 under R175. -/
theorem test_convert :
    leaves (.vficvt (vf 0 1 0 0 0x12 0 0)) (octets 0xC0200000 0 0) 0 8 0xFE ∧ leaves (.vficvt (vf 0 1 0 4 0x12 0 0)) (octets 0xC0200000 0 0) 0 8 0xFD
    ∧ leaves (.vficvt (vf 0 1 0 1 0x12 0 0)) (octets 0x4396599A 0 0) 0 8 0x7F ∧ leaves (.vficvt (vf 0 0 0 0 0x12 0 0)) (octets 0x7FC00000 0 0) 0 8 0
    ∧ leaves (.vfcvt (vf 0 4 1 0 0x12 0 0)) (octets 0x43FA0000 0 0) 0 8 0x7E ∧ leaves (.vfcvt (vf 0 4 0 0 0x12 0 0)) (octets 0x43FA0000 0 0) 0 8 0x7F
    ∧ leaves (.vfcvt (vf 0 4 0 0 0x12 0 0)) (octets 0x3F880000 0 0) 0 8 0x38 ∧ leaves (.vfcvt (vf 0 4 0 0 0x12 0 0)) (octets 0xBDCCCCCD 0 0) 0 8 0x9D
    ∧ leaves (.vfexp2 (vf 1 2 0 0 0 0 0)) (octets 0x4C00 0 0) 0 16 0x7C00 ∧ leaves (.vfexp2 (vf 1 2 0 1 0 0 0)) (octets 0x4C00 0 0) 0 16 0x7BFF := by
  decide +kernel

/-- 05 Table 5.2. -/
theorem test_round :
    (fmtOf 1 3).round ⟨.rne, 0, 0⟩ false ((fmtOf 2 2).val 0x3DCCCCCD) = 0x3DCD ∧ (fmtOf 0 4).round ⟨.rne, 0, 0⟩ false ((fmtOf 2 2).val 0x3DCCCCCD) = 0x1D
    ∧ (fmtOf 0 5).round ⟨.rup, 0, 0⟩ false ((fmtOf 2 2).val 0x3DCCCCCD) = 0x2F ∧ (fmtOf 0 5).round ⟨.rne, 0, 0⟩ false ((fmtOf 2 2).val 0x43FA0000) = 0x60
    ∧ (fmtOf 1 2).round ⟨.rne, 0, 0⟩ false ((fmtOf 2 2).val 0x477FF000) = 0x7C00 ∧ (fmtOf 1 2).round ⟨.rtz, 0, 0⟩ false ((fmtOf 2 2).val 0x477FF000) = 0x7BFF
    ∧ (fmtOf 0 4).round ⟨.rne, 0, 0⟩ false ((fmtOf 2 2).val 0x3A800000) = 0 ∧ (fmtOf 0 4).round ⟨.rup, 0, 0⟩ false ((fmtOf 2 2).val 0x3A800000) = 1 := by
  decide +kernel

/-- 06 Table 6.5: the shared last instruction of two loops. -/
theorem test_loops :
    let inner : Loop := ⟨false, 0x20030, 0x20030, 4, 3⟩
    let outer : Loop := ⟨false, 0x20030, 0x20020, 3, 0⟩
    let s := on base fun h => { h with pc := 0x20030, loops := [inner, outer] }
    (match exec (.addi ⟨5, 5, 0, 1⟩) s with
     | .next t => t.hart.pc == 0x20020 && t.hart.loops == [{ outer with index := 1 }]
     | _ => false) = true := by
  decide +kernel

end Sys2Proof.Tests
end

section
/-! O28: what `setvl` and `vcfg` do to the vector length, its contents and the lane group (03 R68 to R73, 20 R417 to R427). -/
namespace Sys2Proof.Machine

/-! ## Length limits and contents (03 R68, R70) -/

@[simp] theorem vlmaxOf_held (part n tvl : Nat) : vlmaxOf true part n tvl = min 65536 (min (1048576 / (part * n)) tvl) := rfl

@[simp] theorem keepLow_toNat {w : Nat} (x : BitVec w) (n : Nat) : (keepLow x n).toNat = x.toNat % 2 ^ n :=
  (BitVec.toNat_ofNat ..).trans (Nat.mod_eq_of_lt (Nat.lt_of_le_of_lt (Nat.mod_le ..) x.isLt))

/-- A change of VLMAX touches the contents, their poison and VLMAX alone. -/
theorem Vec.resize_frame (v : Vec) (n : Nat) :
    v.resize n = { v with v := (v.resize n).v, pois := (v.resize n).pois, m := (v.resize n).m, vlmax := n } := by
  unfold Vec.resize
  split
  · next h => rw [← h]
  · rfl

@[simp] theorem Vec.resize_vlmax (v : Vec) (n : Nat) : (v.resize n).vlmax = n := by rw [Vec.resize_frame]
@[simp] theorem Vec.resize_nreg (v : Vec) (n : Nat) : (v.resize n).nreg = v.nreg := by rw [Vec.resize_frame]

theorem Vec.resize_self (v : Vec) : v.resize v.vlmax = v := if_pos rfl

/-- A change of VLMAX cuts every register to the lesser length, one bit of poison for each 64 and one mask bit for each 4. -/
theorem Vec.resize_cut (v : Vec) (n : Nat) (h : n ≠ v.vlmax) :
    v.resize n = { v with
      v := v.v.map fun x => keepLow x (min v.vlmax n), pois := v.pois.map fun x => keepLow x (min v.vlmax n / 64)
      m := v.m.map fun x => keepLow x (min v.vlmax n / 4), vlmax := n } :=
  if_neg (Ne.symm h)

/-- A second change to the same VLMAX does nothing. -/
theorem Vec.resize_resize_self (v : Vec) (n : Nat) : (v.resize n).resize n = v.resize n := if_pos (Vec.resize_vlmax v n)

/-- A register of a register file whose registers were all cut. -/
theorem getD_map_keepLow {w k : Nat} (x : Vector (BitVec w) k) (n r : Nat) :
    ((x.map fun b => keepLow b n).toList.getD r 0).toNat = (x.toList.getD r 0).toNat % 2 ^ n := by
  rw [Vector.toList_map, List.getD_eq_getElem?_getD, List.getD_eq_getElem?_getD, List.getElem?_map]
  cases x.toList[r]? with
  | none => exact (Nat.zero_mod _).symm
  | some b => exact keepLow_toNat b n

/-- R70: the bits of a register below both lengths stay, those above are zero. -/
theorem Vec.resize_bits (v : Vec) (n r : Nat) :
    (v.resize n).bits r = if n = v.vlmax then v.bits r else v.bits r % 2 ^ min v.vlmax n := by
  split
  · next h => rw [h, Vec.resize_self]
  · next h =>
    rw [Vec.resize_cut v n h]
    exact getD_map_keepLow ..

/-- R70: the same of the poison of a register, one bit of it for each 64. -/
theorem Vec.resize_poison (v : Vec) (n r : Nat) :
    (v.resize n).poison r = if n = v.vlmax then v.poison r else v.poison r % 2 ^ (min v.vlmax n / 64) := by
  split
  · next h => rw [h, Vec.resize_self]
  · next h =>
    rw [Vec.resize_cut v n h]
    exact getD_map_keepLow ..

/-- R70, R59: the same of a mask register, one bit of it for each 4; m0 keeps its ones. -/
theorem Vec.resize_mr (v : Vec) (n k : Nat) :
    (v.resize n).mr k = if n = v.vlmax then v.mr k else if k = 0 then v.mr 0 else v.mr k % 2 ^ (min v.vlmax n / 4) := by
  split
  · next h => rw [h, Vec.resize_self]
  · next h =>
    rw [Vec.resize_cut v n h]
    by_cases h0 : k = 0
    · rw [if_pos h0, h0]
      rfl
    · simp only [Vec.mr, if_neg h0]
      exact getD_map_keepLow ..

/-! ## The partition (20 R417, R418, R426) -/

/-- A read of a number at which something other than the default was just written, of any table. -/
theorem Table.get_put_of_ne {α : Type} [DecidableEq α] (d : α) (k : Nat) (v : α) (t : Table α) (hv : v ≠ d) :
    Table.get d k (Table.put d k v t) = v := by
  induction t with
  | nil => simp [Table.put, hv, Table.get]
  | cons p t ih =>
    obtain ⟨i, u⟩ := p
    unfold Table.put
    by_cases hlt : k < i
    · simp [hlt, hv, Table.get]
    · by_cases he : i = k
      · simp [he, hv, Table.get]
      · rw [if_neg hlt, if_neg (Ne.symm he)]
        simp [Table.get, he, ih]

/-- A core other than an unlisted one, read after it was replaced. -/
theorem State.coreOf_setCore (s : State) (n : Nat) (c : Core) (h : c ≠ Core.reset) : (s.setCore n c).coreOf n = c :=
  Table.get_put_of_ne _ _ _ _ h

/-- A core on which a sequencer has a group is none that is unlisted. -/
theorem Core.ne_reset_of_groupOf {c : Core} {sq k : Nat} (h : c.groupOf sq = some k) : c ≠ Core.reset := by
  rintro rfl
  simp [Core.groupOf, Core.reset] at h

/-- Stale vector state is only that of another owner: a lone sequencer with state of its own saves nothing (22 R442). -/
theorem State.saveLazyCore_self (s : State) (core : Nat) (hl : s.hart.live = true) (ho : s.hart.owner = some s.hart.tag)
    (hr : s.rest = []) : s.saveLazyCore core = s := by
  have save (q : Nat) : s.saveLazy core q = s := by
    unfold State.saveLazy State.hartAt State.harts
    by_cases ha : s.hart.at core q
    · simp [hr, ha, ho, hl]
    · simp [hr, ha, Hart.reset]
  simp [State.saveLazyCore, save, List.range, List.range.loop]

/-- The partition in force is applied where no stale state is to be saved first. -/
theorem applyLanes_run (s : State) (hl : s.hart.live = true) (ho : s.hart.owner = some s.hart.tag) (hr : s.rest = []) :
    applyLanes s = (.ok ⟨⟩, s.applyPartition) := by
  simp [applyLanes, State.saveLazyCore_self s _ hl ho hr, hl, State.applyPartition]

/-- The acting sequencer under the partition in force, of which it takes group k (20 R426). -/
def Hart.inGroup (h : Hart) (c : Core) (k : Nat) : Hart :=
  { h with
    group := some k, part := c.g, pend := false, vec := h.vec.resize (vlmaxOf true c.g (regCount h.vec.nreg) h.tvl)
    lpart := c.lpart { h with group := some k } }

/-- A core of which a sequencer waits no more. -/
def Core.served (c : Core) (sq : Nat) : Core := { c with waitQ := c.waitQ.filter (· ≠ sq) }

/-- R426: the partition in force is applied to the sequencer, which waits no more. -/
theorem State.applyPartition_eq (s : State) (k : Nat) (h : (s.coreOf s.hart.core).groupOf s.hart.sq = some k) :
    s.applyPartition = { s.setCore s.hart.core ((s.coreOf s.hart.core).served s.hart.sq) with
      hart := s.hart.inGroup (s.coreOf s.hart.core) k } := by
  simp only [State.applyPartition, State.applyDecided, h, bne_self_eq_false, Bool.or_self, Bool.false_and, Option.isSome_some]
  rfl

/-- A core whose first sequencer wants lanes (20 R417): one group, for it. -/
def Core.wantedBy (c : Core) (sq : Nat) : Core := { c with g := 1, groups := [some sq], want := [sq], waitQ := [sq] }

@[simp] theorem Core.groupOf_wantedBy (c : Core) (sq : Nat) : (c.wantedBy sq).groupOf sq = some 0 := by
  simp [Core.groupOf, Core.wantedBy]

/-- R417: one sequencer wants lanes, and no group is decided for it yet: it gets the whole core. -/
theorem State.decided_first (s : State) (hr : s.rest = []) (hq : s.hart.sq < 4)
    (hw : (s.coreOf s.hart.core).want = [s.hart.sq]) (hn : (s.coreOf s.hart.core).groupOf s.hart.sq = none) :
    s.decided s.hart.core = { s.coreOf s.hart.core with g := 1, groups := [some s.hart.sq] } := by
  have free : s.lendepCore s.hart.core = false := by simp [State.lendepCore, State.harts, hr, hn]
  have all : ∀ q < 4, groupsFor [q] 1 = [some q] := by decide
  simp [State.decided, free, hw, partFor, all _ hq]

/-- The Headframe's decision marks no sequencer where none holds a group. -/
theorem State.decidePartition_unheld (s : State) (core : Nat) (hg : s.hart.group = none) (hr : s.rest = []) :
    s.decidePartition core = s.setCore core (s.decided core) := by
  simp only [State.decidePartition, hg, Option.isSome_none, Bool.and_false, Bool.false_eq_true, ite_false, hr,
    List.map_nil]
  rw [← hr]
  rfl

/-- R417: the request of the first sequencer of a core that wants lanes changes its core alone. -/
theorem State.requestLanes_first (s : State) (hg : s.hart.group = none) (hr : s.rest = []) (hq : s.hart.sq < 4)
    (hw : (s.coreOf s.hart.core).want = []) (hQ : (s.coreOf s.hart.core).waitQ = [])
    (hn : (s.coreOf s.hart.core).groupOf s.hart.sq = none) :
    ∃ cores, s.requestLanes = { s with cores }
      ∧ s.requestLanes.coreOf s.hart.core = (s.coreOf s.hart.core).wantedBy s.hart.sq := by
  let asked : Core := { s.coreOf s.hart.core with want := [s.hart.sq], waitQ := [s.hart.sq] }
  let s1 := s.setCore s.hart.core asked
  have core1 : s1.coreOf s.hart.core = asked :=
    State.coreOf_setCore _ _ _ fun e => by simpa [asked, Core.reset] using congrArg Core.want e
  have decided : s1.decided s.hart.core = (s.coreOf s.hart.core).wantedBy s.hart.sq := by
    have := s1.decided_first hr hq (congrArg Core.want core1) (core1 ▸ hn)
    rwa [show s1.hart = s.hart from rfl, core1] at this
  have request : s.requestLanes = s1.setCore s.hart.core ((s.coreOf s.hart.core).wantedBy s.hart.sq) := by
    rw [← decided, ← s1.decidePartition_unheld _ hg hr]
    simp [State.requestLanes, hw, hQ, s1, asked]
  exact ⟨_, request, by rw [request]; exact State.coreOf_setCore _ _ _ (Core.ne_reset_of_groupOf (Core.groupOf_wantedBy ..))⟩

/-! ## `setvl` up to its grant (03 R72) -/

/-- A holder with no repartition pending keeps its group. -/
theorem takeLanes_holder (avl : Nat) (s : State) (hg : s.hart.group.isSome = true) (hp : s.hart.pend = false) :
    takeLanes avl s = (.ok ⟨⟩, s.setVec (s.hart.vec.resize (s.vlmaxFor s.hart.vec.nreg))) := by
  simp [takeLanes, hg, hp, State.setVec]

/-- R426: a holder with a repartition pending applies it. -/
theorem takeLanes_pending (avl : Nat) (s : State) (hg : s.hart.group.isSome = true) (hp : s.hart.pend = true)
    (hw : s.hart.waiting = false) (hl : s.hart.live = true) (ho : s.hart.owner = some s.hart.tag) (hr : s.rest = []) :
    takeLanes avl s = (.ok ⟨⟩, s.applyPartition) := by
  simp [takeLanes, hg, hp, hw, applyLanes_run s hl ho hr]

/-- A sequencer that holds no group and asks for no elements takes none. -/
theorem takeLanes_none (s : State) (hg : s.hart.group = none) : takeLanes 0 s = (.ok ⟨⟩, s) := by
  simp [takeLanes, hg]

/-- R418: the first sequencer of a core that wants lanes is granted its group at once. -/
theorem takeLanes_first (avl : Nat) (s : State) (ha : 0 < avl) (hg : s.hart.group = none) (hl : s.hart.live = true)
    (ho : s.hart.owner = some s.hart.tag) (hr : s.rest = []) {cores : Table Core} (hs : s.requestLanes = { s with cores })
    (hc : s.requestLanes.coreOf s.hart.core = (s.coreOf s.hart.core).wantedBy s.hart.sq) :
    takeLanes avl s = (.ok ⟨⟩, s.requestLanes.applyPartition) := by
  have grant : s.requestLanes.grantable s.hart.core s.hart.sq = true := by
    simp only [State.grantable, State.firstInLine, hc]
    simp [hs, State.partitionSettled, State.harts, hg, hr, Core.wantedBy, Core.groupOf]
  have applied := applyLanes_run s.requestLanes (by rw [hs]; exact hl) (by rw [hs]; exact ho) (by rw [hs]; exact hr)
  simp [takeLanes, hg, ha, grant, applied]

/-! ## The grant of `setvl` (03 R72, 20 R420) -/

/-- The end of a `setvl` from the state in which the sequencer has its lanes. -/
def State.lengthGranted (u : State) (f : VvF) (avl : Nat) : State := (u.grantLength f.d f.ew f.ty avl).advance.endInstr

/-- GCAP as `setvl` sets it (20 R420). -/
def State.lengthCap (u : State) : Nat := if u.hart.group.isSome then min u.hart.vec.vlmax (u.coreOf u.hart.core).pcap else 0

theorem exec_setvl {f : VvF} {s u : State} (h : takeLanes (s.rg f.a).toNat s = (.ok ⟨⟩, u)) :
    exec (.setvl f) s = .next (u.lengthGranted f (s.rg f.a).toNat) :=
  State.run_ok (by simp [h])

theorem State.lengthGranted_sameButSeq (u : State) (f : VvF) (avl : Nat) : u.sameButSeq (u.lengthGranted f avl) :=
  State.sameButSeq_endInstr rfl

/-- Of the sequencer a grant changes GR(D), the vector side, GCAP and the place in the program. -/
theorem State.lengthGranted_hart (u : State) (f : VvF) (avl : Nat) :
    (u.lengthGranted f avl).hart = { u.hart with
      g := (u.lengthGranted f avl).hart.g, vec := (u.lengthGranted f avl).hart.vec, gcap := u.lengthCap
      pc := (u.lengthGranted f avl).hart.pc, loops := (u.lengthGranted f avl).hart.loops, waiting := false
      atPoint := (u.lengthGranted f avl).hart.atPoint, mayYield := false, skipBp := false, held := none } := by
  simp only [State.lengthGranted, State.grantLength, State.advance, State.endInstr, State.setG, Hart.advance, State.settle]
  rw [Hart.setG_same]
  rfl

theorem State.lengthGranted_vec (u : State) (f : VvF) (avl : Nat) :
    (u.lengthGranted f avl).hart.vec = { u.hart.vec with
      vl := if u.hart.group.isSome then min avl (u.lengthCap / widthOf f.ew) else 0, vstart := 0, ew := f.ew, ty := f.ty } :=
  Hart.setG_vec ..

/-- The g registers of the acting sequencer are read from its register file alone. -/
theorem State.rg_of_g {s u : State} (h : u.hart.g = s.hart.g) (r : BitVec 5) : u.rg r = s.rg r := by
  unfold State.rg Hart.rg
  rw [h]

theorem State.lengthGranted_rg (u : State) (f : VvF) (avl : Nat) (r : BitVec 5) :
    (u.lengthGranted f avl).rg r =
      if r = 0 then 0 else if r = f.d then BitVec.ofNat 64 (u.lengthGranted f avl).hart.vec.vl else u.rg r := by
  rw [State.lengthGranted_vec]
  exact State.rg_setG ..

theorem State.lengthGranted_fallsThrough (u s : State) (f : VvF) (avl : Nat) (hp : u.hart.pc = s.hart.pc)
    (hl : u.hart.loops = s.hart.loops) (hc : u.hart.cause = s.hart.cause) : FallsThrough s (u.lengthGranted f avl) :=
  State.fallsThrough_advance s (u.grantLength f.d f.ew f.ty avl) ((Hart.setG_pc ..).trans hp) ((Hart.setG_loops ..).trans hl)
    ((Hart.setG_cause ..).trans hc)

/-- VLMAX is vm, VL the lesser of GR(A) and what `cap` bits hold, GR(D) is VL, VTYPE and VSTART are set, and the contents are
those of R70. -/
def LengthSet (f : VvF) (s t : State) (vm cap : Nat) : Prop :=
  t.hart.vec = { s.hart.vec with
    v := t.hart.vec.v, m := t.hart.vec.m, pois := t.hart.vec.pois, vlmax := vm
    vl := min (s.rg f.a).toNat (cap / widthOf f.ew), vstart := 0, ew := f.ew, ty := f.ty }
  ∧ (∀ r, t.rg r = if r = 0 then 0 else if r = f.d then BitVec.ofNat 64 t.hart.vec.vl else s.rg r)
  ∧ (∀ r, r < 32 → t.hart.vec.bits r =
      if vm = s.hart.vec.vlmax then s.hart.vec.bits r else s.hart.vec.bits r % 2 ^ min s.hart.vec.vlmax vm)
  ∧ ∀ k, k < 8 → t.hart.vec.mr k =
      if vm = s.hart.vec.vlmax then s.hart.vec.mr k
      else if k = 0 then s.hart.vec.mr 0 else s.hart.vec.mr k % 2 ^ (min s.hart.vec.vlmax vm / 4)

theorem LengthSet.vlmax {f : VvF} {s t : State} {vm cap : Nat} (h : LengthSet f s t vm cap) : t.hart.vec.vlmax = vm := by
  obtain ⟨vec, -⟩ := h
  rw [vec]

/-- What a grant to a holder sets, where its contents have been cut to VLMAX. -/
theorem State.lengthGranted_set {f : VvF} {s u : State} {vm cap : Nat} (hg : u.hart.group.isSome = true)
    (hv : u.hart.vec = s.hart.vec.resize vm) (hr : u.hart.g = s.hart.g) (hc : u.lengthCap = cap) :
    LengthSet f s (u.lengthGranted f (s.rg f.a).toNat) vm cap := by
  have vec := u.lengthGranted_vec f (s.rg f.a).toNat
  rw [if_pos hg, hc, hv] at vec
  refine ⟨?_, fun r => ?_, fun r _ => ?_, fun k _ => ?_⟩
  · rw [vec, Vec.resize_frame]
  · rw [State.lengthGranted_rg, State.rg_of_g hr]
  · rw [vec]
    exact s.hart.vec.resize_bits vm r
  · rw [vec]
    exact s.hart.vec.resize_mr vm k

/-! ## `vcfg` (03 R73) -/

/-- The vector side that `vcfg` clears: n registers, all zero, under the VLMAX before. -/
def Vec.cleared (n vlmax : Nat) : Vec := { Vec.reset with nreg := nregOf n, vlmax }

/-- A register of a register file of zeros. -/
theorem getD_replicate_zero {w k : Nat} (r : Nat) : ((Vector.replicate k (0 : BitVec w)).toList.getD r 0).toNat = 0 := by
  rw [Vector.toList_replicate, List.getD_eq_getElem?_getD, List.getElem?_replicate]
  by_cases h : r < k
  · rw [if_pos h]
    rfl
  · rw [if_neg h]
    rfl

/-- The end of a `vcfg` from the state in which the vector side is cleared and the partition applied. -/
def State.configured (u : State) : State := u.refreshVlmax.advance.endInstr

theorem exec_vcfg_settled (f : VvF) (s : State) (hp : s.hart.pend = false) :
    exec (.vcfg f) s = .next (s.clearVec f.imm.toNat).configured :=
  State.run_ok (by simp [hp])

/-- R426: with a repartition pending, `vcfg` applies it. -/
theorem exec_vcfg_pending (f : VvF) (s : State) (hg : s.hart.group.isSome = true) (hp : s.hart.pend = true)
    (hl : s.hart.live = true) (ho : s.hart.owner = some s.hart.tag) (hr : s.rest = []) :
    exec (.vcfg f) s = .next (s.clearVec f.imm.toNat).applyPartition.configured :=
  have applied := applyLanes_run (s.clearVec f.imm.toNat) hl ho hr
  State.run_ok (by simp [hg, hp, applied])

theorem State.configured_sameButSeq (u : State) : u.sameButSeq u.configured := State.sameButSeq_endInstr rfl

/-- Of the sequencer the end of a `vcfg` changes the vector side, GCAP and the place in the program. -/
theorem State.configured_hart (u : State) :
    u.configured.hart = { u.hart with
      vec := u.configured.hart.vec
      gcap := if u.hart.group.isSome then min u.hart.gcap (u.vlmaxFor u.hart.vec.nreg) else 0
      pc := u.configured.hart.pc, loops := u.configured.hart.loops, waiting := false
      atPoint := u.configured.hart.atPoint, mayYield := false, skipBp := false, held := none } := rfl

theorem State.configured_g (u : State) : u.configured.hart.g = u.hart.g := by rw [State.configured_hart]
theorem State.configured_group (u : State) : u.configured.hart.group = u.hart.group := by rw [State.configured_hart]
theorem State.configured_gcap (u : State) :
    u.configured.hart.gcap = if u.hart.group.isSome then min u.hart.gcap (u.vlmaxFor u.hart.vec.nreg) else 0 := by
  rw [State.configured_hart]
theorem State.configured_vec (u : State) : u.configured.hart.vec = u.hart.vec.resize (u.vlmaxFor u.hart.vec.nreg) := rfl

theorem State.configured_fallsThrough (u s : State) (hp : u.hart.pc = s.hart.pc) (hl : u.hart.loops = s.hart.loops)
    (hc : u.hart.cause = s.hart.cause) : FallsThrough s u.configured :=
  State.fallsThrough_advance s u.refreshVlmax hp hl hc

theorem regCount_nregOf {n : Nat} (h : n ∈ [8, 16, 32]) : regCount (nregOf n) = n := by
  have all : ∀ n ∈ [8, 16, 32], regCount (nregOf n) = n := by decide
  exact all n h

/-- A vector side of n registers that is zero, with VL, VSTART and VTYPE. -/
def Vec.Zeroed (v : Vec) (n : Nat) : Prop :=
  (∀ r, v.bits r = 0 ∧ v.poison r = 0) ∧ (∀ k, 0 < k → v.mr k = 0)
  ∧ v.vl = 0 ∧ v.vstart = 0 ∧ v.ew = 0 ∧ v.ty = 0 ∧ regCount v.nreg = n

theorem Vec.cleared_zeroed {n : Nat} (hn : n ∈ [8, 16, 32]) (vlmax : Nat) : (Vec.cleared n vlmax).Zeroed n :=
  ⟨fun r => ⟨getD_replicate_zero r, getD_replicate_zero r⟩,
    fun k hk => (if_neg (Nat.ne_of_gt hk)).trans (getD_replicate_zero k), rfl, rfl, rfl, rfl, regCount_nregOf hn⟩

theorem Vec.Zeroed.regCount {v : Vec} {n : Nat} (h : v.Zeroed n) : regCount v.nreg = n := by
  obtain ⟨-, -, -, -, -, -, count⟩ := h
  exact count

/-- A vector side that is zero stays so at every VLMAX. -/
theorem Vec.Zeroed.resize {v : Vec} {n : Nat} (h : v.Zeroed n) (vlmax : Nat) : (v.resize vlmax).Zeroed n := by
  obtain ⟨contents, masks, rest⟩ := h
  refine ⟨fun r => ⟨?_, ?_⟩, fun k hk => ?_, ?_⟩
  · simp [Vec.resize_bits, contents]
  · simp [Vec.resize_poison, contents]
  · simp [Vec.resize_mr, masks k hk, Nat.ne_of_gt hk]
  · rw [Vec.resize_frame]
    exact rest

/-! ## The cases of the statement -/

/-- VLMAX of R68 for a sequencer that holds a group, of a partition and a register count. -/
def Hart.lengthFor (h : Hart) (part n : Nat) : Nat := min 65536 (min (1048576 / (part * n)) h.tvl)

/-- R72: `setvl` of a holder with no repartition pending keeps its group. -/
theorem setvl_holder (f : VvF) (s : State) (hg : s.hart.group.isSome = true) (hp : s.hart.pend = false) :
    let vm := s.hart.lengthFor s.hart.part (regCount s.hart.vec.nreg)
    let cap := min vm (s.coreOf s.hart.core).pcap
    ∃ t, exec (.setvl f) s = .next t ∧ s.sameButSeq t ∧ FallsThrough s t
      ∧ t.hart = { s.hart with
          g := t.hart.g, vec := t.hart.vec, gcap := cap, pc := t.hart.pc, loops := t.hart.loops
          waiting := t.hart.waiting, atPoint := t.hart.atPoint, mayYield := t.hart.mayYield, skipBp := t.hart.skipBp
          held := t.hart.held }
      ∧ LengthSet f s t vm cap := by
  intro vm cap
  have length : s.vlmaxFor s.hart.vec.nreg = vm := by simp [State.vlmaxFor, hg, vm, Hart.lengthFor]
  have take := takeLanes_holder (s.rg f.a).toNat s hg hp
  rw [length] at take
  let u := s.setVec (s.hart.vec.resize vm)
  have capU : u.lengthCap = cap := by
    show (if s.hart.group.isSome then min (s.hart.vec.resize vm).vlmax (s.coreOf s.hart.core).pcap else 0) = cap
    rw [if_pos hg, Vec.resize_vlmax]
  refine ⟨_, exec_setvl take, u.lengthGranted_sameButSeq f _, u.lengthGranted_fallsThrough s f _ rfl rfl rfl, ?_,
    State.lengthGranted_set hg rfl rfl capU⟩
  have hart := u.lengthGranted_hart f (s.rg f.a).toNat
  rw [capU] at hart
  exact hart

/-- R72: `setvl` with AVL = 0 of a sequencer that holds no group. -/
theorem setvl_none (f : VvF) (s : State) (hg : s.hart.group = none) (ha : (s.rg f.a).toNat = 0) :
    ∃ t, exec (.setvl f) s = .next t ∧ s.sameButSeq t ∧ FallsThrough s t
      ∧ t.hart.vec = { s.hart.vec with vl := 0, vstart := 0, ew := f.ew, ty := f.ty } ∧ t.hart.gcap = 0 ∧ t.hart.group = none
      ∧ ∀ r, t.rg r = if r = 0 ∨ r = f.d then 0 else s.rg r := by
  have take : takeLanes (s.rg f.a).toNat s = (.ok ⟨⟩, s) := ha ▸ takeLanes_none s hg
  have hart := s.lengthGranted_hart f (s.rg f.a).toNat
  have vec : (s.lengthGranted f (s.rg f.a).toNat).hart.vec = { s.hart.vec with vl := 0, vstart := 0, ew := f.ew, ty := f.ty } := by
    rw [State.lengthGranted_vec, hg]
    rfl
  refine ⟨_, exec_setvl take, s.lengthGranted_sameButSeq f _, s.lengthGranted_fallsThrough s f _ rfl rfl rfl, vec,
    (congrArg Hart.gcap hart).trans ?_, (congrArg Hart.group hart).trans hg, fun r => ?_⟩
  · simp [State.lengthCap, hg]
  · rw [State.lengthGranted_rg, vec]
    by_cases h0 : r = 0
    · rw [if_pos h0, if_pos (Or.inl h0)]
    · by_cases hd : r = f.d
      · rw [if_neg h0, if_pos hd, if_pos (Or.inr hd)]
        rfl
      · rw [if_neg h0, if_neg hd, if_neg (not_or.2 ⟨h0, hd⟩)]

/-- The LPART view of a sequencer with group k of a partition, PEND apart (03 Table 3.8). -/
def Core.lpartBits (c : Core) (k : Nat) : Nat :=
  let own (j : Nat) : Nat := if j < c.g then c.ownField j else 0
  let code := if c.g = 1 then 0 else if c.g = 2 then 1 else 2
  own 3 * 2 ^ 20 + own 2 * 2 ^ 16 + own 1 * 2 ^ 12 + own 0 * 2 ^ 8 + 2 ^ 7 + k * 2 ^ 5 + code

/-- The model's LPART view of a sequencer that holds a group. -/
theorem Core.lpart_group (c : Core) (h : Hart) (k : Nat) (hg : h.group = some k) :
    c.lpart h = BitVec.ofNat 64 (c.lpartBits k) := by
  unfold Core.lpart
  rw [hg]
  rfl

/-- Under a partition of one group only OWN0 is set. -/
theorem Core.lpartBits_wantedBy (c : Core) (sq : Nat) : (c.wantedBy sq).lpartBits 0 = (8 + sq) * 2 ^ 8 + 2 ^ 7 := by
  simp [Core.lpartBits, Core.wantedBy, Core.ownField]

/-- The sequencer has applied a partition, of which it has group k, with VLMAX and GCAP as given; of the other agents its core
alone differs. -/
def PartitionApplied (s t : State) (c : Core) (k vm gcap : Nat) : Prop :=
  { s with cores := t.cores }.sameButSeq t ∧ FallsThrough s t
  ∧ t.hart = { s.hart with
      g := t.hart.g, vec := t.hart.vec, gcap, group := some k, part := c.g, pend := false, lpart := t.hart.lpart
      pc := t.hart.pc, loops := t.hart.loops, waiting := false, atPoint := t.hart.atPoint, mayYield := false
      skipBp := t.hart.skipBp, held := t.hart.held }
  ∧ t.hart.lpart = BitVec.ofNat 64 (c.lpartBits k)
  ∧ t.hart.vec.vlmax = vm

/-- What differs in the acting sequencer and its core before the end of an instruction differs there after it. -/
theorem State.sameButSeq_cores {s t : State} {cores : Table Core} {hart : Hart} (h : { s with cores, hart }.sameButSeq t) :
    { s with cores := t.cores }.sameButSeq t := by
  have e : t.cores = cores := congrArg State.cores h
  unfold State.sameButSeq at h ⊢
  rw [e]
  exact h

theorem State.sameButSeq_mem {s t : State} (h : s.sameButSeq t) : t.mem = s.mem := by
  unfold State.sameButSeq at h
  rw [h]

/-- A `setvl` that applies the partition of a core. -/
theorem setvl_applies {f : VvF} {s : State} {cores : Table Core} {c : Core} {k : Nat}
    (take : takeLanes (s.rg f.a).toNat s = (.ok ⟨⟩, { s with cores }.applyPartition))
    (hc : { s with cores }.coreOf s.hart.core = c) (hk : c.groupOf s.hart.sq = some k) :
    let vm := s.hart.lengthFor c.g (regCount s.hart.vec.nreg)
    ∃ t, exec (.setvl f) s = .next t ∧ PartitionApplied s t c k vm (min vm c.pcap) ∧ LengthSet f s t vm (min vm c.pcap)
      ∧ t.coreOf s.hart.core = c.served s.hart.sq := by
  intro vm
  let u : State := { { s with cores }.setCore s.hart.core (c.served s.hart.sq) with hart := s.hart.inGroup c k }
  have applied : { s with cores }.applyPartition = u := by
    have := { s with cores }.applyPartition_eq k (hc ▸ hk)
    rwa [hc] at this
  rw [applied] at take
  have core : u.coreOf s.hart.core = c.served s.hart.sq :=
    State.coreOf_setCore { s with cores } _ _ (Core.ne_reset_of_groupOf (c := c.served s.hart.sq) hk)
  have cap : u.lengthCap = min vm c.pcap := by
    show min (s.hart.vec.resize vm).vlmax (u.coreOf s.hart.core).pcap = _
    rw [core, Vec.resize_vlmax]
    rfl
  have hart := u.lengthGranted_hart f (s.rg f.a).toNat
  rw [cap] at hart
  have lpart := congrArg Hart.lpart hart
  have length : LengthSet f s (u.lengthGranted f (s.rg f.a).toNat) vm (min vm c.pcap) := State.lengthGranted_set rfl rfl rfl cap
  refine ⟨_, exec_setvl take, ⟨State.sameButSeq_cores (u.lengthGranted_sameButSeq f _),
    u.lengthGranted_fallsThrough s f _ rfl rfl rfl, ?_, ?_, length.vlmax⟩, length, core⟩
  · rw [lpart]
    exact hart
  · exact lpart.trans (c.lpart_group _ k rfl)

/-- R426: `setvl` of a holder with a repartition pending applies it. -/
theorem setvl_pending (f : VvF) (s : State) (c : Core) (k : Nat) (hc : c = s.coreOf s.hart.core)
    (hg : s.hart.group.isSome = true) (hp : s.hart.pend = true) (hw : s.hart.waiting = false) (hl : s.hart.live = true)
    (ho : s.hart.owner = some s.hart.tag) (hr : s.rest = []) (hk : c.groupOf s.hart.sq = some k) :
    let vm := s.hart.lengthFor c.g (regCount s.hart.vec.nreg)
    ∃ t, exec (.setvl f) s = .next t ∧ PartitionApplied s t c k vm (min vm c.pcap) ∧ LengthSet f s t vm (min vm c.pcap) := by
  have take := takeLanes_pending (s.rg f.a).toNat s hg hp hw hl ho hr
  obtain ⟨t, run, applied, length, -⟩ := setvl_applies (cores := s.cores) take hc.symm hk
  exact ⟨t, run, applied, length⟩

/-- R417, R418: `setvl` of the first sequencer of a core that wants lanes is granted the whole core at once. -/
theorem setvl_first (f : VvF) (s : State) (hg : s.hart.group = none) (ha : 0 < (s.rg f.a).toNat)
    (hl : s.hart.live = true) (ho : s.hart.owner = some s.hart.tag) (hr : s.rest = []) (hq : s.hart.sq < 4)
    (hw : (s.coreOf s.hart.core).want = []) (hQ : (s.coreOf s.hart.core).waitQ = [])
    (hn : (s.coreOf s.hart.core).groupOf s.hart.sq = none) :
    let c := (s.coreOf s.hart.core).wantedBy s.hart.sq
    let vm := s.hart.lengthFor 1 (regCount s.hart.vec.nreg)
    ∃ t, exec (.setvl f) s = .next t ∧ PartitionApplied s t c 0 vm (min vm c.pcap) ∧ LengthSet f s t vm (min vm c.pcap)
      ∧ t.coreOf s.hart.core = c.served s.hart.sq := by
  obtain ⟨cores, request, core⟩ := s.requestLanes_first hg hr hq hw hQ hn
  have take := takeLanes_first (s.rg f.a).toNat s ha hg hl ho hr request core
  rw [request] at take core
  exact setvl_applies take core (Core.groupOf_wantedBy ..)

/-- The register counts fit the immediate of `vcfg`. -/
theorem toNat_regImm {f : VvF} {n : Nat} (hn : n ∈ [8, 16, 32]) (hi : f.imm = BitVec.ofNat 16 n) : f.imm.toNat = n := by
  have all : ∀ n ∈ [8, 16, 32], (BitVec.ofNat 16 n).toNat = n := by decide
  rw [hi, all n hn]

/-- The end of a `vcfg` with no repartition pending, whatever stands in the vector side. -/
theorem State.configured_settled (s : State) (v : Vec) :
    let vm := if s.hart.group.isSome then s.hart.lengthFor s.hart.part (regCount v.nreg) else 0
    let t := (s.setVec v).configured
    s.sameButSeq t ∧ FallsThrough s t ∧ t.hart.vec = v.resize vm
      ∧ t.hart.gcap = (if s.hart.group.isSome then min s.hart.gcap vm else 0)
      ∧ t.hart.group = s.hart.group ∧ ∀ r, t.rg r = s.rg r :=
  ⟨State.configured_sameButSeq _, State.configured_fallsThrough _ s rfl rfl rfl, State.configured_vec _,
    State.configured_gcap _, State.configured_group _, State.rg_of_g (State.configured_g _)⟩

/-- The end of a `vcfg` that applies the partition in force, whatever stands in the vector side. -/
theorem State.configured_applied (s : State) (v : Vec) {c : Core} {k : Nat} (hc : s.coreOf s.hart.core = c)
    (hk : c.groupOf s.hart.sq = some k) :
    let vm := s.hart.lengthFor c.g (regCount v.nreg)
    let t := (s.setVec v).applyPartition.configured
    PartitionApplied s t c k vm (min s.hart.gcap vm) ∧ t.hart.vec = v.resize vm ∧ ∀ r, t.rg r = s.rg r := by
  intro vm t
  let u : State := { s.setCore s.hart.core (c.served s.hart.sq) with hart := { s.hart with vec := v }.inGroup c k }
  have ends : t = u.configured := by
    have := (s.setVec v).applyPartition_eq k (hc ▸ hk)
    rw [show (s.setVec v).coreOf (s.setVec v).hart.core = c from hc] at this
    exact congrArg State.configured this
  have length : u.vlmaxFor u.hart.vec.nreg = vm := by
    show vlmaxOf true c.g (regCount (v.resize vm).nreg) s.hart.tvl = _
    rw [Vec.resize_nreg]
    rfl
  have vec : u.configured.hart.vec = v.resize vm := by
    rw [State.configured_vec, length]
    exact Vec.resize_resize_self v vm
  have hart := u.configured_hart
  rw [length] at hart
  rw [ends]
  refine ⟨⟨State.sameButSeq_cores (cores := u.cores) (hart := u.hart) u.configured_sameButSeq, u.configured_fallsThrough s rfl rfl rfl,
    hart, (congrArg Hart.lpart hart).trans (c.lpart_group _ k rfl), ?_⟩, vec, State.rg_of_g u.configured_g⟩
  rw [vec, Vec.resize_vlmax]

/-- R73: `vcfg` with no repartition pending. -/
theorem vcfg_settled (f : VvF) (s : State) (n : Nat) (hn : n ∈ [8, 16, 32]) (hi : f.imm = BitVec.ofNat 16 n)
    (hp : s.hart.pend = false) :
    ∃ t, exec (.vcfg f) s = .next t ∧ s.sameButSeq t ∧ FallsThrough s t ∧ t.hart.vec.Zeroed n
      ∧ t.hart.vec.vlmax = (if s.hart.group.isSome then s.hart.lengthFor s.hart.part n else 0)
      ∧ t.hart.gcap = (if s.hart.group.isSome then min s.hart.gcap (s.hart.lengthFor s.hart.part n) else 0)
      ∧ t.hart.group = s.hart.group ∧ ∀ r, t.rg r = s.rg r := by
  have run := exec_vcfg_settled f s hp
  have zeroed := Vec.cleared_zeroed hn s.hart.vec.vlmax
  obtain ⟨same, falls, vec, gcap, group, regs⟩ := s.configured_settled (Vec.cleared n s.hart.vec.vlmax)
  rw [toNat_regImm hn hi] at run
  rw [zeroed.regCount] at vec gcap
  refine ⟨_, run, same, falls, ?_, ?_, ?_, group, regs⟩
  · exact vec ▸ zeroed.resize _
  · exact vec ▸ Vec.resize_vlmax ..
  · refine gcap.trans ?_
    split <;> rfl

/-- R73, R426: `vcfg` of a holder with a repartition pending applies it. -/
theorem vcfg_pending (f : VvF) (s : State) (c : Core) (k n : Nat) (hc : c = s.coreOf s.hart.core)
    (hg : s.hart.group.isSome = true) (hp : s.hart.pend = true) (hl : s.hart.live = true)
    (ho : s.hart.owner = some s.hart.tag) (hr : s.rest = []) (hk : c.groupOf s.hart.sq = some k)
    (hn : n ∈ [8, 16, 32]) (hi : f.imm = BitVec.ofNat 16 n) :
    ∃ t, exec (.vcfg f) s = .next t
      ∧ PartitionApplied s t c k (s.hart.lengthFor c.g n) (min s.hart.gcap (s.hart.lengthFor c.g n))
      ∧ t.hart.vec.Zeroed n ∧ ∀ r, t.rg r = s.rg r := by
  have run := exec_vcfg_pending f s hg hp hl ho hr
  have zeroed := Vec.cleared_zeroed hn s.hart.vec.vlmax
  obtain ⟨applied, vec, regs⟩ := s.configured_applied (Vec.cleared n s.hart.vec.vlmax) hc.symm hk
  rw [toNat_regImm hn hi] at run
  rw [zeroed.regCount] at applied vec
  exact ⟨_, run, applied, vec ▸ zeroed.resize _, regs⟩

/-- Settles O28, clause by clause: of `setvl`, a holder, a sequencer that wants no lanes, and the first of its core that wants
some; `vcfg` with no repartition pending; and both with one pending. -/
theorem vectorLength : Obligations.VectorLength := by
  unfold Obligations.VectorLength
  intro f s
  refine ⟨?_, setvl_none f s, ?_, ?_, ?_⟩
  · rintro vm rfl hg hp
    exact setvl_holder f s hg hp
  · rintro vm rfl hg ha hl ho hr hq hw hQ hn
    obtain ⟨t, run, ⟨same, falls, hart, lpart, vlmax⟩, ⟨vec, regs, -⟩, core⟩ := setvl_first f s hg ha hl ho hr hq hw hQ hn
    have gcap := congrArg Hart.gcap hart
    have mem := State.sameButSeq_mem same
    refine ⟨t, run, falls, mem, congrArg Hart.group hart, congrArg Hart.part hart, congrArg Hart.pend hart,
      vlmax, gcap, (congrArg Vec.vl vec).trans ?_, congrArg Vec.vstart vec, congrArg Vec.ew vec, congrArg Vec.ty vec,
      congrArg Core.want core, congrArg Core.groups core, lpart.trans ?_, regs⟩
    · rw [gcap]
    · rw [Core.lpartBits_wantedBy]
  · intro n hn hi hp
    obtain ⟨t, run, same, falls, ⟨contents, masks, vl, vstart, ew, ty, count⟩, rest⟩ := vcfg_settled f s n hn hi hp
    exact ⟨t, run, same, falls, fun r _ => contents r, masks, vl, vstart, ew, ty, count, rest⟩
  · rintro c k rfl hg hp hw hl ho hr - hk own code applied
    constructor
    · rintro vm rfl
      exact setvl_pending f s _ k rfl hg hp hw hl ho hr hk
    · intro n hn hi
      obtain ⟨t, run, app, ⟨contents, masks, vl, vstart, ew, ty, count⟩, regs⟩ :=
        vcfg_pending f s _ k n rfl hg hp hl ho hr hk hn hi
      exact ⟨t, run, app, fun r _ => contents r, masks, vl, vstart, ew, ty, count, regs⟩

end Sys2Proof.Machine
end

section
/-! O57, O58: words that the spec writes out, and the step that fetches and runs one (04 R97, R98, 06 R144, 22 R442). -/
namespace Sys2Proof.Machine

/-! ## The checks of an access (13 R274, 15 R317, 16 R341) -/

/-- A walk reads nothing of the place among an agent's remote answers. -/
theorem State.walkFrom_rix (s : State) (n tenant va : Nat) : ∀ lvl table,
    State.walkFrom { s with rix := n } tenant va lvl table = s.walkFrom tenant va lvl table := by
  intro lvl
  induction lvl with
  | zero => exact fun _ => rfl
  | succ lvl ih =>
    intro table
    simp only [State.walkFrom, ih]
    rfl

/-- Whether a walk meets poison does not depend on it. -/
theorem State.walkMeets_rix (s : State) (n va : Nat) : ∀ lvl table,
    State.walkMeets { s with rix := n } va lvl table = s.walkMeets va lvl table := by
  intro lvl
  induction lvl with
  | zero => exact fun _ => rfl
  | succ lvl ih =>
    intro table
    simp only [State.walkMeets, ih]
    rfl

/-- The check of a piece reads nothing of it. -/
theorem State.checkPart_rix (s : State) (n : Nat) (ws : Walks) (ctx : Nat) (lv : Level) (r : Right) (va : Int) (len : Nat) :
    State.checkPart { s with rix := n } ws ctx lv r va len = s.checkPart ws ctx lv r va len := by
  have leaf : State.leafFor { s with rix := n } ws ctx va.toNat = s.leafFor ws ctx va.toNat := by
    simp only [State.leafFor, State.walk, State.walkFrom_rix]
    rfl
  have cause : State.walkCause { s with rix := n } ctx va.toNat = s.walkCause ctx va.toNat := by
    simp only [State.walkCause, State.walkPoisoned, State.walkMeets_rix]
    rfl
  simp only [State.checkPart, leaf, cause]

/-- The checks of an access read nothing of it. -/
theorem State.checkAccess_rix (s : State) (n ctx : Nat) (lv : Level) (r : Right) (align staged : Bool) (va : Int) (len : Nat) :
    State.checkAccess { s with rix := n } ctx lv r align staged va len = s.checkAccess ctx lv r align staged va len := by
  have parts : ∀ l, State.checkParts { s with rix := n } [] ctx lv r staged l = s.checkParts [] ctx lv r staged l := by
    intro l
    induction l with
    | nil => rfl
    | cons x t ih =>
      simp only [State.checkParts, State.checkPart_rix, ih]
      rfl
  simp only [State.checkAccess, State.checkAccessIn, parts]

/-- The causes that a check of an access can give (22 Table 22.1): ALIGN, XLATE, PROT, STAGE_ILLEGAL, and POISON of a walk. -/
def checkCauses : List Nat := [causeAlign, causeXlate, causeProt, causeStageIllegal, causePoison]

theorem lt_of_mem_checkCauses : ∀ c ∈ checkCauses, c < 256 := by decide
theorem causeAlign_mem : causeAlign ∈ checkCauses := by decide
theorem causeXlate_mem : causeXlate ∈ checkCauses := by decide
theorem causeProt_mem : causeProt ∈ checkCauses := by decide

theorem State.walkCause_mem (s : State) (ctx va : Nat) : s.walkCause ctx va ∈ checkCauses := by
  unfold State.walkCause
  split <;> decide

theorem State.checkPart_cause {s : State} {ws : Walks} {ctx : Nat} {lv : Level} {r : Right} {va : Int} {n : Nat} {e : Nat × Word}
    (h : s.checkPart ws ctx lv r va n = .error e) : e.1 ∈ checkCauses := by
  unfold State.checkPart at h
  split at h
  · cases h
    exact causeXlate_mem
  · split at h
    · cases h
      exact s.walkCause_mem ctx va.toNat
    · split at h
      · cases h
        exact causeProt_mem
      · cases h

theorem State.stagedFault_cause {s : State} {ctx : Nat} {p : Part} {e : Nat × Nat} (h : s.stagedFault ctx p = some e) :
    e.1 ∈ checkCauses := by
  unfold State.stagedFault at h
  split at h
  · cases h
  · obtain ⟨l, -, hl⟩ := List.exists_of_findSome?_eq_some h
    obtain ⟨c, -, rfl⟩ := Option.map_eq_some_iff.1 hl
    show (if c = ctx then causeStageIllegal else causeProt) ∈ checkCauses
    split <;> decide

theorem State.checkParts_cause {s : State} {ws : Walks} {ctx : Nat} {lv : Level} {r : Right} {staged : Bool} {e : Nat × Word}
    (l : List (Int × Nat)) (h : s.checkParts ws ctx lv r staged l = .error e) : e.1 ∈ checkCauses := by
  induction l with
  | nil => cases h
  | cons x t ih =>
    unfold State.checkParts at h
    split at h
    · next hp =>
      cases h
      exact State.checkPart_cause hp
    · split at h
      · next hf =>
        cases h
        cases staged with
        | false => cases hf
        | true => exact State.stagedFault_cause hf
      · split at h
        · next ht =>
          cases h
          exact ih ht
        · cases h

theorem State.checkAccess_cause {s : State} {ctx : Nat} {lv : Level} {r : Right} {align staged : Bool} {va : Int} {n : Nat}
    {e : Nat × Word} (h : s.checkAccess ctx lv r align staged va n = .error e) : e.1 ∈ checkCauses := by
  unfold State.checkAccess State.checkAccessIn at h
  split at h
  · cases h
    exact causeAlign_mem
  · exact State.checkParts_cause _ h

/-! ## The fetch (06 R144) -/

/-- Marks leave the place among an agent's remote answers, and do not depend on it. -/
theorem State.markParts_rix (n : Nat) (b : Bool) (ps : List Part) : ∀ s : State,
    State.markParts { s with rix := n } b ps = { s.markParts b ps with rix := n } := by
  induction ps with
  | nil => exact fun _ => rfl
  | cons p t ih =>
    intro s
    have mark : State.markEntry { s with rix := n } p.entry b = { s.markEntry p.entry b with rix := n } := by
      simp only [State.markEntry, apply_ite (fun u : State => { u with rix := n })]
      rfl
    simp only [State.markParts, mark, ih]

/-- Local pieces ask nothing of another device. -/
theorem remoteParts_local (w : Who) (op : MemOp) (s : State) (ps : List Part) : ∀ o, (∀ p ∈ ps, p.isRemote = false) →
    remoteParts w op o ps s = (.ok (ps.map fun _ => ([], false)), s) := by
  induction ps with
  | nil => exact fun _ _ => rfl
  | cons p t ih =>
    intro o h
    have rest := ih (o + p.len) fun q hq => h q (List.mem_cons_of_mem _ hq)
    simp [remoteParts, h p (List.mem_cons_self ..), rest]

@[simp] theorem State.me_ctx (s : State) : s.me.ctx = s.hart.ctx := rfl
@[simp] theorem State.me_level (s : State) : s.me.level = s.hart.level := rfl
@[simp] theorem State.me_orig (s : State) : s.me.orig = 0 := rfl

/-- What a fetch leaves before it reads: its pages marked as accessed (13 R275), its host memory asked for (26 R503). -/
def State.fetchAsked (s : State) (ps : List Part) : State := (s.markParts false ps).askParts s.hart.ctx false ps

theorem State.fetchAsked_same (s : State) (ps : List Part) :
    s.fetchAsked ps = { s with mem := (s.markParts false ps).mem, out := (s.fetchAsked ps).out } :=
  congrArg (fun u : State => { u with out := (s.fetchAsked ps).out }) (s.markParts_same false ps)

theorem State.fetchAsked_quiet {s : State} (h : s.quiet) (ps : List Part) : (s.fetchAsked ps).quiet := by
  rw [State.fetchAsked_same]
  exact h

@[simp] theorem State.fetchAsked_ctxOf (s : State) (ps : List Part) (n : Nat) : (s.fetchAsked ps).ctxOf n = s.ctxOf n := by
  rw [State.fetchAsked_same]
  rfl

@[simp] theorem State.fetchAsked_poisoned (s : State) (ps : List Part) (a n : Nat) :
    (s.fetchAsked ps).poisoned a n = s.poisoned a n := by
  rw [State.fetchAsked_same]
  rfl

/-- The fetch of a local, unpoisoned word gives the bytes at the PC. -/
theorem fetchWord_local {s : State} {ps : List Part} (hq : s.quiet)
    (access : s.checkAccess s.hart.ctx s.hart.level .fetch false true s.hart.pc.toNat 8 = .ok ps)
    (here : ∀ p ∈ ps, p.isRemote = false ∧ s.poisoned p.pa p.len = false) :
    fetchWord s = (.ok (BitVec.ofNat 64 (ofBytes ((s.markParts false ps).bytesAt ps))),
      (s.fetchAsked ps).settle s.fetcher.agent) := by
  have reach : State.reachParts ((s.markParts false ps).askParts s.hart.ctx false ps) s.hart.ctx 0 false ps = s.fetchAsked ps :=
    State.reachParts_quiet (State.fetchAsked_quiet hq ps) ..
  have clean : (ps.any fun p => !p.isRemote && s.poisoned p.pa p.len) = false := by
    rw [List.any_eq_false]
    intro p hp
    simp [(here p hp).2]
  have answers := fun op => remoteParts_local s.fetcher op (s.fetchAsked ps) ps 0 fun p hp => (here p hp).1
  have bytes : ∀ rs, ((s.fetchAsked ps).settle s.fetcher.agent).gather ps rs = (s.markParts false ps).bytesAt ps := fun rs =>
    State.gather_local _ ps rs fun p hp => (here p hp).1
  unfold fetchWord
  simp only [M.bind_run, M.get_run, M.set_run, M.change_run, M.pure_run, State.me_ctx, State.me_level, State.me_orig, access, reach,
    State.fetchAsked_ctxOf, State.fetchAsked_poisoned, clean, answers, bytes, Bool.and_not_self, Bool.false_eq_true, if_false]

section
variable {s : State} {c : Nat} {v : Word}
  (refused : s.checkAccess s.hart.ctx s.hart.level .fetch false true s.hart.pc.toNat 8 = .error (c, v))
include refused

/-- A fetch that a check refuses stops at once. -/
theorem fetchWord_refused : fetchWord s = (.error (.check c v), s) := by
  unfold fetchWord failCheck
  simp only [M.bind_run, M.get_run, State.me_ctx, State.me_level, refused, M.throw_run]

/-- One that is refused with a precise cause ends as an instruction that raises it. -/
theorem exec_fetchFault_refused (hc : c ≠ causePoison) : exec .fetchFault s = s.run 0 (raise c v) := by
  have fetch := fetchWord_refused refused
  rw [Stop.check, if_neg hc] at fetch
  have asks : dasAsks 0 c false = false := rfl
  rw [State.run_trap (M.raise_run c v s) asks]
  show execFetchFault s = _
  unfold execFetchFault
  rw [fetch]
  rfl

/-- R144: a fetch that a check refuses with a precise cause traps at the PC. -/
theorem fetchFault_traps (hc : c ≠ causePoison) (can : s.canTrap) : TrapsHere .fetchFault s c v :=
  traps_of_raise _ s 0 v _ c (lt_of_mem_checkCauses c (State.checkAccess_cause refused)) can rfl
    (exec_fetchFault_refused refused hc) (M.raise_run c v s)

end

/-! ## The word (04 R97, R98, 22 R442) -/

/-- The operation that a word is resolved to spells the instruction that its decoding stands for (21 R414). -/
theorem State.toInstr_resolve (s : State) (o : Op) (w : Word) : (s.resolve o w).toInstr w = s.instrOf (o.toInstr w) := by
  cases o with
  | chputOpen | chgetOpen => exact apply_ite (fun o : Op => o.toInstr w) _ _ _
  | _ => rfl

theorem decode_ok {w : Word} {i : Instr} (h : decode w = .ok i) : ∃ o, decodeOp w = .ok o ∧ o.toInstr w = i := by
  unfold decode at h
  split at h
  · next o ho => exact ⟨o, ho, Except.ok.inj h⟩
  · cases h

theorem decode_error {w : Word} {e : DecodeErr} (h : decode w = .error e) : decodeOp w = .error e := by
  unfold decode at h
  split at h
  · cases h
  · next he => rw [he, Except.error.inj h]

/-- A word that decodes: VFIRST goes before the first that touches vector state under another owner. -/
theorem State.runWord_ok {s : State} {w : Word} {i : Instr} (h : decode w = .ok i) :
    s.runWord w = if touchesVec w && s.hart.needsVfirst then exec .vfirst { s with rix := 0 } else exec (s.instrOf i) s := by
  obtain ⟨o, ho, rfl⟩ := decode_ok h
  unfold State.runWord
  rw [ho, ← s.toInstr_resolve o w]
  rfl

theorem State.runWord_error {s : State} {w : Word} {e : DecodeErr} (h : decode w = .error e) :
    s.runWord w = exec (.nonInstructionWord w) { s with rix := 0 } := by
  unfold State.runWord
  rw [decode_error h]
  rfl

/-- The cause of 22 Table 22.1 for each reason why a word is no instruction. -/
def causeOfErr : DecodeErr → Nat
  | .illegal => causeIllegal
  | .rsvdField => causeRsvd
  | .unimplCombo => causeUnimpl

theorem exec_nonInstructionWord {s : State} {w : Word} {e : DecodeErr} (h : decode w = .error e) :
    exec (.nonInstructionWord w) s = .next (s.trapWord w (causeOfErr e)) := by
  show execNonInstructionWord w s = _
  unfold execNonInstructionWord
  rw [decode_error h]
  cases e <;> rfl

/-- R98: a word that is no instruction traps with its cause, and TVAL is the word. -/
theorem nonInstructionWord_traps {s : State} {w : Word} {e : DecodeErr} (h : decode w = .error e) (can : s.canTrap) :
    TrapsHere (.nonInstructionWord w) s (causeOfErr e) w :=
  have code : causeOfErr e < 256 := by cases e <;> decide
  traps_of_trapWord _ s w _ code can (exec_nonInstructionWord h)

/-! ## The step -/

/-- The step of a sequencer at a fetch is its turn, which fetches. -/
theorem State.AtFetch.step_turn {s : State} (h : s.AtFetch) : step s = s.turn := by
  obtain ⟨ready, inputs, stopped, -⟩ := h
  unfold step
  rw [ready, inputs, stopped]
  rfl

/-- A step whose fetch succeeds runs the word. -/
theorem State.AtFetch.step_ok {s t : State} {w : Word} (h : s.AtFetch) (fetch : fetchWord { s with rix := 0 } = (.ok w, t)) :
    step s = t.runWord w := by
  rw [h.step_turn]
  obtain ⟨-, -, -, live, lands, withdraw, parked, held, bp⟩ := h
  unfold State.turn
  simp [live, lands, withdraw, parked, held, bp, fetch]

/-- A step whose fetch stops short is its fault. -/
theorem State.AtFetch.step_error {s t : State} {st : Stop} (h : s.AtFetch)
    (fetch : fetchWord { s with rix := 0 } = (.error st, t)) : step s = exec .fetchFault { s with rix := 0 } := by
  rw [h.step_turn]
  obtain ⟨-, -, -, live, lands, withdraw, parked, held, bp⟩ := h
  show s.turn = execFetchFault { s with rix := 0 }
  unfold State.turn
  simp [live, lands, withdraw, parked, held, bp, fetch]

/-- Settles O58: the fetch of a local word, the word that decodes, the word that does not, and the fetch that stops short or is
refused by a check. -/
theorem stepRunsDecoded : Obligations.StepRunsDecoded := by
  unfold Obligations.StepRunsDecoded
  intro s h z access
  refine ⟨fun ps calm ok here => ?_, fun w t fetch => ⟨fun i di => ?_, fun e de => ⟨?_, ?_⟩⟩, fun st t fetch => ?_,
    fun c v refused hc can => ?_⟩
  · have bytes : (z.markParts false ps).bytesAt ps = (s.markParts false ps).bytesAt ps := by
      rw [State.markParts_rix]
      rfl
    exact bytes ▸ fetchWord_local (s := z) calm.2 ((s.checkAccess_rix ..).trans ok) here
  · rw [h.step_ok fetch, State.runWord_ok di]
  · rw [h.step_ok fetch, State.runWord_error de]
  · exact nonInstructionWord_traps de
  · exact h.step_error fetch
  · exact fetchFault_traps (s := z) ((s.checkAccess_rix ..).trans refused) hc can

/-- Settles O57: each word of the table is decoded, the ten that are instructions and the four that are refused with a cause of 04
Table 4.7. -/
theorem decodedWords : Obligations.DecodedWords := by
  unfold Obligations.DecodedWords
  exact ⟨rfl, rfl, rfl, rfl, rfl, rfl, rfl, rfl, rfl, rfl, rfl, rfl, rfl, rfl⟩

end Sys2Proof.Machine
end

section
/-! O1 to O6: scalar arithmetic, division, bit fields, counts, conditions and constants (06 R132 to R140, R145, R147). -/
namespace Sys2Proof.Machine

/-- What an instruction that writes one register does, by an equal value. -/
theorem writes_of_eq {i : Instr} {s : State} {d : BitVec 5} {v w : Word} (h : exec i s = s.writeG d v) (e : v = w) :
    Writes i s d w := e ▸ writes_of_writeG i s d v h

/-! ## Words as numbers (06 Table 6.1) -/

theorem word_sub (a b : Word) : a - b = BitVec.ofInt 64 (a.toInt - b.toInt) := by
  apply BitVec.eq_of_toInt_eq
  rw [BitVec.toInt_sub, BitVec.toInt_ofInt]

theorem word_mul (a b : Word) : a * b = BitVec.ofInt 64 (a.toInt * b.toInt) := by
  rw [BitVec.ofInt_mul, BitVec.ofInt_toInt, BitVec.ofInt_toInt]

/-- The high half of a double word that holds an integer. -/
theorem highHalf_ofInt (x : Int) : (BitVec.ofInt 128 x).extractLsb' 64 64 = BitVec.ofInt 64 (x / 2 ^ 64) := by
  apply BitVec.eq_of_toNat_eq
  simp only [BitVec.extractLsb'_toNat, BitVec.toNat_ofInt, Nat.shiftRight_eq_div_pow]
  omega

theorem highHalf_ofNat (x : Nat) : (BitVec.ofNat 128 x).extractLsb' 64 64 = BitVec.ofNat 64 (x / 2 ^ 64) := by
  apply BitVec.eq_of_toNat_eq
  simp only [BitVec.extractLsb'_toNat, BitVec.toNat_ofNat, Nat.shiftRight_eq_div_pow]
  omega

theorem signedProduct_high (a b : Word) :
    BitVec.ofInt 64 (a.toInt * b.toInt / 2 ^ 64) = (a.signExtend 128 * b.signExtend 128).extractLsb' 64 64 := by
  rw [← highHalf_ofInt, BitVec.ofInt_mul]
  rfl

theorem naturalProduct_high (a b : Word) :
    BitVec.ofNat 64 (a.toNat * b.toNat / 2 ^ 64) = (a.setWidth 128 * b.setWidth 128).extractLsb' 64 64 := by
  rw [← highHalf_ofNat, BitVec.ofNat_mul, BitVec.ofNat_toNat, BitVec.ofNat_toNat]

theorem shiftLeft_word (a : Word) (n : Nat) : a <<< n = BitVec.ofNat 64 (a.toNat * 2 ^ n) := by
  apply BitVec.eq_of_toNat_eq
  rw [BitVec.toNat_shiftLeft, BitVec.toNat_ofNat, Nat.shiftLeft_eq]

theorem shiftRight_word (a : Word) (n : Nat) : a >>> n = BitVec.ofNat 64 (a.toNat / 2 ^ n) := by
  apply BitVec.eq_of_toNat_eq
  rw [BitVec.toNat_ushiftRight, BitVec.toNat_ofNat, Nat.shiftRight_eq_div_pow,
    Nat.mod_eq_of_lt (Nat.lt_of_le_of_lt (Nat.div_le_self ..) a.isLt)]

theorem sshiftRight_word (a : Word) (n : Nat) : a.sshiftRight n = BitVec.ofInt 64 (a.toInt / 2 ^ n) := by
  unfold BitVec.sshiftRight
  rw [Int.shiftRight_eq_div_pow, Int.natCast_pow]
  rfl

/-- The two parts of a rotation have no bit in common, so that their union is their sum. -/
theorem rotateLeft_word (a : Word) {n : Nat} (h : n < 64) :
    a.rotateLeft n = BitVec.ofNat 64 (a.toNat * 2 ^ n + a.toNat / 2 ^ (64 - n)) := by
  have apart : a <<< n &&& a >>> (64 - n) = 0#64 := by
    apply BitVec.eq_of_getLsbD_eq
    intro i _
    rw [BitVec.getLsbD_and, BitVec.getLsbD_shiftLeft, BitVec.getLsbD_ushiftRight, BitVec.getLsbD_zero]
    by_cases hi : i < n
    · simp [hi]
    · simp [BitVec.getLsbD_of_ge a (64 - n + i) (by omega)]
  rw [BitVec.rotateLeft_eq_rotateLeftAux_of_lt h, BitVec.rotateLeftAux, ← BitVec.add_eq_or_of_and_eq_zero _ _ apart,
    BitVec.ofNat_add, ← shiftLeft_word, ← shiftRight_word]

theorem shiftCount_lt (b : Word) : shiftCount b < 64 := Nat.mod_lt _ (by decide)

/-- Settles O1: each function writes one register, and its word is the number of the table. -/
theorem registerArithmetic : Obligations.RegisterArithmetic := by
  unfold Obligations.RegisterArithmetic
  intro f s
  exact ⟨writes_of_eq rfl (BitVec.add_def ..), writes_of_eq rfl (word_sub ..), writes_of_eq rfl (word_mul ..),
    writes_of_eq rfl (signedProduct_high ..), writes_of_eq rfl (naturalProduct_high ..), writes_of_eq rfl rfl,
    writes_of_eq rfl rfl, writes_of_eq rfl rfl, writes_of_eq rfl rfl, writes_of_eq rfl (shiftLeft_word ..),
    writes_of_eq rfl (shiftRight_word ..), writes_of_eq rfl (sshiftRight_word ..),
    writes_of_eq rfl (rotateLeft_word _ (shiftCount_lt _)), writes_of_eq rfl rfl, writes_of_eq rfl rfl, writes_of_eq rfl rfl,
    writes_of_eq rfl rfl⟩

/-! ## Division (06 R133) -/

theorem divWord_cases (a b : Word) : divWord a b =
    if b = 0 then BitVec.allOnes 64 else if a = BitVec.intMin 64 ∧ b = -1 then BitVec.intMin 64
    else BitVec.ofInt 64 (a.toInt.tdiv b.toInt) := by
  unfold divWord
  split
  · rfl
  · split
    · next h =>
      obtain ⟨rfl, rfl⟩ := h
      decide
    · rfl

theorem remWord_cases (a b : Word) : remWord a b =
    if b = 0 then a else if a = BitVec.intMin 64 ∧ b = -1 then 0 else BitVec.ofInt 64 (a.toInt.tmod b.toInt) := by
  unfold remWord
  split
  · rfl
  · split
    · next h =>
      obtain ⟨rfl, rfl⟩ := h
      decide
    · rfl

theorem divWord_mul_add_remWord (a b : Word) : divWord a b * b + remWord a b = a := by
  unfold divWord remWord
  split
  · next h =>
    subst h
    exact (congrArg (· + a) BitVec.mul_zero).trans (BitVec.zero_add a)
  · calc
      BitVec.ofInt 64 (a.toInt.tdiv b.toInt) * b + BitVec.ofInt 64 (a.toInt.tmod b.toInt)
        = BitVec.ofInt 64 (a.toInt.tdiv b.toInt * b.toInt + a.toInt.tmod b.toInt) := by
          rw [BitVec.ofInt_add, BitVec.ofInt_mul, BitVec.ofInt_toInt]
      _ = a := by rw [Int.tdiv_mul_add_tmod, BitVec.ofInt_toInt]

theorem divnWord_mul_add_remnWord (a b : Word) : divnWord a b * b + remnWord a b = a := by
  unfold divnWord remnWord
  split
  · next h =>
    subst h
    exact (congrArg (· + a) BitVec.mul_zero).trans (BitVec.zero_add a)
  · calc
      BitVec.ofNat 64 (a.toNat / b.toNat) * b + BitVec.ofNat 64 (a.toNat % b.toNat)
        = BitVec.ofNat 64 (a.toNat / b.toNat * b.toNat + a.toNat % b.toNat) := by
          rw [BitVec.ofNat_add, BitVec.ofNat_mul, BitVec.ofNat_toNat, BitVec.setWidth_eq]
      _ = a := by rw [Nat.div_add_mod', BitVec.ofNat_toNat, BitVec.setWidth_eq]

/-- Settles O2: quotient and remainder with their fixed results, and their identity over the integers and the naturals. -/
theorem division : Obligations.Division := by
  unfold Obligations.Division
  exact ⟨fun f s => ⟨writes_of_eq rfl (divWord_cases ..), writes_of_eq rfl rfl, writes_of_eq rfl (remWord_cases ..),
    writes_of_eq rfl rfl⟩, fun a b => ⟨divWord_mul_add_remWord a b, divnWord_mul_add_remnWord a b⟩⟩

/-! ## The funnel shifts (06 R134) -/

theorem funnelLeft_word (a b : Word) {n : Nat} (h : n < 64) :
    a <<< n ||| b >>> (64 - n) = ((a ++ b) <<< n).extractLsb' 64 64 := by
  apply BitVec.eq_of_getLsbD_eq
  intro i hi
  simp only [BitVec.getLsbD_or, BitVec.getLsbD_shiftLeft, BitVec.getLsbD_ushiftRight, BitVec.getLsbD_extractLsb',
    BitVec.getLsbD_append]
  by_cases hn : i < n
  · rw [if_pos (by omega : 64 + i - n < 64), show 64 + i - n = 64 - n + i by omega]
    simp [hi, hn]
    omega
  · rw [if_neg (by omega : ¬ 64 + i - n < 64), show 64 + i - n - 64 = i - n by omega,
      BitVec.getLsbD_of_ge b (64 - n + i) (by omega)]
    simp [hi, hn]
    omega

theorem funnelRight_word (a b : Word) {n : Nat} (h : n < 64) :
    b >>> n ||| a <<< (64 - n) = ((a ++ b) >>> n).extractLsb' 0 64 := by
  apply BitVec.eq_of_getLsbD_eq
  intro i hi
  simp only [BitVec.getLsbD_or, BitVec.getLsbD_shiftLeft, BitVec.getLsbD_ushiftRight, BitVec.getLsbD_extractLsb',
    BitVec.getLsbD_append]
  by_cases hn : n + i < 64
  · simp [hi, hn]
    omega
  · rw [BitVec.getLsbD_of_ge b (n + i) (by omega), if_neg (by omega), show n + (0 + i) - 64 = i - (64 - n) by omega]
    simp [hi]
    omega

/-- Settles O3: the funnel shifts bit by bit. -/
theorem threeSourceForms : Obligations.ThreeSourceForms := by
  unfold Obligations.ThreeSourceForms
  intro f s
  exact ⟨writes_of_eq rfl (ite_not ..), writes_of_eq rfl (funnelLeft_word _ _ (shiftCount_lt _)),
    writes_of_eq rfl (funnelRight_word _ _ (shiftCount_lt _))⟩

/-- Settles O4: a legal count stands in the immediate as it is, and the shifts are those of O1. -/
theorem immediateArithmetic : Obligations.ImmediateArithmetic := by
  unfold Obligations.ImmediateArithmetic
  intro f s
  refine ⟨writes_of_eq rfl rfl, writes_of_eq rfl rfl, writes_of_eq rfl rfl, writes_of_eq rfl rfl, writes_of_eq rfl rfl,
    fun n hn hi => ?_⟩
  have count : f.imm.toNat = n := by
    rw [hi, BitVec.toNat_ofNat, Nat.mod_eq_of_lt (by omega)]
  subst count
  exact ⟨writes_of_eq rfl (shiftLeft_word ..), writes_of_eq rfl (shiftRight_word ..), writes_of_eq rfl (sshiftRight_word ..),
    writes_of_eq rfl (rotateLeft_word _ hn)⟩

/-! ## Bit fields and counts (06 R136, R137) -/

theorem getLsbD_bextWord (a : Word) (pos len i : Nat) (hi : i < 64) :
    (BitVec.ofNat 64 (field a.toNat pos len)).getLsbD i = (decide (i < len) && a.getLsbD (pos + i)) := by
  rw [BitVec.getLsbD_ofNat, testBit_field, BitVec.testBit_toNat, decide_eq_true hi, Bool.true_and]

/-- Bit i of the mask of a field. -/
theorem getLsbD_fieldMask (pos len i : Nat) (hi : i < 64) :
    (BitVec.ofNat 64 ((2 ^ len - 1) * 2 ^ pos)).getLsbD i = decide (pos ≤ i ∧ i < pos + len) := by
  rw [BitVec.getLsbD_ofNat, Nat.testBit_mul_two_pow, Nat.testBit_two_pow_sub_one, decide_eq_true hi, Bool.true_and,
    Bool.decide_and]
  by_cases h : pos ≤ i
  · simp [h]; omega
  · simp [h]

theorem getLsbD_binsWord (old a : Word) (pos len i : Nat) (hi : i < 64) :
    (binsWord old a pos len).getLsbD i =
      if pos ≤ i ∧ i < pos + len then a.getLsbD (i - pos) else old.getLsbD i := by
  simp only [binsWord, BitVec.getLsbD_or, BitVec.getLsbD_and, BitVec.getLsbD_not, getLsbD_fieldMask _ _ _ hi,
    BitVec.getLsbD_shiftLeft, BitVec.getLsbD_ofNat, Nat.testBit_mod_two_pow, BitVec.testBit_toNat]
  by_cases h : pos ≤ i ∧ i < pos + len
  · have inside : i - pos < len ∧ i - pos < 64 := by omega
    simp [h, hi, inside]
  · simp [h, hi]

/-- The fields of the immediate of `bext` and `bins`. -/
theorem RiF.pos_len {f : RiF} {pos len : Nat} (hl : 1 ≤ len) (hp : pos + len ≤ 64)
    (hi : f.imm = BitVec.ofNat 35 (64 * len + pos)) : RiF.pos f = pos ∧ RiF.len f = len := by
  unfold RiF.pos RiF.len
  rw [hi, BitVec.toNat_ofNat]
  omega

theorem leadZeros_le (x n : Nat) : leadZeros x n ≤ n := by
  induction n with
  | zero => exact Nat.le_refl 0
  | succ n ih =>
    unfold leadZeros
    split <;> omega

/-- A number of n bits lies below the power of two that its leading zeros leave, and, where it is not zero, at or above the next
lower one. -/
theorem leadZeros_bounds (x n : Nat) (h : x < 2 ^ n) :
    x < 2 ^ (n - leadZeros x n) ∧ (leadZeros x n < n → 2 ^ (n - 1 - leadZeros x n) ≤ x) := by
  induction n with
  | zero => exact ⟨h, fun h => absurd h (Nat.lt_irrefl 0)⟩
  | succ n ih =>
    unfold leadZeros
    split
    · next top =>
      refine ⟨h, fun _ => ?_⟩
      refine Nat.le_of_not_lt fun low => ?_
      rw [Nat.add_sub_cancel, Nat.sub_zero] at low
      have zero : x / 2 ^ n = 0 := Nat.div_eq_of_lt low
      omega
    · next top =>
      have zero : ∀ q < 2, q % 2 ≠ 1 → q = 0 := by decide
      have low : x < 2 ^ n := Nat.lt_of_div_eq_zero (Nat.two_pow_pos n) (zero _ (Nat.div_lt_of_lt_mul h) top)
      obtain ⟨above, below⟩ := ih low
      rw [Nat.add_sub_add_right, Nat.add_sub_cancel, Nat.add_comm (leadZeros x n), ← Nat.sub_sub]
      exact ⟨above, fun h => below (by omega)⟩

theorem trailZeros_le (x n : Nat) : trailZeros x n ≤ n := by
  induction n generalizing x with
  | zero => exact Nat.le_refl 0
  | succ n ih =>
    unfold trailZeros
    have := ih (x / 2)
    split <;> omega

/-- A number is divisible by the power of two of its trailing zeros, and the bit after them is 1 where they are fewer than n. -/
theorem trailZeros_spec (x n : Nat) :
    x % 2 ^ trailZeros x n = 0 ∧ (trailZeros x n < n → x.testBit (trailZeros x n) = true) := by
  induction n generalizing x with
  | zero => exact ⟨Nat.mod_one x, fun h => absurd h (Nat.lt_irrefl 0)⟩
  | succ n ih =>
    unfold trailZeros
    split
    · next odd => exact ⟨Nat.mod_one x, fun _ => by simp [odd]⟩
    · next even =>
      obtain ⟨dvd, one⟩ := ih (x / 2)
      refine ⟨?_, fun h => ?_⟩
      · rw [Nat.pow_succ, Nat.mul_comm, Nat.mod_mul, dvd]
        omega
      · rw [Nat.testBit_succ]
        exact one (by omega)

theorem popBits_eq_countP (x n : Nat) : popBits x n = (List.range n).countP fun i => x.testBit i := by
  induction n with
  | zero => rfl
  | succ n ih =>
    rw [popBits, ih, List.range_succ, List.countP_append, List.countP_singleton, ← bitOf_eq, bitOf]
    rcases Nat.mod_two_eq_zero_or_one (x / 2 ^ n) with h | h <;> simp [h]

/-- Settles O5: the bits of the two field words, and the counts by induction on the width. -/
theorem bitManipulation : Obligations.BitManipulation := by
  unfold Obligations.BitManipulation
  refine ⟨fun f s pos len hl hp hi => ?_, fun f s => ⟨?_, ?_, ?_⟩⟩
  · obtain ⟨rfl, rfl⟩ := RiF.pos_len hl hp hi
    exact ⟨⟨_, writes_of_writeG _ _ _ _ rfl, getLsbD_bextWord _ _ _⟩,
      ⟨_, writes_of_writeG _ _ _ _ rfl, getLsbD_binsWord _ _ _ _⟩⟩
  · obtain ⟨above, below⟩ := leadZeros_bounds (s.rg f.a).toNat 64 (s.rg f.a).isLt
    exact ⟨_, writes_of_writeG _ _ _ _ rfl, leadZeros_le _ 64, above, below⟩
  · obtain ⟨dvd, one⟩ := trailZeros_spec (s.rg f.a).toNat 64
    exact ⟨_, writes_of_writeG _ _ _ _ rfl, trailZeros_le _ 64, dvd, one⟩
  · exact writes_of_eq rfl (congrArg _ (popBits_eq_countP ..))

/-! ## Conditions and constants (04 Table 4.5, 06 R138, R139, R145, R147) -/

section
variable (a b : Word)

theorem wordCond_eq : wordCond 0 a b = decide (a = b) := decide_eq_decide.2 BitVec.toNat_inj
theorem wordCond_ne : wordCond 1 a b = decide (a ≠ b) := decide_eq_decide.2 (not_congr BitVec.toNat_inj)
theorem wordCond_lt : wordCond 2 a b = decide (a.toInt < b.toInt) := rfl
theorem wordCond_ge : wordCond 3 a b = decide (b.toInt ≤ a.toInt) := rfl
theorem wordCond_ltn : wordCond 4 a b = decide (a.toNat < b.toNat) := rfl
theorem wordCond_gen : wordCond 5 a b = decide (b.toNat ≤ a.toNat) := rfl

end

/-- R138: `setc` by the proposition that its condition decides. -/
theorem setc_writes {cc : BitVec 3} {f : RrF} {s : State} {p : Prop} [Decidable p]
    (h : wordCond cc (s.rg f.a) (s.rg f.b) = decide p) : Writes (.setc cc f) s f.d (if p then 1 else 0) :=
  writes_of_eq rfl (by rw [h]; simp only [decide_eq_true_eq])

theorem loopIndex_eq (l : List Loop) (j : Nat) :
    (l[j]?.map Loop.index).getD 0 = if h : j < l.length then (l[j]'h).index else 0 := by
  split
  · next h => rw [List.getElem?_eq_getElem h]; rfl
  · next h => rw [List.getElem?_eq_none (Nat.le_of_not_lt h)]; rfl

/-- R139: the word that `lih` builds, its two parts having no bit in common. -/
theorem lihWord_eq (imm : BitVec 45) (old : Word) :
    imm.setWidth 64 <<< 45 ||| (old &&& 0x1FFFFFFFFFFF#64) = BitVec.ofNat 64 (imm.toNat * 2 ^ 45 + old.toNat % 2 ^ 45) := by
  have low : old &&& 0x1FFFFFFFFFFF#64 = BitVec.ofNat 64 (old.toNat % 2 ^ 45) := by
    apply BitVec.eq_of_toNat_eq
    rw [BitVec.toNat_ofNat, Nat.mod_eq_of_lt (by omega)]
    exact Nat.and_two_pow_sub_one_eq_mod old.toNat 45
  have apart : imm.setWidth 64 <<< 45 &&& BitVec.ofNat 64 (old.toNat % 2 ^ 45) = 0#64 := by
    apply BitVec.eq_of_getLsbD_eq
    intro i _
    rw [BitVec.getLsbD_and, BitVec.getLsbD_shiftLeft, BitVec.getLsbD_ofNat, Nat.testBit_mod_two_pow, BitVec.getLsbD_zero]
    by_cases hi : i < 45 <;> simp [hi]
  rw [low, ← BitVec.add_eq_or_of_and_eq_zero _ _ apart, shiftLeft_word, BitVec.ofNat_add, BitVec.toNat_setWidth,
    Nat.mod_eq_of_lt (by omega)]

theorem nop_writes (f : RrF) (s : State) : Writes (.nop f) s 0 0 :=
  writes_of_writeG _ _ _ _ rfl

/-- Settles O6: the six conditions of Table 4.5 that two words have, the constants and the entry of the loop stack. -/
theorem conditionsAndConstants : Obligations.ConditionsAndConstants := by
  unfold Obligations.ConditionsAndConstants
  intro s
  exact ⟨fun f => ⟨setc_writes (wordCond_eq ..), setc_writes (wordCond_ne ..), setc_writes (wordCond_lt ..),
    setc_writes (wordCond_ge ..), setc_writes (wordCond_ltn ..), setc_writes (wordCond_gen ..),
    writes_of_eq rfl (loopIndex_eq ..), nop_writes f s⟩,
    fun f => ⟨writes_of_eq rfl rfl, fun _ => writes_of_eq rfl (lihWord_eq ..)⟩⟩

end Sys2Proof.Machine
end

section
/-! O7 to O10: branches, jumps, the traps of a transfer of control, and the loop stack (06 R141 to R143, R148 to R151). -/
namespace Sys2Proof.Machine

/-! ## Transfers of control (06 R141 to R143, R150) -/

section
variable {s : State}

/-- R150: away from the last address of a loop body a transfer goes through. -/
theorem State.transferTo_plain (w : Word) (go : State) (h : s.plainPc) : s.transferTo w go = .next go := by
  rw [State.transferTo, State.atLoopEnd_false h]
  rfl

/-- R150: at the last address of a loop body it traps. -/
theorem State.transferTo_atEnd (w : Word) (go : State) (h : ¬ s.plainPc) :
    s.transferTo w go = .next (s.trapWord w causeIllegal) := by
  rw [State.transferTo, State.atLoopEnd_true h]
  rfl

/-- A transfer away from the last address of a loop body. -/
theorem jumps_of_transferTo {i : Instr} {w pc : Word} {b : Bool} (h : s.plainPc) (e : exec i s = s.transferTo w (s.jump pc b)) :
    Jumps i s pc 0 0 :=
  jumps_of_jump (e.trans (State.transferTo_plain w _ h))

/-- The same, with a register written. -/
theorem jumps_of_transferTo_setG {i : Instr} {w pc v : Word} {b : Bool} {d : BitVec 5} (h : s.plainPc)
    (e : exec i s = s.transferTo w ((s.jump pc b).setG d v)) : Jumps i s pc d v :=
  jumps_of_jump_setG (e.trans (State.transferTo_plain w _ h))

/-- R150: a transfer at the last address of a loop body traps with its word. -/
theorem traps_of_transferTo {i : Instr} {w v : Word} {go : State} (h : ¬ s.plainPc) (can : s.canTrap)
    (e : exec i s = s.transferTo w go) (hw : some w = some v) : TrapsHere i s 1 v :=
  Option.some.inj hw ▸ traps_of_trapWord i s w causeIllegal (by decide) can (e.trans (State.transferTo_atEnd w go h))

end

/-- R141: the offset counts words of 8 bytes from the branch. -/
theorem branchTarget_eq (pc : Word) (off : BitVec 35) :
    branchTarget pc off = BitVec.ofInt 64 ((pc.toNat : Int) + 8 * off.toInt) := by
  have scaled : off.signExtend 64 <<< 3 = BitVec.ofInt 64 (8 * off.toInt) := by
    rw [BitVec.shiftLeft_eq_mul_twoPow, BitVec.mul_comm, BitVec.ofInt_mul]
    rfl
  rw [branchTarget, scaled, BitVec.ofInt_add, BitVec.ofInt_natCast, BitVec.ofNat_toNat, BitVec.setWidth_eq]

theorem exec_bc (cc : BitVec 3) (f : BrF) (s : State) :
    exec (.bc cc f) s = s.transferTo (encBr 0x18 (cc.setWidth 6) f)
      (if wordCond cc (s.rg f.a) (s.rg f.b) then s.jumpTo (branchTarget s.hart.pc f.off)
       else s.jump (s.hart.pc + 8) false) := rfl

/-- R141, by what the condition amounts to. -/
theorem bc_jumps {cc : BitVec 3} {f : BrF} {s : State} {p : Bool} (h : s.plainPc)
    (c : wordCond cc (s.rg f.a) (s.rg f.b) = p) :
    Jumps (.bc cc f) s (if p then BitVec.ofInt 64 ((s.hart.pc.toNat : Int) + 8 * f.off.toInt) else s.hart.pc + 8) 0 0 := by
  rw [← branchTarget_eq, ← c]
  split
  · next t => exact jumps_of_transferTo h ((exec_bc cc f s).trans (by rw [if_pos t]; rfl))
  · next t => exact jumps_of_transferTo h ((exec_bc cc f s).trans (by rw [if_neg t]))

theorem exec_jr (f : RrF) (s : State) :
    exec (.jr f) s = s.transferTo (encRr 0x1B 0 f)
      (if (s.rg f.a).toNat % 8 ≠ 0 then s.takeTrap (s.causeOf (encRr 0x1B 0 f) causeAlign (s.rg f.a) 0 false)
       else (s.jumpTo (s.rg f.a)).setG f.d (s.hart.pc + 8)) := rfl

/-- R143: the target is GR(A) as it stands before GR(D) is written. -/
theorem jr_jumps {f : RrF} {s : State} (h : s.plainPc) (aligned : (s.rg f.a).toNat % 8 = 0) :
    Jumps (.jr f) s (s.rg f.a) f.d (s.hart.pc + 8) :=
  jumps_of_transferTo_setG h ((exec_jr f s).trans (by rw [if_neg fun odd => odd aligned]; rfl))

/-- Settles O7: away from the last address of a loop body each transfer is its jump. -/
theorem branches : Obligations.Branches := by
  unfold Obligations.Branches
  intro s h
  refine ⟨fun f => ⟨bc_jumps h (wordCond_eq ..), bc_jumps h (wordCond_ne ..), bc_jumps h (wordCond_lt ..),
    bc_jumps h (wordCond_ge ..), bc_jumps h (wordCond_ltn ..), bc_jumps h (wordCond_gen ..), ?_, ?_⟩, fun f => jr_jumps h⟩
  · rw [← branchTarget_eq]
    exact jumps_of_transferTo h rfl
  · rw [← branchTarget_eq]
    exact jumps_of_transferTo_setG h rfl

/-- R143: a target that is no multiple of 8. -/
theorem jr_misaligned {f : RrF} {s : State} (can : s.canTrap) (h : s.plainPc) (misaligned : (s.rg f.a).toNat % 8 ≠ 0) :
    TrapsHere (.jr f) s 7 (s.rg f.a) :=
  ⟨_, (exec_jr f s).trans (by rw [if_pos misaligned]; exact State.transferTo_plain _ _ h),
    s.takeTrap_taken _ can (by decide : causeAlign < 256)⟩

/-- Settles O8: the misaligned target, and the five transfers at the last address of a loop body. -/
theorem transferTraps : Obligations.TransferTraps := by
  unfold Obligations.TransferTraps
  intro s can
  exact ⟨fun h f => jr_misaligned can h, fun h => ⟨fun _ _ _ => traps_of_transferTo h can rfl,
    fun _ _ => traps_of_transferTo h can rfl, fun _ _ => traps_of_transferTo h can rfl,
    fun _ _ => traps_of_transferTo h can rfl, fun _ _ => traps_of_transferTo h can rfl⟩⟩

/-! ## `loop` (06 R148) -/

/-- The acting sequencer goes to an address with another loop stack. -/
def State.jumpLoops (s : State) (pc : Word) (back : Bool) (l : List Loop) : State :=
  { s.jump pc back with hart := { (s.jump pc back).hart with loops := l } }

theorem jumpLoops_frame (s : State) (pc : Word) (b : Bool) (l : List Loop) : ScalarFrame s (s.jumpLoops pc b l) 0 0 :=
  have ⟨_, _, regs⟩ := jump_frame s pc b
  ⟨rfl, rfl, regs⟩

/-- The address of the last instruction of a body (R148). -/
def loopLast (pc : Word) (off : BitVec 35) : Word := pc + off.setWidth 64 <<< 3

theorem loopLast_eq (pc : Word) (off : BitVec 35) : loopLast pc off = pc + BitVec.ofNat 64 (8 * off.toNat) := by
  have scaled : off.setWidth 64 <<< 3 = BitVec.ofNat 64 (8 * off.toNat) := by
    apply BitVec.eq_of_toNat_eq
    rw [BitVec.toNat_shiftLeft, BitVec.toNat_setWidth, BitVec.toNat_ofNat, Nat.shiftLeft_eq]
    omega
  rw [loopLast, scaled]

/-- The entry that `loop` pushes (06 Table 6.4). -/
def State.loopEntry (s : State) (f : BrF) : Loop :=
  { h := s.hart.handling, last := (loopLast s.hart.pc f.off).setWidth 57, first := (s.hart.pc + 8).setWidth 57, count := s.rg f.a
    index := 0 }

section
variable {f : BrF} {s : State}

theorem exec_loop_zero (h : s.plainPc) (zero : s.rg f.a = 0) :
    exec (.loop f) s = .next (s.jump (loopLast s.hart.pc f.off + 8) false) := by
  show execLoop f s = _
  unfold execLoop
  rw [State.transferTo_plain _ _ h, if_pos zero]
  rfl

theorem exec_loop_push (h : s.plainPc) (count : s.rg f.a ≠ 0) (room : s.hart.loops.length < 6)
    (inside : ∀ e ∈ s.hart.topLoop, (loopLast s.hart.pc f.off).toNat ≤ e.last.toNat) :
    exec (.loop f) s = .next (s.jumpLoops (s.hart.pc + 8) true (s.loopEntry f :: s.hart.loops)) := by
  show execLoop f s = _
  unfold execLoop
  rw [State.transferTo_plain _ _ h, if_neg count, if_neg (Nat.not_le.2 room)]
  cases top : s.hart.topLoop with
  | none => rfl
  | some e =>
    exact congrArg Host.Outcome.next (if_neg fun late => absurd (inside e top) (Nat.not_le.2 (of_decide_eq_true late)))

theorem exec_loop_refused (h : s.plainPc) (count : s.rg f.a ≠ 0)
    (refused : 6 ≤ s.hart.loops.length ∨ ∃ e ∈ s.hart.topLoop, e.last.toNat < (loopLast s.hart.pc f.off).toNat) :
    exec (.loop f) s = .next (s.trapWord (encBr 0x1C 0 f) causeIllegal) := by
  show execLoop f s = _
  unfold execLoop
  rw [State.transferTo_plain _ _ h, if_neg count]
  rcases refused with full | ⟨e, top, outside⟩
  · rw [if_pos full]
  · rw [if_pos (show _ = true by rw [top]; exact decide_eq_true outside), ite_self]

end

/-- Settles O9: the three outcomes of `loop`. -/
theorem loopPushes : Obligations.LoopPushes := by
  unfold Obligations.LoopPushes
  intro f s h _
  rw [← loopLast_eq]
  exact ⟨fun zero => jumps_of_jump (exec_loop_zero h zero),
    fun count room inside => ⟨_, exec_loop_push h count room inside, jumpLoops_frame .., rfl, rfl⟩,
    fun count can refused w hw => Option.some.inj hw ▸
      traps_of_trapWord _ s _ causeIllegal (by decide) can (exec_loop_refused h count refused)⟩

/-! ## The loop-end step and `lbrk` (06 R149, R151) -/

/-- R149: the innermost loop ends and has iterations left. -/
theorem loopEnd_again {b : Bool} {q : Word} {e : Loop} (l : List Loop) (ends : e.last.setWidth 64 = q) (own : e.h = b)
    (left : e.index.toNat + 1 < e.count.toNat) :
    loopEnd b q (e :: l) = ({ e with index := BitVec.ofNat 64 (e.index.toNat + 1) } :: l, e.first.setWidth 64, true) := by
  rw [loopEnd, if_pos ⟨ends, own⟩, if_pos left]
  rfl

/-- R149: the innermost loop ends and is finished. -/
theorem loopEnd_finished {b : Bool} {q : Word} {e : Loop} (l : List Loop) (ends : e.last.setWidth 64 = q) (own : e.h = b)
    (finished : e.count.toNat ≤ e.index.toNat + 1) : loopEnd b q (e :: l) = loopEnd b q l := by
  rw [loopEnd, if_pos ⟨ends, own⟩, if_neg (Nat.not_lt.2 finished)]

/-- What a `nop` leaves is what the loop-end step at the PC gives. -/
theorem nop_of_loopEnd {s : State} {l m : List Loop} {pc : Word} {b : Bool} (f : RrF) (hl : s.hart.loops = l)
    (e : loopEnd s.hart.handling s.hart.pc l = (m, pc, b)) :
    exec (.nop f) s = .next s.advance ∧ s.advance.hart.pc = pc ∧ s.advance.hart.loops = m := by
  subst hl
  exact ⟨rfl, congrArg (·.2.1) e, congrArg (·.1) e⟩

/-- R151: `lbrk` in a loop of the present handling state. -/
theorem exec_lbrk_leaves {f : RrF} {s : State} {e : Loop} {l : List Loop} (hl : s.hart.loops = e :: l)
    (own : e.h = s.hart.handling) :
    let r := loopEnd s.hart.handling (e.last.setWidth 64) l
    exec (.lbrk f) s = .next (s.jumpLoops r.2.1 r.2.2 r.1) := by
  show execLbrk f s = _
  unfold execLbrk
  rw [hl]
  exact if_neg fun foreign => foreign own

/-- R151: `lbrk` without such a loop. -/
theorem exec_lbrk_refused {f : RrF} {s : State} (foreign : ∀ e ∈ s.hart.loops.head?, e.h ≠ s.hart.handling) :
    exec (.lbrk f) s = .next (s.trapWord (encRr 0x1D 0 f) causeIllegal) := by
  show execLbrk f s = _
  unfold execLbrk
  cases hl : s.hart.loops with
  | nil => rfl
  | cons e l => exact if_pos (foreign e (by rw [hl]; rfl))

/-- Settles O10: the cases of the loop-end step, and `lbrk` as that step at the LAST of the loop it leaves. -/
theorem loopEnds : Obligations.LoopEnds := by
  unfold Obligations.LoopEnds
  refine ⟨fun s f => ⟨rfl, fun empty => (nop_of_loopEnd f empty rfl).2⟩,
    fun s f e l hl => ⟨fun off => ?_, fun ends own left => ?_, fun ends own finished => ?_⟩,
    fun f s => ⟨fun e l hl own => ?_, fun foreign can w hw => ?_⟩⟩
  · have plain : ∀ x ∈ (e :: l).head?, ¬ (x.last.setWidth 64 = s.hart.pc ∧ x.h = s.hart.handling) := by simpa using off
    exact ⟨_, nop_of_loopEnd f hl (loopEnd_plain _ _ _ plain)⟩
  · exact ⟨_, nop_of_loopEnd f hl (loopEnd_again l ends own left)⟩
  · obtain ⟨run, pc, loops⟩ := nop_of_loopEnd f hl (loopEnd_finished l ends own finished)
    exact ⟨_, _, run, rfl, pc, loops⟩
  · exact ⟨_, exec_lbrk_leaves hl own, jumpLoops_frame .., rfl⟩
  · exact Option.some.inj hw ▸ traps_of_trapWord _ s _ causeIllegal (by decide) can (exec_lbrk_refused foreign)

end Sys2Proof.Machine
end

section
/-! O17 to O21: vector integer, pixel and floating instructions (07 R161 to R180). -/
namespace Sys2Proof.Machine

/-! ## Words, types and values (02 Table 2.1, 07 R162) -/

theorem widthOf_ge_four (ew : BitVec 3) : 4 ≤ widthOf ew := by
  unfold widthOf
  split <;> decide

theorem widthOf_pos (ew : BitVec 3) : 0 < widthOf ew := Nat.lt_of_lt_of_le (by decide) (widthOf_ge_four ew)

theorem cut_eq_ofInt (w : Nat) (x : Int) : cut w x = (BitVec.ofInt w x).toNat := (BitVec.toNat_ofInt x).symm

theorem cut_natCast (w n : Nat) : cut w (n : Int) = n % 2 ^ w := by
  unfold cut
  omega

theorem sint_eq_toInt {w : Nat} (hw : 0 < w) (x : Nat) : sint w x = (BitVec.ofNat w x).toInt := by
  have double : 2 ^ w = 2 * 2 ^ (w - 1) := by rw [← Nat.pow_succ', Nat.succ_eq_add_one, Nat.sub_add_cancel hw]
  rw [BitVec.toInt_eq_toNat_cond, BitVec.toNat_ofNat]
  unfold sint
  simp only
  split <;> split <;> omega

/-- R162: the value of an element by its type. -/
theorem readInt_eq {w : Nat} (hw : 0 < w) (ty : BitVec 3) (v : Nat) :
    readInt ty w v = if ty = 1 then (BitVec.ofNat w v).toInt else (v : Int) := by
  unfold readInt
  rw [sint_eq_toInt hw]

theorem clampInt_eq {lo hi : Int} (h : lo ≤ hi) (y : Int) : clampInt lo hi y = max lo (min y hi) := by
  unfold clampInt
  split
  · omega
  · split <;> omega

theorem natCast_two_pow (n : Nat) : ((2 ^ n : Nat) : Int) = 2 ^ n := Int.natCast_pow 2 n

theorem natCast_two_pow_pred (n : Nat) : ((2 ^ n - 1 : Nat) : Int) = 2 ^ n - 1 := by
  rw [Int.ofNat_sub Nat.one_le_two_pow, natCast_two_pow]
  rfl

/-- R162: the clamp to the bounds of an integer type. -/
theorem clampInt_intBounds (ty : BitVec 3) (w : Nat) (y : Int) :
    clampInt (intBounds w (ty == 1)).1 (intBounds w (ty == 1)).2 y =
      if ty = 1 then max (-(2 ^ (w - 1))) (min y (2 ^ (w - 1) - 1)) else max 0 (min y (2 ^ w - 1)) := by
  have pos : ∀ n : Nat, (0 : Int) < 2 ^ n := fun n => Int.pow_pos (by decide)
  unfold intBounds
  by_cases h : ty = 1
  · have := pos (w - 1)
    rw [if_pos h, if_pos (beq_iff_eq.2 h), natCast_two_pow, natCast_two_pow_pred]
    exact clampInt_eq (by omega) y
  · have := pos w
    rw [if_neg h, if_neg (mt beq_iff_eq.1 h), natCast_two_pow_pred]
    exact clampInt_eq (by omega) y

theorem satInt_eq (ty : BitVec 3) (w : Nat) (y : Int) :
    satInt ty w y = (BitVec.ofInt w
      (if ty = 1 then max (-(2 ^ (w - 1))) (min y (2 ^ (w - 1) - 1)) else max 0 (min y (2 ^ w - 1)))).toNat := by
  rw [← clampInt_intBounds, ← cut_eq_ofInt]
  rfl

/-! ## What the instructions of this family share (03 R60 to R62, 04 Table 4.7, 07 R157 to R159) -/

theorem State.VecReady.mono {s : State} {regs regs' widths widths' : List Nat} (h : s.VecReady regs widths)
    (hr : regs' ⊆ regs) (hw : widths' ⊆ widths) : s.VecReady regs' widths' :=
  ⟨fun r m => h.1 r (hr m), fun w m => h.2 w (hw m)⟩

theorem mem_active_of_fits {w : Nat} (hw : 4 ≤ w) (v : Vec) (msk : BitVec 3) (mn : BitVec 1) (e : Nat)
    (he : w * (e + 1) ≤ 65536) : e ∈ v.active msk mn ↔ v.acts msk mn e = true := by
  have : 4 * (e + 1) ≤ w * (e + 1) := Nat.mul_le_mul_right _ hw
  exact mem_active v msk mn e (by omega)

/-- The active elements of a register lie in no poisoned group, for a word of one width. -/
abbrev State.CleanFor (s : State) (f : VvF) (r : BitVec 5) : Prop :=
  s.hart.vec.Clean r.toNat (widthOf f.ew) (s.hart.vec.acts f.msk f.mn)

/-- An operand of a word of one width. -/
abbrev State.operand (s : State) (f : VvF) (r : BitVec 5) (e : Nat) : Nat := s.hart.vec.elem r.toNat e (widthOf f.ew)

/-- After the issue, the active elements of a clean register are consumed without an event. -/
theorem consume_issued {n w : Nat} {s : State} {msk : BitVec 3} {mn : BitVec 1}
    (h : s.hart.vec.Clean n w (s.hart.vec.acts msk mn)) :
    consume n w (s.hart.vec.active msk mn) s.nextLane = (.ok ⟨⟩, s.nextLane) :=
  consume_run (s := s.nextLane) h fun e m => (acts_of_mem _ _ _ e m).1

/-- A part that runs under a condition, and where it runs answers nothing and changes nothing. -/
theorem M.guarded_run {β : Type} {c : Prop} [Decidable c] {x : M PUnit} {k : PUnit → M β} {s : State}
    (h : c → x s = (.ok ⟨⟩, s)) : (if c then x >>= k else k ⟨⟩) s = k ⟨⟩ s := by
  split
  · next hc => exact M.bind_ok (h hc)
  · rfl

/-- A part in two branches, which go on alike. -/
theorem M.branch_ok {α β : Type} {c : Prop} [Decidable c] {x y : M α} {k : α → M β} {s t : State} {a : α}
    (h : (if c then x else y) s = (.ok a, t)) : (if c then x >>= k else y >>= k) s = k a t := by
  rw [← apply_ite (· >>= k)]
  exact M.bind_ok h

/-- An instruction depends on what its computation does from its state alone. -/
theorem State.run_congr {s : State} {w : Word} {m m' : M Unit} (h : m s = m' s) : s.run w m = s.run w m' := by
  unfold State.run
  rw [h]

theorem elem_lt (v : Vec) (n e w : Nat) : v.elem n e w < 2 ^ w := Nat.mod_lt _ (Nat.two_pow_pos w)

theorem VecWrites.congr {i : Instr} {s : State} {d : BitVec 5} {w : Nat} {act : Nat → Bool} {g g' : Nat → Nat}
    (h : VecWrites i s d w act g) (hg : ∀ e, g e % 2 ^ w = g' e % 2 ^ w) : VecWrites i s d w act g' := by
  obtain ⟨t, run, step, elems⟩ := h
  refine ⟨t, run, step, fun e he => ?_⟩
  rw [elems e he, hg]

theorem MaskWrites.congr {i : Instr} {s : State} {d : BitVec 3} {act g g' : Nat → Bool} (h : MaskWrites i s d act g)
    (hg : ∀ e, g e = g' e) : MaskWrites i s d act g' := funext hg ▸ h

theorem Unary.congr {i : Instr} {f : VvF} {s : State} {ws wd : Nat} {g g' : Nat → Nat → Nat} (h : Unary i f s ws wd g)
    (hg : ∀ e a, a < 2 ^ ws → g e a = g' e a) : Unary i f s ws wd g' :=
  fun ready clean => (h ready clean).congr fun e => by rw [hg e _ (elem_lt ..)]

/-! ## Integer functions in their three encodings (07 R161, R162, Table 7.2) -/

/-- R162: the body of an integer function, on clean sources. -/
theorem intBody_writes {i : Instr} {o : Op} {w : Word} {f : VvF} {fn : Nat} {vb : Option (BitVec 5)} {b : Vec → Nat → Nat}
    {s : State} (hi : exec i s = s.run w (intBody o w f fn vb b)) (plain : Legal.usesF64 o w = false)
    (ready : s.VecReady ([f.d.toNat, f.a.toNat] ++ (vb.map (·.toNat)).toList ++ (if readsC fn then [f.c.toNat] else []))
      [widthOf f.ew])
    (cleanA : s.CleanFor f f.a) (cleanB : ∀ r ∈ vb, s.CleanFor f r) (cleanC : readsC fn = true → s.CleanFor f f.c) :
    VecWrites i s f.d (widthOf f.ew) (s.hart.vec.acts f.msk f.mn) fun e =>
      intFn fn f.ty (widthOf f.ew) (s.operand f f.a e) (b s.hart.vec e) (if readsC fn then s.operand f f.c e else 0) := by
  refine vecWrites_of (es := s.hart.vec.active f.msk f.mn) hi ?_ (mem_active_of_fits (widthOf_ge_four _) _ _ _)
  unfold intBody
  refine (M.bind_ok (vecIssue_run ready (by simp [plain]))).trans ?_
  refine (M.bind_ok (M.get_run _)).trans ?_
  refine (M.bind_ok (consume_issued cleanA)).trans ?_
  cases vb with
  | none => exact (M.guarded_run fun c => consume_issued (cleanC c)).trans (vecDone_run _ _)
  | some r =>
    refine (M.bind_ok (consume_issued (cleanB r rfl))).trans ?_
    exact (M.guarded_run fun c => consume_issued (cleanC c)).trans (vecDone_run _ _)

/-- The registers of a word with three sources, in the order of the issue. -/
theorem sources_subset (d a b : Nat) (l : List Nat) : [d, a] ++ [b] ++ l ⊆ b :: ([d, a] ++ l) := by
  intro r m
  rcases List.mem_append.1 m with named | third
  · rcases List.mem_append.1 named with two | second
    · exact List.mem_cons_of_mem _ (List.mem_append_left _ two)
    · rw [List.mem_singleton.1 second]
      exact List.mem_cons_self ..
  · exact List.mem_cons_of_mem _ (List.mem_append_right _ third)

/-- The three encodings of a function of Table 7.2, by its number. -/
theorem intForms_of {vv vs vi : VvF → Instr} {g : BitVec 3 → Nat → Nat → Nat → Nat → Nat} (fn : Nat) (ov os oi : Op)
    (value : ∀ ty w a b c, 0 < w → intFn fn ty w a b c % 2 ^ w = g ty w a b c % 2 ^ w)
    (run : ∀ f s,
      exec (vv f) s = intVv ov fn f s ∧ exec (vs f) s = intVs os fn f s ∧ exec (vi f) s = intVi oi fn f s := by
        exact fun _ _ => ⟨rfl, rfl, rfl⟩)
    (plain : ∀ w, Legal.usesF64 ov w = false ∧ Legal.usesF64 os w = false ∧ Legal.usesF64 oi w = false := by
      exact fun _ => ⟨rfl, rfl, rfl⟩) :
    IntForms vv vs vi (readsC fn) g := by
  intro f s v w act a c regs cleanA cleanC
  have values (b : Nat → Nat) (e : Nat) : intFn fn f.ty w (a e) (b e) (c e) % 2 ^ w = g f.ty w (a e) (b e) (c e) % 2 ^ w :=
    value _ _ _ _ _ (widthOf_pos _)
  obtain ⟨runV, runS, runI⟩ := run f s
  refine ⟨fun ready cleanB => ?_, fun ready => ⟨?_, ?_⟩⟩
  · have ready := ready.mono (sources_subset ..) (List.Subset.refl _)
    exact (intBody_writes runV (plain _).1 ready cleanA (by simpa using cleanB) cleanC).congr (values _)
  · exact (intBody_writes runS (plain _).2.1 ready cleanA (by simp) cleanC).congr (values _)
  · rw [← cut_eq_ofInt]
    exact (intBody_writes runI (plain _).2.2 ready cleanA (by simp) cleanC).congr (values _)

/-- Settles O17: Table 7.2 function by function, each by its number in the table. -/
theorem vectorInteger : Obligations.VectorInteger := by
  unfold Obligations.VectorInteger
  intro x clamp trunc
  have typed : ∀ {w}, 0 < w → ∀ ty v, readInt ty w v = x ty w v := readInt_eq
  have truncated : ∀ w y, cut w y = trunc w y := cut_eq_ofInt
  have saturated : ∀ ty w y, satInt ty w y = trunc w (clamp ty w y) := satInt_eq
  refine ⟨?_, ?_, ?_, ?_, ?_, ?_, ?_, ?_, ?_, ?_, ?_, ?_, ?_, ?_, ?_, ?_, ?_, ?_, ?_⟩
  · exact intForms_of 0x00 .vaddVv .vaddVs .vaddVi fun _ _ _ _ _ _ => Nat.mod_mod ..
  · refine intForms_of 0x01 .vsubVv .vsubVs .vsubVi fun ty w a b c pos => ?_
    simp only [intFn, truncated]
  · exact intForms_of 0x02 .vmulVv .vmulVs .vmulVi fun _ _ _ _ _ _ => Nat.mod_mod ..
  · refine intForms_of 0x03 .vmulhVv .vmulhVs .vmulhVi fun ty w a b c pos => ?_
    simp only [intFn, typed pos, truncated]
  · exact intForms_of 0x04 .vmacVv .vmacVs .vmacVi fun _ _ _ _ _ _ => Nat.mod_mod ..
  · refine intForms_of 0x05 .vaddsVv .vaddsVs .vaddsVi fun ty w a b c pos => ?_
    simp only [intFn, typed pos, saturated]
  · refine intForms_of 0x06 .vsubsVv .vsubsVs .vsubsVi fun ty w a b c pos => ?_
    simp only [intFn, typed pos, saturated]
  · refine intForms_of 0x07 .vavgVv .vavgVs .vavgVi fun ty w a b c pos => ?_
    simp only [intFn, typed pos, truncated]
  · refine intForms_of 0x08 .vabsdVv .vabsdVs .vabsdVi fun ty w a b c pos => ?_
    simp only [intFn, typed pos, cut_natCast, Nat.mod_mod]
  · refine intForms_of 0x09 .vminVv .vminVs .vminVi fun ty w a b c pos => ?_
    simp only [intFn, typed pos]
  · refine intForms_of 0x0A .vmaxVv .vmaxVs .vmaxVi fun ty w a b c pos => ?_
    simp only [intFn, typed pos, ge_iff_le]
  · exact intForms_of 0x0B .vandVv .vandVs .vandVi fun _ _ _ _ _ _ => rfl
  · exact intForms_of 0x0C .vorVv .vorVs .vorVi fun _ _ _ _ _ _ => rfl
  · exact intForms_of 0x0D .vxorVv .vxorVs .vxorVi fun _ _ _ _ _ _ => rfl
  · exact intForms_of 0x0E .vshlVv .vshlVs .vshlVi fun _ _ _ _ _ _ => Nat.mod_mod ..
  · exact intForms_of 0x0F .vshrVv .vshrVs .vshrVi fun _ _ _ _ _ _ => rfl
  · refine intForms_of 0x10 .vsraVv .vsraVs .vsraVi fun ty w a b c pos => ?_
    simp only [intFn, sint_eq_toInt pos, truncated]
  · exact intForms_of 0x11 .vfshlVv .vfshlVs .vfshlVi fun _ _ _ _ _ _ => Nat.mod_mod ..
  · exact intForms_of 0x12 .vfshrVv .vfshrVs .vfshrVi fun _ _ _ _ _ _ => Nat.mod_mod ..

/-! ## One source, or two that are compared (07 R163 to R167) -/

/-- An instruction of one source whose computation converts between two widths. -/
theorem unary_of_convertBody {i : Instr} {o : Op} {w : Word} {f : VvF} {s : State} {ws wd : Nat} {g : Nat → Nat → Nat}
    (hi : exec i s = s.run w (convertBody o w f ws wd g)) (hf : Legal.usesF64 o w = true → s.hasF64 = true) (hw : 4 ≤ wd) :
    Unary i f s ws wd g := by
  intro ready clean
  refine vecWrites_of (es := s.hart.vec.active f.msk f.mn) hi ?_ (mem_active_of_fits hw _ _ _)
  unfold convertBody
  refine (M.bind_ok (vecIssue_run ready hf)).trans ?_
  refine (M.bind_ok (M.get_run _)).trans ?_
  exact (M.bind_ok (consume_issued clean)).trans (vecDone_run _ _)

/-- An instruction of one source whose computation stays in its width. -/
theorem unary_of_mapBody {i : Instr} {o : Op} {w : Word} {f : VvF} {s : State} {g : Nat → Nat → Nat}
    (hi : exec i s = s.run w (mapBody o w f g)) (hf : Legal.usesF64 o w = true → s.hasF64 = true) :
    Unary i f s (widthOf f.ew) (widthOf f.ew) g := by
  intro ready clean
  have issue := vecIssue_run (ready.mono (List.Subset.refl _) (by simp) : s.VecReady _ [widthOf f.ew]) hf
  have alike : mapBody o w f g s = convertBody o w f (widthOf f.ew) (widthOf f.ew) g s := by
    unfold mapBody convertBody
    rw [M.bind_ok issue, M.bind_ok (vecIssue_run ready hf)]
  exact unary_of_convertBody (hi.trans (State.run_congr alike)) hf (widthOf_ge_four _) ready clean

/-- What `vcmp` and `vfcmp` do: a condition of each active pair, into a mask register. -/
def compareBody (o : Op) (w : Word) (f : VvF) (g : Nat → Nat → Bool) : M Unit := do
  let ew := widthOf f.ew
  vecIssue o w [f.a.toNat, f.b.toNat] [ew]
  let s ← get
  let es := s.hart.vec.active f.msk f.mn
  consume f.a.toNat ew es
  consume f.b.toNat ew es
  vecDone fun v => v.writeMask (f.d.setWidth 3) (es.map fun e => (e, g (v.elem f.a.toNat e ew) (v.elem f.b.toNat e ew)))

theorem maskWrites_of_compareBody {i : Instr} {o : Op} {w : Word} {f : VvF} {s : State} {g : Nat → Nat → Bool}
    (hi : exec i s = s.run w (compareBody o w f g)) (hf : Legal.usesF64 o w = true → s.hasF64 = true)
    (ready : s.VecReady [f.a.toNat, f.b.toNat] [widthOf f.ew])
    (cleanA : s.CleanFor f f.a) (cleanB : s.CleanFor f f.b) :
    MaskWrites i s (f.d.setWidth 3) (s.hart.vec.acts f.msk f.mn) fun e =>
      g (s.operand f f.a e) (s.operand f f.b e) := by
  refine maskWrites_of (es := s.hart.vec.active f.msk f.mn) hi ?_ (mem_active _ _ _)
  unfold compareBody
  refine (M.bind_ok (vecIssue_run ready hf)).trans ?_
  refine (M.bind_ok (M.get_run _)).trans ?_
  refine (M.bind_ok (consume_issued cleanA)).trans ?_
  exact (M.bind_ok (consume_issued cleanB)).trans (vecDone_run _ _)

/-- R163: the zero bits above the highest 1 bit. -/
theorem leadZeros_eq {x n : Nat} (h : x < 2 ^ n) : leadZeros x n = if x = 0 then n else n - 1 - x.log2 := by
  obtain ⟨above, below⟩ := leadZeros_bounds x n h
  have le := leadZeros_le x n
  split
  · next zero =>
    subst zero
    exact Nat.le_antisymm le (Nat.le_of_not_lt fun lt => absurd (below lt) (by simp))
  · next pos =>
    have lt : leadZeros x n < n := by
      refine Nat.lt_of_le_of_ne le fun e => pos ?_
      rw [e, Nat.sub_self, Nat.pow_zero] at above
      omega
    have top : x.log2 = n - 1 - leadZeros x n :=
      (Nat.log2_eq_iff pos).2 ⟨below lt, by rwa [Nat.sub_right_comm, Nat.sub_add_cancel (by omega)]⟩
    omega

theorem exec_vcmp (f : VvF) (s : State) : exec (.vcmp f) s = s.run (encVv 0x21 2 f) (compareBody .vcmp (encVv 0x21 2 f) f
    fun a b => intCond (f.imm.toNat % 16) (sint (widthOf f.ew) a) (sint (widthOf f.ew) b) a b) := rfl

/-- R164: `vcmp` by the code of its condition. -/
theorem vcmp_writes (f : VvF) (s : State) (ready : s.VecReady [f.a.toNat, f.b.toNat] [widthOf f.ew])
    (cleanA : s.CleanFor f f.a) (cleanB : s.CleanFor f f.b) :
    MaskWrites (.vcmp f) s (f.d.setWidth 3) (s.hart.vec.acts f.msk f.mn) fun e =>
      let a := s.operand f f.a e
      let b := s.operand f f.b e
      intCond (f.imm.toNat % 16) (BitVec.ofNat (widthOf f.ew) a).toInt (BitVec.ofNat (widthOf f.ew) b).toInt a b := by
  have compare := maskWrites_of_compareBody (exec_vcmp f s) (by simp [Legal.usesF64]) ready cleanA cleanB
  simpa only [sint_eq_toInt (widthOf_pos f.ew)] using compare

/-- R165: `vsel`, of which each source is consumed where it is selected. -/
theorem vsel_writes (f : VvF) (s : State) (sel : Nat → Bool) (hs : sel = bitOf (s.hart.vec.mr (f.imm.toNat % 8)))
    (ready : s.VecReady [f.d.toNat, f.a.toNat, f.b.toNat] [widthOf f.ew])
    (cleanA : s.hart.vec.Clean f.a.toNat (widthOf f.ew) fun e => s.hart.vec.acts f.msk f.mn e && sel e)
    (cleanB : s.hart.vec.Clean f.b.toNat (widthOf f.ew) fun e => s.hart.vec.acts f.msk f.mn e && !sel e) :
    VecWrites (.vsel f) s f.d (widthOf f.ew) (s.hart.vec.acts f.msk f.mn) fun e =>
      if sel e then s.operand f f.a e else s.operand f f.b e := by
  subst hs
  have used (p : Nat → Bool) : ∀ e ∈ (s.hart.vec.active f.msk f.mn).filter p,
      (s.hart.vec.acts f.msk f.mn e && p e) = true := by
    intro e m
    obtain ⟨active, taken⟩ := List.mem_filter.1 m
    rw [(acts_of_mem _ _ _ e active).1, taken]
    rfl
  refine vecWrites_of (es := s.hart.vec.active f.msk f.mn) rfl ?_ (mem_active_of_fits (widthOf_ge_four _) _ _ _)
  refine (M.bind_ok (vecIssue_run ready (by simp [Legal.usesF64]))).trans ?_
  refine (M.bind_ok (M.get_run _)).trans ?_
  refine (M.bind_ok (consume_run (s := s.nextLane) cleanA (used _))).trans ?_
  exact (M.bind_ok (consume_run (s := s.nextLane) cleanB (used _))).trans (vecDone_run _ _)

/-- Settles O18: the four unary functions, the conditions of `vcmp` by their codes, and `vsel`. -/
theorem vectorIntegerUnary : Obligations.VectorIntegerUnary := by
  unfold Obligations.VectorIntegerUnary
  refine ⟨fun f s => ?_, fun f s => ?_⟩
  · intro w ws x clamp
    have typed : ∀ a, readInt (Legal.srcTy f) ws a = x a := readInt_eq (widthOf_pos _) _
    refine ⟨?_, ?_, ?_, ?_⟩
    · exact (unary_of_mapBody (o := .vclz) rfl (by simp [Legal.usesF64])).congr fun _ a lt => leadZeros_eq lt
    · exact (unary_of_mapBody (o := .vpopc) rfl (by simp [Legal.usesF64])).congr fun _ a _ => popBits_eq_countP a w
    · refine (unary_of_convertBody (o := .vwid) rfl (by simp [Legal.usesF64]) (widthOf_ge_four _)).congr fun _ a _ => ?_
      rw [typed, cut_eq_ofInt]
    · refine (unary_of_convertBody (o := .vnar) rfl (by simp [Legal.usesF64]) (widthOf_ge_four _)).congr fun _ a _ => ?_
      show (if f.sat = 1 then satInt f.ty w (readInt (Legal.srcTy f) ws a) else cut w (readInt (Legal.srcTy f) ws a)) = _
      rw [typed, satInt_eq, cut_eq_ofInt]
      exact (apply_ite (fun y => (BitVec.ofInt w y).toNat) _ _ _).symm
  · intro v w act a b i j sel
    refine ⟨fun ready cleanA cleanB p hp code => ?_, vsel_writes f s sel rfl⟩
    have compare := vcmp_writes f s ready cleanA cleanB
    rw [code] at compare
    simp only [List.mem_cons, List.not_mem_nil, or_false] at hp
    rcases hp with rfl | rfl | rfl | rfl | rfl | rfl | rfl | rfl | rfl | rfl <;> exact compare

end Sys2Proof.Machine
end

section
/-! O19: packed pixels (07 R168 to R171). -/
namespace Sys2Proof.Machine

/-! ## The bits of a stream of samples (07 R169) -/

/-- Where bit j of a stream with the highest bit of each byte first stands in the register. -/
def streamPos (j : Nat) : Nat := 8 * (j / 8) + 7 - j % 8

theorem streamPos_inj {i j : Nat} (h : streamPos i = streamPos j) : i = j := by
  unfold streamPos at h
  omega

theorem streamPos_lt {j k : Nat} (bytes : k % 8 = 0) (h : j < k) : streamPos j < k := by
  unfold streamPos
  omega

theorem msbBits_succ (x at_ n : Nat) :
    msbBits x at_ (n + 1) = 2 * msbBits x at_ n + (x.testBit (streamPos (at_ + n))).toNat := by
  unfold msbBits
  rw [List.range_succ, List.foldl_append, Nat.toNat_testBit]
  rfl

theorem testBit_msbBits (x at_ : Nat) : ∀ n i,
    (msbBits x at_ n).testBit i = (decide (i < n) && x.testBit (streamPos (at_ + (n - 1 - i)))) := by
  intro n
  induction n with
  | zero => intro i; simp [msbBits]
  | succ n ih =>
    intro i
    rw [msbBits_succ]
    cases i with
    | zero =>
      rw [Nat.testBit_zero, Nat.mul_add_mod]
      cases top : x.testBit (streamPos (at_ + n)) <;> simp [top]
    | succ i =>
      have half : (2 * msbBits x at_ n + (x.testBit (streamPos (at_ + n))).toNat) / 2 = msbBits x at_ n := by
        have := Bool.toNat_lt (x.testBit (streamPos (at_ + n)))
        omega
      rw [Nat.testBit_succ, half, ih, show n + 1 - 1 - (i + 1) = n - 1 - i by omega]
      simp only [Nat.succ_lt_succ_iff]

/-! ## Fields written (07 R169, R171) -/

theorem writePieces_append (old : Nat) (ps qs : List (Nat × Nat × Nat)) :
    writePieces old (ps ++ qs) = writePieces (writePieces old ps) qs := List.foldl_append

/-- A bit of the stream after bits from `at_` on are written in turn. -/
theorem testBit_writeStream (old at_ : Nat) (v : Nat → Nat) (n j : Nat) :
    (writePieces old ((List.range n).map fun i => (streamPos (at_ + i), 1, v i))).testBit (streamPos j)
      = if at_ ≤ j ∧ j < at_ + n then (v (j - at_)).testBit 0 else old.testBit (streamPos j) := by
  induction n with
  | zero => rw [if_neg (by omega)]; rfl
  | succ n ih =>
    rw [List.range_succ, List.map_append, writePieces_append]
    show (setField _ (streamPos (at_ + n)) 1 (v n)).testBit _ = _
    rw [testBit_setField]
    by_cases last : j = at_ + n
    · subst last
      rw [if_pos (by omega), if_pos (by omega), Nat.sub_self, Nat.add_sub_cancel_left]
    · have apart : streamPos j ≠ streamPos (at_ + n) := mt streamPos_inj last
      rw [if_neg (by omega), ih]
      congr 1
      exact propext (by omega)

/-- A bit of a field of a stream. -/
theorem testBit_streamField (b x e i : Nat) :
    (pixelField true b x e).testBit i = (decide (i < b) && x.testBit (streamPos (b * e + (b - 1 - i)))) :=
  testBit_msbBits ..

/-- A bit of a stream after a field of it is written. -/
theorem testBit_writeStreamField (b x e v j : Nat) :
    (writePieces x (pixelPieces true b e v)).testBit (streamPos j)
      = if b * e ≤ j ∧ j < b * e + b then v.testBit (b - 1 - (j - b * e)) else x.testBit (streamPos j) := by
  have written := testBit_writeStream x (b * e) (fun i => v / 2 ^ (b - 1 - i) % 2) b j
  rwa [Nat.testBit_zero, Nat.mod_mod, ← Nat.testBit_eq_decide_div_mod_eq] at written

theorem pixelField_write_same (order : Bool) (b x e v : Nat) :
    pixelField order b (writePieces x (pixelPieces order b e v)) e = v % 2 ^ b := by
  cases order with
  | false => exact field_setField_same ..
  | true =>
    apply Nat.eq_of_testBit_eq
    intro i
    rw [testBit_streamField, testBit_writeStreamField, Nat.testBit_mod_two_pow]
    by_cases hi : i < b
    · rw [if_pos (by omega), Nat.add_sub_cancel_left, show b - 1 - (b - 1 - i) = i by omega]
    · simp [hi]

theorem fields_apart (b : Nat) {e e' : Nat} (h : e ≠ e') : b * e + b ≤ b * e' ∨ b * e' + b ≤ b * e := by
  rcases Nat.lt_or_gt_of_ne h with lt | lt
  · exact .inl (Nat.mul_le_mul_left b lt)
  · exact .inr (Nat.mul_le_mul_left b lt)

theorem pixelField_write_apart (order : Bool) (b x v : Nat) {e e' : Nat} (h : e' ≠ e) :
    pixelField order b (writePieces x (pixelPieces order b e v)) e' = pixelField order b x e' := by
  have apart := fields_apart b h
  cases order with
  | false => exact field_setField_apart _ _ _ _ _ _ apart
  | true =>
    apply Nat.eq_of_testBit_eq
    intro i
    rw [testBit_streamField, testBit_streamField, testBit_writeStreamField]
    by_cases hi : i < b
    · rw [if_neg (by omega)]
    · simp [hi]

/-- R171: the fields of the elements that are written, each with a value of its own; the others stand. -/
theorem pixelField_writePieces (order : Bool) (b : Nat) (g : Nat → Nat) (es : List Nat) : ∀ (old e : Nat),
    pixelField order b (writePieces old (es.flatMap fun e => pixelPieces order b e (g e))) e
      = if e ∈ es then g e % 2 ^ b else pixelField order b old e := by
  induction es with
  | nil => intro old e; rfl
  | cons h t ih =>
    intro old e
    rw [List.flatMap_cons, writePieces_append, ih]
    by_cases he : e ∈ t
    · simp [he]
    · by_cases hh : e = h
      · subst hh
        simp [he, pixelField_write_same]
      · simp [he, hh, pixelField_write_apart]

/-- A field that lies within the low bytes of a number is the same once the bits above them are dropped. -/
theorem pixelField_mod (order : Bool) (b x e : Nat) {k : Nat} (bytes : k % 8 = 0) (h : b * (e + 1) ≤ k) :
    pixelField order b (x % 2 ^ k) e = pixelField order b x e := by
  rw [Nat.mul_succ] at h
  cases order with
  | false => exact field_mod _ _ _ _ h
  | true =>
    apply Nat.eq_of_testBit_eq
    intro i
    rw [testBit_streamField, testBit_streamField, Nat.testBit_mod_two_pow]
    by_cases hi : i < b
    · have low : streamPos (b * e + (b - 1 - i)) < k := streamPos_lt bytes (by omega)
      rw [decide_eq_true low, Bool.true_and]
    · simp [hi]

/-- R169: a field as the statement reads it. -/
theorem pixelField_eq (order : Bool) (b x e : Nat) :
    pixelField order b x e = if order then
      (List.range b).foldl (fun n i => 2 * n + (x.testBit (8 * ((b * e + i) / 8) + 7 - (b * e + i) % 8)).toNat) 0
      else field x (b * e) b := by
  simp only [Nat.toNat_testBit]
  rfl

/-! ## The two instructions (07 R168 to R171) -/

theorem vpxu_writes (f : VvF) (s : State) (b : Nat) (hb : b = f.imm.toNat % 16)
    (ready : s.VecReady [f.d.toNat, f.a.toNat] [16])
    (clean : ∀ e, s.hart.vec.acts f.msk f.mn e = true → poisonHit (s.hart.vec.poison f.a.toNat) (b * e) b = false) :
    VecWrites (.vpxu f) s f.d 16 (s.hart.vec.acts f.msk f.mn) fun e =>
      let x := pixelField (bitOf f.imm.toNat 4) b (s.hart.vec.bits f.a.toNat) e
      if f.ty = 1 then cut 16 (sint b x) else x := by
  subst hb
  refine vecWrites_of (es := s.hart.vec.active f.msk f.mn) rfl ?_ (mem_active_of_fits (by decide) _ _ _)
  refine (M.bind_ok (vecIssue_run ready (by simp [Legal.usesF64]))).trans ?_
  refine (M.bind_ok (M.get_run _)).trans ?_
  have unpoisoned : ((s.hart.vec.active f.msk f.mn).any fun e =>
      poisonHit (s.hart.vec.poison f.a.toNat) (f.imm.toNat % 16 * e) (f.imm.toNat % 16)) = false := by
    rw [List.any_eq_false]
    intro e active
    simp [clean e (acts_of_mem _ _ _ e active).1]
  refine (M.guarded_run fun poisoned => ?_).trans (vecDone_run _ _)
  exact absurd (unpoisoned.symm.trans poisoned) (by decide)

/-- A vector instruction whose computation is an issue and a write of pieces into a register. -/
theorem vecStep_of_write {i : Instr} {s : State} {w : Word} {m : M Unit} {d : BitVec 5} {ps : List (Nat × Nat × Nat)}
    (hi : exec i s = s.run w m)
    (hm : m s = (.ok ⟨⟩, (s.nextLane.setVec { s.hart.vec.write d ps with vstart := 0 }).advance)) :
    ∃ t, exec i s = .next t ∧ VecStep s t [d.toNat] []
      ∧ t.hart.vec.bits d.toNat = writePieces (s.hart.vec.bits d.toNat) ps % 2 ^ 65536 := by
  refine ⟨_, hi.trans (State.run_ok hm), vecStep_done s (fun v => v.write d ps) _ _ (Vec.sameBut_write _ _ _), ?_⟩
  exact (Vec.bits_write ..).trans (if_pos rfl)

/-- R171: the field that `vpxp` makes of an element. -/
def packedSample (f : VvF) (b a : Nat) : Nat :=
  let y := readInt f.ty 16 a
  cut b (if f.sat = 1 then clampInt (intBounds b (f.ty == 1)).1 (intBounds b (f.ty == 1)).2 y else y)

theorem packedSample_mod (f : VvF) (b a : Nat) :
    packedSample f b a % 2 ^ b =
      let y : Int := if f.ty = 1 then (BitVec.ofNat 16 a).toInt else a
      let z := if f.sat = 1 then
          (if f.ty = 1 then max (-(2 ^ (b - 1))) (min y (2 ^ (b - 1) - 1)) else max 0 (min y (2 ^ b - 1)))
        else y
      (BitVec.ofInt b z).toNat := by
  unfold packedSample
  simp only [cut_eq_ofInt, clampInt_intBounds, readInt_eq (w := 16) (by decide)]
  exact Nat.mod_eq_of_lt (BitVec.isLt _)

theorem vpxp_writes (f : VvF) (s : State) (b : Nat) (hb : b = f.imm.toNat % 16)
    (ready : s.VecReady [f.d.toNat, f.a.toNat] [16]) (clean : s.hart.vec.Clean f.a.toNat 16 (s.hart.vec.acts f.msk f.mn)) :
    ∃ t, exec (.vpxp f) s = .next t ∧ VecStep s t [f.d.toNat] []
      ∧ t.hart.vec.bits f.d.toNat = writePieces (s.hart.vec.bits f.d.toNat) ((s.hart.vec.active f.msk f.mn).flatMap fun e =>
          pixelPieces (bitOf f.imm.toNat 4) b e (packedSample f b (s.hart.vec.elem f.a.toNat e 16))) % 2 ^ 65536 := by
  subst hb
  refine vecStep_of_write rfl ?_
  refine (M.bind_ok (vecIssue_run ready (by simp [Legal.usesF64]))).trans ?_
  refine (M.bind_ok (M.get_run _)).trans ?_
  exact (M.bind_ok (consume_issued clean)).trans (vecDone_run _ _)

/-- Settles O19: a field is read and written bit by bit in either order, and `vpxp` writes its fields apart from each other. -/
theorem packedPixels : Obligations.PackedPixels := by
  unfold Obligations.PackedPixels
  intro f s v b order act fieldOf hb ready
  have wide : 4 ≤ b := by
    simp only [List.mem_cons, List.not_mem_nil, or_false] at hb
    omega
  have field_eq : ∀ x e, fieldOf x e = pixelField order b x e := fun x e => (pixelField_eq order b x e).symm
  refine ⟨fun clean => ?_, fun clean => ?_⟩
  · refine (vpxu_writes f s b rfl ready clean).congr fun e => ?_
    simp only [field_eq, cut_eq_ofInt, sint_eq_toInt (Nat.lt_of_lt_of_le (by decide) wide)]
    rfl
  · obtain ⟨t, run, step, bits⟩ := vpxp_writes f s b rfl ready clean
    refine ⟨t, run, step, fun e he => ?_⟩
    rw [bits, field_eq, field_eq, pixelField_mod _ _ _ _ (by decide) he, pixelField_writePieces, packedSample_mod]
    simp only [mem_active_of_fits wide _ _ _ _ he]
    rfl

end Sys2Proof.Machine
end

section
/-! O20, O21: vector floating instructions (07 R172 to R180). -/
namespace Sys2Proof.Machine

/-! ## The part, the mode and the value (01 R25, 05 R111, 07 R172 to R174) -/

/-- R25: a word that names a binary64 type of its EW and TY is refused on a part that has none. -/
theorem hasF64_of_word {op : BitVec 8} {fn : BitVec 6} {f : VvF} {s : State} (h : f.ew = 3 → f.ty = 2 → s.hasF64 = true) :
    ((vvOf (encVv op fn f)).ty.toNat == 2 && (vvOf (encVv op fn f)).ew.toNat == 3) = true → s.hasF64 = true := by
  rw [vvOf_encVv, Bool.and_eq_true, beq_iff_eq, beq_iff_eq]
  exact fun ⟨ty, ew⟩ => h (BitVec.eq_of_toNat_eq ew) (BitVec.eq_of_toNat_eq ty)

theorem hasF64_of_op {o : Op} {op : BitVec 8} {fn : BitVec 6} {f : VvF} {s : State}
    (uses : ∀ w, Legal.usesF64 o w = ((vvOf w).ty.toNat == 2 && (vvOf w).ew.toNat == 3))
    (h : f.ew = 3 → f.ty = 2 → s.hasF64 = true) : Legal.usesF64 o (encVv op fn f) = true → s.hasF64 = true :=
  uses _ ▸ hasF64_of_word h

/-- R25, R87: of a word with two types, either is looked at. -/
theorem hasF64_of_words {op : BitVec 8} {fn : BitVec 6} {f : VvF} {s : State} (h : f.ew = 3 → f.ty = 2 → s.hasF64 = true)
    (hs : Legal.srcEw f = 3 → Legal.srcTy f = 2 → s.hasF64 = true) :
    (((vvOf (encVv op fn f)).ty.toNat == 2 && (vvOf (encVv op fn f)).ew.toNat == 3) ||
      ((Legal.srcTy (vvOf (encVv op fn f))).toNat == 2 && (Legal.srcEw (vvOf (encVv op fn f))).toNat == 3)) = true →
      s.hasF64 = true := by
  rw [Bool.or_eq_true]
  rintro (own | source)
  · exact hasF64_of_word h own
  · rw [vvOf_encVv, Bool.and_eq_true, beq_iff_eq, beq_iff_eq] at source
    exact hs (BitVec.eq_of_toNat_eq source.2) (BitVec.eq_of_toNat_eq source.1)

/-- R111: a mode that the word and RMODE give is the one that the instruction rounds under. -/
theorem rmMode_run {s : State} {rm : BitVec 3} {m : Mode} (h : s.modeNow rm = some m) (w : Word) :
    rmMode w rm s = (.ok m, s) := by
  unfold State.modeNow at h
  unfold rmMode
  rw [M.bind_ok (M.get_run s)]
  simp only [h, M.pure_run]

/-- `vfmin` and `vfmax` round nothing. -/
theorem fltFn_unrounded {fn : Nat} (h : fltRounds fn = false) (fm : Fmt) (r r' : Rnd) (a b c : Nat) :
    fltFn fm fn r a b c = fltFn fm fn r' a b c := by
  have extremum : fn = 4 ∨ fn = 5 := by
    simp only [fltRounds, Bool.and_eq_false_iff, bne_eq_false_iff_eq] at h
    exact h
  rcases extremum with rfl | rfl <;> simp [fltFn]

/-- After the issue, a function that rounds is given the mode of its word, and one that does not gives the same under it. -/
theorem fltMode_judged {fn : Nat} {rm : BitVec 3} {s : State} {m : Mode} (w : Word)
    (mode : fltRounds fn = true → s.modeNow rm = some m) :
    ∃ m', (if fltRounds fn then rmMode w rm else pure .rne) s.nextLane = (.ok m', s.nextLane)
      ∧ ∀ fm e a b c, fltFn fm fn (s.hart.rndAt m' e) a b c = fltFn fm fn (s.hart.rndAt m e) a b c := by
  cases rounds : fltRounds fn with
  | true => exact ⟨m, rmMode_run (s := s.nextLane) (mode rounds) w, fun _ _ _ _ _ => rfl⟩
  | false => exact ⟨.rne, rfl, fun _ _ _ _ _ => fltFn_unrounded rounds ..⟩

/-! ## Binary functions in their two encodings (07 R172 to R174, Table 7.4) -/

/-- R173: the body of a floating function, on clean sources. -/
theorem fltBody_writes {i : Instr} {o : Op} {w : Word} {f : VvF} {fn : Nat} {vb : Option (BitVec 5)} {b : Vec → Nat → Nat}
    {s : State} {m : Mode} (hi : exec i s = s.run w (fltBody o w f fn vb b))
    (hf : Legal.usesF64 o w = true → s.hasF64 = true) (mode : fltRounds fn = true → s.modeNow f.rm = some m)
    (ready : s.VecReady ([f.d.toNat, f.a.toNat] ++ (vb.map (·.toNat)).toList ++ (if fn = 3 then [f.c.toNat] else []))
      [widthOf f.ew])
    (cleanA : s.CleanFor f f.a) (cleanB : ∀ r ∈ vb, s.CleanFor f r) (cleanC : fn = 3 → s.CleanFor f f.c) :
    VecWrites i s f.d (widthOf f.ew) (s.hart.vec.acts f.msk f.mn) fun e =>
      fltFn (fmtOf f.ew f.ty) fn (s.hart.rndAt m e) (s.operand f f.a e) (b s.hart.vec e)
        (if fn = 3 then s.operand f f.c e else 0) := by
  obtain ⟨m', judged, alike⟩ := fltMode_judged w mode
  simp only [← alike]
  refine vecWrites_of (es := s.hart.vec.active f.msk f.mn) hi ?_ (mem_active_of_fits (widthOf_ge_four _) _ _ _)
  unfold fltBody
  refine (M.bind_ok (vecIssue_run ready hf)).trans ?_
  refine (M.branch_ok judged).trans ?_
  refine (M.bind_ok (M.get_run _)).trans ?_
  refine (M.bind_ok (consume_issued cleanA)).trans ?_
  cases vb with
  | none => exact (M.guarded_run fun c => consume_issued (cleanC c)).trans (vecDone_run _ _)
  | some r =>
    refine (M.bind_ok (consume_issued (cleanB r rfl))).trans ?_
    exact (M.guarded_run fun c => consume_issued (cleanC c)).trans (vecDone_run _ _)

/-- The two encodings of a function of Table 7.4, by its number. -/
theorem floatForms_of {vv vs : VvF → Instr} {g : Fmt → Rnd → Nat → Nat → Nat → Nat} (fn : Nat) (ov os : Op)
    (value : ∀ fm r a b c, fltFn fm fn r a b c = g fm r a b c)
    (run : ∀ f s, exec (vv f) s = fltVv ov fn f s ∧ exec (vs f) s = fltVs os fn f s := by exact fun _ _ => ⟨rfl, rfl⟩)
    (uses : ∀ w, Legal.usesF64 ov w = ((vvOf w).ty.toNat == 2 && (vvOf w).ew.toNat == 3)
      ∧ Legal.usesF64 os w = ((vvOf w).ty.toNat == 2 && (vvOf w).ew.toNat == 3) := by exact fun _ => ⟨rfl, rfl⟩) :
    FloatForms vv vs (fn == 3) (fltRounds fn) g := by
  unfold FloatForms
  simp only [beq_iff_eq, ← value]
  intro f s m part mode cleanA cleanC
  obtain ⟨runV, runS⟩ := run f s
  refine ⟨fun ready cleanB => ?_, fun ready => ?_⟩
  · have ready := ready.mono (sources_subset ..) (List.Subset.refl _)
    have written :=
      fltBody_writes runV (hasF64_of_op (fun w => (uses w).1) part) mode ready cleanA (by simpa using cleanB) cleanC
    exact written
  · have written := fltBody_writes runS (hasF64_of_op (fun w => (uses w).2) part) mode ready cleanA (by simp) cleanC
    exact written

/-- R174: `vfmin` and `vfmax` as the operand that they pick. -/
theorem Fmt.pick_eq (fm : Fmt) (max : Bool) (a b : Nat) :
    fm.pick max a b = if fm.val a = .nan ∧ fm.val b = .nan then fm.nan else if fm.val a = .nan then b
      else if fm.val b = .nan then a
      else if (if max then (fm.val a).below (fm.val b) else (fm.val b).below (fm.val a)) then b else a := by
  unfold Fmt.pick
  split
  · next ha hb => rw [if_pos ⟨ha, hb⟩]
  · next ha hb => rw [if_neg fun h => hb h.2, if_pos ha]
  · next hb ha => rw [if_neg fun h => ha h.1, if_neg ha, if_pos hb]
  · next ha hb _ =>
    rw [if_neg fun h : _ ∧ _ => ha h.1, if_neg ha, if_neg hb]
    cases max <;> rfl

/-- Settles O20: Table 7.4 function by function, each by its number in the table. -/
theorem vectorFloatBinary : Obligations.VectorFloatBinary := by
  unfold Obligations.VectorFloatBinary
  refine ⟨?_, ?_, ?_, ?_, ?_, ?_, ?_⟩
  · exact floatForms_of 0 .vfaddVv .vfaddVs fun _ _ _ _ _ => rfl
  · exact floatForms_of 1 .vfsubVv .vfsubVs fun _ _ _ _ _ => rfl
  · exact floatForms_of 2 .vfmulVv .vfmulVs fun _ _ _ _ _ => rfl
  · exact floatForms_of 3 .vfmaVv .vfmaVs fun _ _ _ _ _ => rfl
  · exact floatForms_of 4 .vfminVv .vfminVs fun fm _ a b _ => Fmt.pick_eq fm false a b
  · exact floatForms_of 5 .vfmaxVv .vfmaxVs fun fm _ a b _ => Fmt.pick_eq fm true a b
  · exact floatForms_of 6 .vfdivVv .vfdivVs fun _ _ _ _ _ => rfl

/-! ## Unary functions, conversions, classes and comparisons (07 R175 to R180) -/

/-- R25, R111: a part that has the format of a word and a mode that it rounds under change nothing. -/
theorem judged_run {β : Type} {o : Op} {w : Word} {rm : BitVec 3} {s : State} {m : Mode} {k : Mode → M β}
    (hf : Legal.usesF64 o w = true → s.hasF64 = true) (mode : s.modeNow rm = some m) :
    (if Legal.usesF64 o w && !s.hasF64 then raise causeAbsent w >>= fun _ : PUnit => rmMode w rm >>= k else rmMode w rm >>= k) s
      = k m s := by
  have present : ¬ (Legal.usesF64 o w && !s.hasF64) = true := fun h => by simp [hf (Bool.and_eq_true_iff.1 h).1] at h
  rw [if_neg present]
  exact M.bind_ok (rmMode_run mode w)

theorem roundedMap_run {o : Op} {w : Word} {f : VvF} {g : Rnd → Nat → Nat} {s : State} {m : Mode}
    (hf : Legal.usesF64 o w = true → s.hasF64 = true) (mode : s.modeNow f.rm = some m) :
    roundedMap o w f g s = mapBody o w f (fun e x => g (s.hart.rndAt m e) x) s :=
  (M.bind_ok (M.get_run s)).trans (judged_run hf mode)

theorem roundedConvert_run {o : Op} {w : Word} {f : VvF} {g : Rnd → Nat → Nat} {s : State} {m : Mode}
    (hf : Legal.usesF64 o w = true → s.hasF64 = true) (mode : s.modeNow f.rm = some m) :
    roundedConvert o w f g s
      = convertBody o w f (widthOf (Legal.srcEw f)) (widthOf f.ew) (fun e x => g (s.hart.rndAt m e) x) s :=
  (M.bind_ok (M.get_run s)).trans (judged_run hf mode)

/-- R179: a NaN converts to the canonical NaN. -/
theorem convertFloat_eq (dst src : Fmt) (r : Rnd) (sat : Bool) (a : Nat) :
    convertFloat dst src r sat a = if src.val a = .nan then dst.nan else dst.round r (sat && dst.width == 8) (src.val a) := by
  unfold convertFloat
  split
  · next nan => rw [if_pos nan]
  · next nan => rw [if_neg nan]

theorem isInt_iff (ty : BitVec 3) : Legal.isInt ty = true ↔ ty ∈ [(0 : BitVec 3), 1] := by
  revert ty
  decide

theorem exec_vfcmp (f : VvF) (s : State) : exec (.vfcmp f) s = s.run (encVv 0x26 0 f) (compareBody .vfcmp (encVv 0x26 0 f) f
    fun a b => Val.cond (f.imm.toNat % 16) ((fmtOf f.ew f.ty).val a) ((fmtOf f.ew f.ty).val b)) := rfl

/-- R175 to R177, R179, R180: an instruction of one float source under a mode, in its width. -/
theorem unary_of_roundedMap {i : Instr} {o : Op} {w : Word} {f : VvF} {g : Rnd → Nat → Nat} {s : State} {m : Mode}
    (hi : exec i s = s.run w (roundedMap o w f g)) (hf : Legal.usesF64 o w = true → s.hasF64 = true)
    (mode : s.modeNow f.rm = some m) :
    Unary i f s (widthOf f.ew) (widthOf f.ew) fun e x => g (s.hart.rndAt m e) x :=
  unary_of_mapBody (hi.trans (State.run_congr (roundedMap_run hf mode))) hf

theorem unary_of_roundedConvert {i : Instr} {o : Op} {w : Word} {f : VvF} {g : Rnd → Nat → Nat} {s : State} {m : Mode}
    (hi : exec i s = s.run w (roundedConvert o w f g)) (hf : Legal.usesF64 o w = true → s.hasF64 = true)
    (mode : s.modeNow f.rm = some m) :
    Unary i f s (widthOf (Legal.srcEw f)) (widthOf f.ew) fun e x => g (s.hart.rndAt m e) x :=
  unary_of_convertBody (hi.trans (State.run_congr (roundedConvert_run hf mode))) hf (widthOf_ge_four _)

/-- R175: a unary function by its number in OP 0x25. -/
theorem unary_of_fltUnary {i : VvF → Instr} (o : Op) (fn : Nat) {f : VvF} {s : State} {m : Mode}
    (part : f.ew = 3 → f.ty = 2 → s.hasF64 = true) (mode : s.modeNow f.rm = some m)
    (hi : exec (i f) s = fltUnary o fn f s := by rfl)
    (uses : ∀ w, Legal.usesF64 o w = ((vvOf w).ty.toNat == 2 && (vvOf w).ew.toNat == 3) := by exact fun _ => rfl) :
    Unary (i f) f s (widthOf f.ew) (widthOf f.ew) fun e x => (fmtOf f.ew f.ty).unary (s.hart.rndAt m e) fn x :=
  unary_of_roundedMap hi (hasF64_of_op uses part) mode

/-- Settles O21: the unary functions by their numbers, the conversions by their types, and the conditions of `vfcmp` by their
codes, with an operand that is NaN and without. -/
theorem vectorFloatUnary : Obligations.VectorFloatUnary := by
  unfold Obligations.VectorFloatUnary
  refine ⟨fun f s m => ?_, fun f s => ?_⟩
  · intro w ws fm src part
    refine ⟨unary_of_mapBody (o := .vfclass) rfl (hasF64_of_word part), fun mode => ?_⟩
    refine ⟨?_, ?_, ?_, ?_, ?_, ?_, fun source => ?_⟩
    · exact unary_of_fltUnary .vfsqrt 0 part mode
    · exact unary_of_fltUnary .vfrcp 1 part mode
    · exact unary_of_fltUnary .vfrsq 2 part mode
    · exact unary_of_fltUnary .vfexp2 3 part mode
    · exact unary_of_fltUnary .vflog2 4 part mode
    · exact unary_of_roundedMap (o := .vfround) rfl (hasF64_of_word part) mode
    · refine ⟨?_, fun int => ?_, fun int => ?_⟩
      · have converted := unary_of_roundedConvert (i := .vfcvt f) (o := .vfcvt) rfl (hasF64_of_words part source) mode
        exact converted.congr fun e a _ => convertFloat_eq ..
      · have converted := unary_of_roundedConvert (i := .vficvt f) (o := .vficvt) rfl (hasF64_of_words part source) mode
        refine converted.congr fun e a _ => (if_pos ((isInt_iff _).2 int)).trans ?_
        exact cut_eq_ofInt ..
      · have converted := unary_of_roundedConvert (i := .vficvt f) (o := .vficvt) rfl (hasF64_of_words part source) mode
        refine converted.congr fun e a _ => (if_neg (mt (isInt_iff _).1 int)).trans ?_
        rw [readInt_eq (widthOf_pos _)]
  · intro v w fm act a b nan lt gt part ready cleanA cleanB p hp code
    have compare := maskWrites_of_compareBody (exec_vfcmp f s) (hasF64_of_word part) ready cleanA cleanB
    rw [code] at compare
    simp only [List.mem_cons, List.not_mem_nil, or_false] at hp
    rcases hp with rfl | rfl | rfl | rfl | rfl | rfl | rfl | rfl
    all_goals
      refine compare.congr fun e => ?_
      show Val.cond _ (a e) (b e) = _
      cases unordered : nan e
      all_goals
        simp only [nan] at unordered
        simp [Val.cond, unordered, nan, lt, gt]

end Sys2Proof.Machine
end

section
/-! O52: the copy of a page, and how a migration starts and ends (13 R279). -/
namespace Sys2Proof.Machine

/-! ## Cells written at other places -/

/-- Entries taken out of a table in canonical form leave one. -/
theorem Table.wf_filter {α : Type} [DecidableEq α] (d : α) (p : Nat × α → Bool) (t : Table α) (h : Table.wf d t = true) :
    Table.wf d (t.filter p) = true := by
  induction t with
  | nil => rfl
  | cons c t ih =>
    obtain ⟨hv, above, ht⟩ := (Table.wf_cons d c.1 c.2 t).1 h
    rw [List.filter_cons]
    split
    · exact (Table.wf_cons d c.1 c.2 _).2 ⟨hv, fun q hq => above q (List.mem_filter.1 hq).1, ih ht⟩
    · exact ih ht

/-- A byte that no cell holds. -/
theorem Memory.read_of_forall_ne {m : List Host.Cell} {a : Nat} (h : ∀ c ∈ m, c.1 ≠ a) : Memory.read m a = emptyByte := by
  induction m with
  | nil => rfl
  | cons c t ih =>
    obtain ⟨hc, ht⟩ := List.forall_mem_cons.1 h
    exact (if_neg hc).trans (ih ht)

/-- A byte of memory whose cells at such places were all taken out. -/
theorem Memory.read_filter_out (p : Host.Cell → Bool) (a : Nat) (h : ∀ b, p (a, b) = false) (m : List Host.Cell) :
    Memory.read (m.filter p) a = emptyByte := by
  refine Memory.read_of_forall_ne fun c hc e => ?_
  obtain ⟨j, b⟩ := c
  subst e
  exact Bool.false_ne_true ((h b).symm.trans (List.mem_filter.1 hc).2)

/-- Memory with some cells written, each at the place that its address is given. -/
def Memory.paste (place : Nat → Nat) (cells m : List Host.Cell) : List Host.Cell :=
  cells.foldl (fun m c => Memory.write m (place c.1) c.2) m

/-- A byte at which nothing is pasted stands. -/
theorem Memory.read_paste_outside (place : Nat → Nat) (a : Nat) (cells : List Host.Cell) :
    ∀ m, (∀ c ∈ cells, place c.1 ≠ a) → Memory.read (Memory.paste place cells m) a = Memory.read m a := by
  induction cells with
  | nil => intro m _; rfl
  | cons c t ih =>
    intro m h
    obtain ⟨hc, ht⟩ := List.forall_mem_cons.1 h
    exact (ih _ ht).trans (Memory.read_write_other m _ a _ (Ne.symm hc))

/-- Over empty memory, a pasted byte is the one that its cell holds, where no other cell goes to its place. -/
theorem Memory.read_paste (place : Nat → Nat) (k : Nat) (cells : List Host.Cell) :
    ∀ m, Memory.wf cells = true → (∀ c ∈ cells, place c.1 = place k → c.1 = k) → Memory.read m (place k) = emptyByte →
      Memory.read (Memory.paste place cells m) (place k) = Memory.read cells k := by
  induction cells with
  | nil => exact fun m _ _ empty => empty
  | cons c t ih =>
    intro m wf apart empty
    obtain ⟨full, above, wf'⟩ := (Table.wf_cons emptyByte c.1 c.2 t).1 wf
    obtain ⟨apartC, apartT⟩ := List.forall_mem_cons.1 apart
    show Memory.read (Memory.paste place t (Memory.write m (place c.1) c.2)) _ = if c.1 = k then c.2 else Memory.read t k
    split
    · next e =>
      subst e
      rw [Memory.read_paste_outside place _ t _ fun x hx ex => absurd (apartT x hx ex) (Nat.ne_of_gt (above x hx))]
      exact Table.get_put_of_ne _ _ _ _ full
    · next ne =>
      refine ih _ wf' apartT ?_
      rw [Memory.read_write_other _ _ _ _ fun e => ne (apartC e.symm), empty]

/-! ## A page copied -/

variable {m : List Host.Cell} {old new n : Nat}

/-- Bytes outside the copy stand. -/
theorem Memory.read_copyRange_outside {a : Nat} (h : a < new ∨ new + n ≤ a) :
    Memory.read (Memory.copyRange m old new n) a = Memory.read m a := by
  refine (Memory.read_paste_outside (fun j => new + (j - old)) a _ _ fun c hc => ?_).trans ?_
  · have := (List.mem_filter.1 hc).2
    simp only [decide_eq_true_eq] at this
    omega
  · refine read_filter _ a (fun b => ?_) m
    simp only [Bool.not_eq_true', decide_eq_false_iff_not]
    omega

/-- Byte i of the copy is byte i of the page. -/
theorem Memory.read_copyRange_inside (wf : Memory.wf m = true) {i : Nat} (hi : i < n) :
    Memory.read (Memory.copyRange m old new n) (new + i) = Memory.read m (old + i) := by
  have place : new + i = (fun j => new + (j - old)) (old + i) := by simp
  rw [place]
  refine (Memory.read_paste (fun j => new + (j - old)) (old + i) _ _ (Table.wf_filter _ _ m wf) ?_ ?_).trans ?_
  · intro c hc e
    have := (List.mem_filter.1 hc).2
    simp only [decide_eq_true_eq] at this
    omega
  · refine Memory.read_filter_out _ _ (fun b => ?_) m
    simp only [Bool.not_eq_false', decide_eq_true_eq]
    omega
  · refine read_filter _ _ (fun b => ?_) m
    simp only [decide_eq_true_eq]
    omega

/-- A word outside the copy stands. -/
theorem Memory.readBytes_copyRange_outside {a k : Nat} (h : a + k ≤ new ∨ new + n ≤ a) :
    Memory.readBytes (Memory.copyRange m old new n) a k = Memory.readBytes m a k := by
  rw [readBytes_eq_map, readBytes_eq_map]
  refine List.map_congr_left fun c hc => Memory.read_copyRange_outside ?_
  rw [List.mem_range'_1] at hc
  omega

/-! ## What a move changes -/

/-- Changes of line metadata in turn change line metadata alone. -/
theorem State.foldl_lineMeta {β : Type} {f : State → β → State} (hf : ∀ t x, f t x = { t with lineMeta := (f t x).lineMeta })
    (l : List β) : ∀ s, l.foldl f s = { s with lineMeta := (l.foldl f s).lineMeta } := by
  induction l with
  | nil => exact fun s => rfl
  | cons x t ih => intro s; rw [List.foldl_cons, ih, hf]

/-- A copy of the lines changes their metadata, and which lines hold an error. -/
theorem State.copyMeta_same (s : State) (old new size : Nat) :
    s.copyMeta old new size
      = { s with lineMeta := (s.copyMeta old new size).lineMeta, reliab := (s.copyMeta old new size).reliab } := by
  unfold State.copyMeta
  dsimp only
  split
  · rw [State.foldl_lineMeta fun _ _ => rfl]
  · rw [State.foldl_lineMeta (fun _ _ => rfl) (List.filter ..), State.foldl_lineMeta fun _ _ => rfl]

/-- A move of staged states changes line metadata alone. -/
theorem State.moveStates_same (s : State) (old new size : Nat) :
    s.moveStates old new size = { s with lineMeta := (s.moveStates old new size).lineMeta } := by
  unfold State.moveStates
  dsimp only
  rw [State.foldl_lineMeta fun _ _ => rfl, State.foldl_lineMeta fun _ _ => rfl]

/-! ## The start -/

/-- The migration of a page to a frame, as its start records it (13 R279). -/
def Leaf.migTo (l : Leaf) (base : Nat) : Mig :=
  { entry := l.entry, val := wset l.val 58 1 1, old := l.base, new := base, size := l.size }

/-- In a quiet state a start writes MIG, copies the page, and records the migration. -/
theorem State.startMigration_quiet {s : State} (h : s.quiet) (l : Leaf) (base : Nat) :
    (s.startMigration l base).mem = Memory.copyRange (s.writeWord l.entry (wset l.val 58 1 1)).mem l.base base l.size
      ∧ (s.startMigration l base).hart = s.hart ∧ (s.startMigration l base).migs = s.migs ++ [l.migTo base] := by
  have empty : s.adds = [] := h.1
  have written : (s.writeWord l.entry (wset l.val 58 1 1)).quiet := State.quiet_mem h rfl
  unfold State.startMigration
  simp only [empty, List.filter_nil, List.foldl_nil, State.reachBytes_quiet written]
  rw [State.copyMeta_same]
  exact ⟨rfl, rfl, rfl⟩

theorem State.pick_mem (s : State) {l : List Nat} (h : l ≠ []) : s.pick l ∈ l := by
  have : s.freeWord.toNat % l.length < l.length := Nat.mod_lt _ (List.length_pos_iff.2 h)
  rw [State.pick, List.getD_eq_getElem?_getD, List.getElem?_eq_getElem this, Option.getD_some]
  exact List.getElem_mem this

section
variable {s : State} {ctx va : Nat} {l : Leaf} (walk : s.walk ctx va = some l)
  (valid : (s.ctxOf ctx).valid = true) (float : leafFloat l.val = true) (unlocked : leafLock l.val = false)
  (still : leafMig l.val = false) (frames : s.atticBases (s.ctxOf ctx).tenant l.size ≠ [])
include walk valid float unlocked still frames

/-- A FLOAT page that nothing holds starts to move to a frame of the pool. -/
theorem exec_migrationStart (quiet : s.quiet) :
    exec (.migrationStart ctx va) s
      = .next (s.nextTick.startMigration l (s.pick (s.atticBases (s.ctxOf ctx).tenant l.size))) := by
  obtain ⟨_, _, _, _, _, _, noFlight⟩ := quiet
  show execMigrationStart ctx va s = _
  unfold execMigrationStart
  simp [walk, valid, float, unlocked, still, frames, State.flightIn, noFlight]

/-- R279 steps 1 to 3: the page stands in a frame of the pool, and its leaf holds MIG. -/
theorem migrationStart_copies (calm : s.calm)
    (apart : ∀ b ∈ s.atticBases (s.ctxOf ctx).tenant l.size,
      (l.base + l.size ≤ b ∨ b + l.size ≤ l.base) ∧ (l.entry + 8 ≤ b ∨ b + l.size ≤ l.entry)) :
    ∃ b t, b ∈ s.atticBases (s.ctxOf ctx).tenant l.size ∧ exec (.migrationStart ctx va) s = .next t ∧ t.hart = s.hart
      ∧ t.migs = s.migs ++ [l.migTo b] ∧ t.readWord l.entry = wset l.val 58 1 1
      ∧ (∀ i, i < l.size → Memory.read t.mem (b + i) = Memory.read t.mem (l.base + i))
      ∧ ∀ a, (a < l.entry ∨ l.entry + 8 ≤ a) → (a < b ∨ b + l.size ≤ a) →
          Memory.read t.mem a = Memory.read s.mem a := by
  obtain ⟨⟨wf, _⟩, quiet⟩ := calm
  have mem := s.pick_mem frames
  generalize hb : s.pick (s.atticBases (s.ctxOf ctx).tenant l.size) = b at mem
  obtain ⟨fromPage, fromEntry⟩ := apart b mem
  have run := exec_migrationStart walk valid float unlocked still frames quiet
  rw [hb] at run
  obtain ⟨copied, hart, migs⟩ := State.startMigration_quiet (s := s.nextTick) quiet l b
  refine ⟨b, _, mem, run, hart, migs, ?_⟩
  unfold State.readWord State.readPhys
  rw [copied]
  refine ⟨?_, fun i hi => ?_, fun a awayEntry awayCopy => ?_⟩
  · rw [Memory.readBytes_copyRange_outside fromEntry]
    exact s.readWord_writeWord l.entry _ wf
  · have marked : Memory.wf (s.nextTick.writeWord l.entry (wset l.val 58 1 1)).mem = true := State.wf_writePhys _ _ _ wf
    rw [Memory.read_copyRange_inside marked hi, Memory.read_copyRange_outside (by omega)]
  · rw [Memory.read_copyRange_outside awayCopy]
    exact Memory.read_writeBytes_outside _ _ _ _ (by simpa using awayEntry)

end

/-! ## The end -/

/-- The word that the end of a migration leaves in the leaf (13 R279 steps 4 and 5): the new frame where the entry holds what step
1 wrote, and the entry without MIG where software has written it. -/
def Mig.leafAfter (m : Mig) (now : Word) : Word :=
  wset (if now = m.val then BitVec.ofNat 64 (setField m.val.toNat 14 38 (m.new / 2 ^ 14)) else now) 58 1 0

/-- The end of a migration writes the leaf, and nothing else of memory; the migration is over. -/
theorem State.endMove_eq (s : State) (m : Mig) :
    (s.endMove m).mem = (s.writeWord m.entry (m.leafAfter (s.readWord m.entry))).mem ∧ (s.endMove m).hart = s.hart
      ∧ (s.endMove m).migs = s.migs.erase m := by
  unfold State.endMove Mig.leafAfter
  split
  · rw [State.publishMove, State.moveStates_same]
    exact ⟨rfl, rfl, rfl⟩
  · exact ⟨rfl, rfl, rfl⟩

/-- R279 steps 4 and 5: a migration of which no access is under way ends. -/
theorem migrationPublish_ends {s : State} {n : Nat} {m : Mig} (wf : Memory.wf s.mem = true) (hm : s.migs[n]? = some m)
    (idle : s.flightIn m.old m.size = false) :
    ∃ t, exec (.migrationPublish n) s = .next t ∧ t.hart = s.hart ∧ t.migs = s.migs.erase m
      ∧ (∀ a, a < m.entry ∨ m.entry + 8 ≤ a → Memory.read t.mem a = Memory.read s.mem a)
      ∧ t.readWord m.entry = m.leafAfter (s.readWord m.entry) := by
  have run : exec (.migrationPublish n) s = .next (s.endMove m) := by
    show execMigrationPublish n s = _
    simp [execMigrationPublish, hm, idle]
  obtain ⟨mem, hart, migs⟩ := s.endMove_eq m
  refine ⟨_, run, hart, migs, fun a h => ?_, ?_⟩
  · rw [mem]
    exact Memory.read_writeBytes_outside _ _ _ _ (by simpa using h)
  · have := s.readWord_writeWord m.entry (m.leafAfter (s.readWord m.entry)) wf
    unfold State.readWord State.readPhys at this ⊢
    rwa [mem]

end Sys2Proof.Machine
end

section
/-! O52: error banks, their reports and counters, link retries, the SEEN mark and the clearing of a bank (25 R482 to R489). -/
namespace Sys2Proof.Machine

/-! ## Fields of words -/

/-- A field read where it was written. -/
theorem wbits_wset_same (w : Word) {lo n : Nat} (v : Nat) (h : lo + n ≤ 64) : wbits (wset w lo n v) lo n = v % 2 ^ n := by
  rw [wbits, wset, BitVec.toNat_ofNat, field_mod _ _ _ _ h, field_setField_same]

theorem wbits_lt (w : Word) (lo n : Nat) : wbits w lo n < 2 ^ n := Nat.mod_lt _ (Nat.two_pow_pos n)

/-! ## Reports (25 R489, 26 R504, 28 R518) -/

/-- The sequencers, and what brings the next steps, are as before. -/
def State.sameSeqs (s t : State) : Prop := t.hart = s.hart ∧ t.rest = s.rest ∧ t.inputs = s.inputs

theorem State.sameSeqs.trans {s t u : State} (h : s.sameSeqs t) (g : t.sameSeqs u) : s.sameSeqs u :=
  ⟨g.1.trans h.1, g.2.1.trans h.2.1, g.2.2.trans h.2.2⟩

theorem State.sameSeqs_postEvent (s : State) (fn : Nat) (ws : List Word) : s.sameSeqs (s.postEvent fn ws) := by
  unfold State.postEvent
  dsimp only
  split <;> simp [State.sameSeqs]

theorem State.sameSeqs_withEvt (s : State) (v : Word) : s.sameSeqs (s.withEvt v) := by
  unfold State.withEvt
  dsimp only
  split <;> exact ⟨rfl, rfl, rfl⟩

/-- A report on a bank reaches no sequencer. -/
theorem State.sameSeqs_reportBank (s : State) (kind ctx die bank : Nat) (stat : Word) :
    s.sameSeqs (s.reportBank kind ctx die bank stat) :=
  (s.sameSeqs_postEvent ..).trans (State.sameSeqs_withEvt ..)

/-- An error that is logged reaches no sequencer. -/
theorem State.sameSeqs_logError (s : State) (die bank : Nat) (corrected : Bool) (r : ErrRec) :
    s.sameSeqs (s.logError die bank corrected r) := by
  unfold State.logError
  generalize (s.bankOf die bank).update corrected r (s.evseqOf die) = u
  obtain ⟨b, wrote⟩ := u
  have recorded : s.sameSeqs (if wrote then (s.setBank die bank b).bumpEvseq die else s.setBank die bank b) := by
    cases wrote <;> exact ⟨rfl, rfl, rfl⟩
  dsimp only
  generalize (if wrote then (s.setBank die bank b).bumpEvseq die else s.setBank die bank b) = t at recorded ⊢
  have reported (kind : Nat) := recorded.trans (t.sameSeqs_reportBank kind r.ctx die bank b.stat)
  split
  · exact reported 3
  · split
    · exact reported 4
    · split
      · exact reported 2
      · exact recorded

/-! ## Corrected errors (25 R484) -/

/-- A record leaves the count of corrected errors. -/
theorem Bank.store_count (b : Bank) (r : ErrRec) (evseq : Word) (uc : Bool) :
    wbits (b.store r evseq uc).stat 0 16 = wbits b.stat 0 16 := by
  have := wbits_lt b.stat 0 16
  simp only [Bank.store, wbits, field, BitVec.toNat_ofNat] at this ⊢
  omega

/-- R484: a corrected error counts, up to the largest number. -/
theorem Bank.update_corrected_count (b : Bank) (r : ErrRec) (evseq : Word) :
    wbits (b.update true r evseq).1.stat 0 16 = min (wbits b.stat 0 16 + 1) 65535 := by
  have counted : wbits (satInc b.stat 0) 0 16 = min (wbits b.stat 0 16 + 1) 65535 := by
    rw [satInc, wbits_wset_same _ _ (by decide)]
    omega
  unfold Bank.update
  cases bitOf b.stat.toNat 63 with
  | true => exact counted
  | false => exact (Bank.store_count _ _ _ _).trans counted

/-- A bank with a field of STAT that is not 0 is not an empty one. -/
theorem Bank.ne_zero_of_field {b : Bank} {lo n : Nat} (h : 0 < wbits b.stat lo n) : b ≠ Bank.zero := by
  rintro rfl
  simp [Bank.zero, wbits, field] at h

theorem State.bankOf_setBank (s : State) (die bank : Nat) {b : Bank} (h : b ≠ Bank.zero) :
    (s.setBank die bank b).bankOf die bank = b :=
  Table.get_put_of_ne _ _ _ _ h

/-- A corrected error that swaps nothing is not reported: it changes its bank and the event numbers alone. -/
theorem State.logError_corrected (s : State) (die bank : Nat) {r : ErrRec} (h : r.swap = false) :
    ∃ evseq, s.logError die bank true r = { s with reliab := { s.reliab with
      banks := (s.setBank die bank ((s.bankOf die bank).update true r (s.evseqOf die)).1).reliab.banks, evseq } } := by
  unfold State.logError
  generalize (s.bankOf die bank).update true r (s.evseqOf die) = u
  obtain ⟨b, wrote⟩ := u
  simp only [h, Bool.not_true, Bool.false_and, Bool.false_eq_true, if_false]
  cases wrote
  · exact ⟨_, rfl⟩
  · exact ⟨_, rfl⟩

/-- R484: a corrected error counts in its bank. -/
theorem State.logError_count (s : State) (die bank : Nat) {r : ErrRec} (h : r.swap = false) :
    wbits ((s.logError die bank true r).bankOf die bank).stat 0 16 = min (wbits (s.bankOf die bank).stat 0 16 + 1) 65535 := by
  obtain ⟨evseq, e⟩ := s.logError_corrected die bank h
  have counted := (s.bankOf die bank).update_corrected_count r (s.evseqOf die)
  have bank' : (s.logError die bank true r).bankOf die bank = ((s.bankOf die bank).update true r (s.evseqOf die)).1 := by
    rw [e]
    exact Table.get_put_of_ne _ _ _ _ (Bank.ne_zero_of_field (lo := 0) (n := 16) (by omega))
  rw [bank', counted]

/-! ## Link retries (25 R482) -/

/-- The retries of a flit change the error banks, and take free values. -/
theorem State.logRetries_same (die link n : Nat) : ∀ s : State,
    s.logRetries die link n = { s with reliab := (s.logRetries die link n).reliab, tick := (s.logRetries die link n).tick } := by
  induction n with
  | zero => exact fun s => rfl
  | succ n ih =>
    intro s
    obtain ⟨evseq, e⟩ := s.logError_corrected die bankMesh (r := s.meshRecord link) rfl
    unfold State.logRetries
    rw [ih, e]
    rfl

/-- Each retry of a flit counts. -/
theorem State.logRetries_count (die link n : Nat) : ∀ s : State,
    wbits ((s.logRetries die link n).bankOf die bankMesh).stat 0 16 = min (wbits (s.bankOf die bankMesh).stat 0 16 + n) 65535 := by
  induction n with
  | zero =>
    intro s
    have := wbits_lt (s.bankOf die bankMesh).stat 0 16
    exact (Nat.min_eq_left (show wbits (s.bankOf die bankMesh).stat 0 16 + 0 ≤ 65535 by omega)).symm
  | succ n ih =>
    intro s
    have one := s.logError_count die bankMesh (r := s.meshRecord link) rfl
    have rest := ih (s.logError die bankMesh true (s.meshRecord link)).nextTick
    refine rest.trans ?_
    show min (wbits ((s.logError die bankMesh true (s.meshRecord link)).bankOf die bankMesh).stat 0 16 + n) 65535 = _
    omega

/-- R482: up to 15 retries count and change nothing else; from 16 on the package stops. -/
theorem exec_meshLinkRetry (s : State) {die link attempts : Nat} (hd : die < 4) (hl : link < 32) (ha : 0 < attempts) :
    exec (.meshLinkRetry die link attempts) s
      = .next (if attempts < 16 then s.logRetries die link attempts else (s.logRetries die link 16).stopPackage) := by
  refine (if_neg (show ¬ (4 ≤ die ∨ 32 ≤ link ∨ attempts = 0) by omega)).trans ?_
  by_cases few : attempts < 16
  · simp only [if_pos few, Nat.min_eq_left (Nat.le_of_lt few)]
  · simp only [if_neg few, Nat.min_eq_right (Nat.le_of_not_lt few)]

/-! ## Software at a bank (25 R486, R487) -/

section
variable (s : State) {die bank : Nat} (hd : die < 4) (hb : bank < 8) (live : s.hart.live = true)
  (sup : s.hart.level = .supervisor)
include hd hb live sup

/-- R486: a read that shows V = 1 sets SEEN; of a record that is not V, nothing changes. -/
theorem errbankStatRead_seen :
    ∃ t, exec (.errbankStatRead die bank) s = .next t
      ∧ (bitOf (s.bankOf die bank).stat.toNat 63 = true → s.tenant = 0 ∨ wbits (s.bankOf die bank).stat 51 5 = s.tenant →
          t.bankOf die bank = { s.bankOf die bank with stat := wset (s.bankOf die bank).stat 60 1 1 })
      ∧ (bitOf (s.bankOf die bank).stat.toNat 63 = false → t = s) := by
  refine ⟨_, rfl, fun v shown => ?_, fun v => ?_⟩
  · rw [if_pos (by simpa [State.supervises, live, sup, hd, hb, v, State.bankShown] using shown)]
    refine State.bankOf_setBank _ _ _ (Bank.ne_zero_of_field (lo := 60) (n := 1) ?_)
    rw [wbits_wset_same _ _ (by decide)]
    decide
  · exact if_neg (by simp [v])

/-- R487: tenant 0 clears a bank, and no other tenant does. -/
theorem exec_errbankClear :
    exec (.errbankClear die bank) s = .next (if s.tenant = 0 then s.setBank die bank Bank.zero else s) := by
  show execErrbankClear die bank s = _
  simp [execErrbankClear, State.supervises, live, sup, hd, hb]

end

end Sys2Proof.Machine
end

section
/-! O52: write-backs and the scrubber, injections, and a poisoned group of a vector register (25 R473 to R479, R490, R491,
27 R509). -/
namespace Sys2Proof.Machine

/-! ## A line on its way to the array -/

/-- No injection is armed or under way. -/
def State.uninjected (s : State) : Prop :=
  bitOf s.reliab.errinj.toNat 63 = false ∧ s.reliab.stuck = none ∧ s.reliab.injStore = none

theorem State.uninjected.injLine {s : State} (h : s.uninjected) (ctx : Nat) : s.injLine ctx = none := by
  simp [State.injLine, State.injArmed, h.1]

/-- Without an injection a transfer meets nothing. -/
theorem State.uninjected.transfer {s : State} (h : s.uninjected) (ctx line : Nat) : s.transfer ctx line = s := by
  have ⟨_, stuck, _⟩ := h
  unfold State.transfer
  simp [h.injLine, stuck]

/-- A channel other than an unlisted one, read after it was replaced. -/
theorem State.chanOf_setChan_of_ne (s : State) (n : Nat) {c : Channel} (h : c ≠ Channel.reset) : (s.setChan n c).chanOf n = c :=
  Table.get_put_of_ne _ _ _ _ h

theorem Channel.ne_reset_of_failed {c : Channel} (h : c.failed = true) : c ≠ Channel.reset := by
  rintro rfl
  cases h

/-! ## Write-backs (25 R473, R478, 27 R509) -/

theorem exec_lineWriteback {s : State} {line : Nat} (dram : inDram line = true) (h : s.uninjected) :
    exec (.lineWriteback line) s
      = .next (if (s.chanOf (chanNo line)).failed then s.listPoison line else s.freshCode line) := by
  have ⟨_, _, kept⟩ := h
  show execLineWriteback line s = _
  simp [execLineWriteback, dram, State.writeBack, kept, State.arrayWrite, h.transfer]

/-- A failed channel that lists a line as poisoned still has failed. -/
theorem State.listPoison_failed {s : State} {line : Nat} (failed : (s.chanOf (chanNo line)).failed = true) :
    ((s.listPoison line).chanOf (chanNo line)).failed = true := by
  unfold State.listPoison
  dsimp only
  split
  · exact failed
  · rw [State.chanOf_setChan_of_ne]
    · exact failed
    · exact Channel.ne_reset_of_failed failed

theorem State.listPoison_mem (s : State) (line : Nat) : (s.listPoison line).mem = s.mem := by
  unfold State.listPoison
  dsimp only
  split <;> rfl

/-- R478: a read of a line of a failed channel is poisoned. -/
theorem State.linePoisoned_of_failed {s : State} {line : Nat} (dram : inDram line = true)
    (failed : (s.chanOf (chanNo line)).failed = true) : s.linePoisoned line = true := by
  have listed : s.reliab.chans ≠ [] := by
    intro empty
    rw [State.chanOf, empty] at failed
    cases failed
  unfold State.chanOf at failed
  simp [State.linePoisoned, dram, failed, listed]

/-- R478: a write to a failed channel changes no byte, and leaves its line poisoned. -/
theorem lineWriteback_failed {s : State} {line : Nat} (dram : inDram line = true) (h : s.uninjected)
    (failed : (s.chanOf (chanNo line)).failed = true) :
    ∃ t, exec (.lineWriteback line) s = .next t ∧ t.mem = s.mem ∧ t.linePoisoned line = true := by
  refine ⟨_, exec_lineWriteback dram h, ?_⟩
  rw [if_pos failed]
  exact ⟨s.listPoison_mem line, State.linePoisoned_of_failed dram (State.listPoison_failed failed)⟩

/-! ## The decoding of a line (25 R473, R480) -/

/-- A row that enters the watch list leaves the scrubber where it is. -/
theorem State.watchRow_pos (s : State) (line : Nat) :
    ((s.watchRow line).chanOf (chanNo line)).pos = (s.chanOf (chanNo line)).pos := by
  unfold State.watchRow
  dsimp only
  rw [State.chanOf_setChan_of_ne]
  intro e
  simpa [Channel.reset] using congrArg Channel.watch e

/-- The line's codeword with no error in it. -/
def State.cleared (s : State) (line : Nat) : State :=
  { s with reliab := { s.reliab with errors := Table.put 0 line 0 s.reliab.errors } }

/-- Without an injection a line meets its own error alone. -/
theorem State.uninjected.unhit {s : State} (h : s.uninjected) (ctx line : Nat) :
    (s.injLine ctx == some line && s.injKind == 1) = false := by
  simp [h.injLine]

/-- R473: a line in which no pin group is in error is decoded as it stands. -/
theorem State.uninjected.decodeLine_clean {s : State} (h : s.uninjected) (ctx line orig : Nat)
    (clean : errGroups (Table.get 0 line s.reliab.errors) = []) : s.decodeLine ctx line orig = s.cleared line := by
  unfold State.decodeLine
  simp only [h.unhit, Bool.false_eq_true, if_false, clean]
  rfl

/-- R473, R480: the error of one pin group is corrected and counts, and its row is watched. -/
theorem State.uninjected.decodeLine_single {s : State} (h : s.uninjected) (ctx line orig : Nat) {g : Nat}
    (single : errGroups (Table.get 0 line s.reliab.errors) = [g]) :
    ∃ r : ErrRec, r.swap = false
      ∧ s.decodeLine ctx line orig = ((s.cleared line).logError (chanNo line / 64) bankDram true r).watchRow line := by
  unfold State.decodeLine
  simp only [h.unhit, Bool.false_eq_true, if_false, single]
  exact ⟨_, rfl, rfl⟩

/-- R473: the line is left with no error and every byte as it was; a correction counts. -/
theorem State.uninjected.decodeLine_corrects {s : State} (h : s.uninjected) (ctx line orig : Nat)
    (few : (errGroups (Table.get 0 line s.reliab.errors)).length ≤ 1) :
    (s.decodeLine ctx line orig).mem = s.mem ∧ (s.decodeLine ctx line orig).hart = s.hart
      ∧ ((s.decodeLine ctx line orig).chanOf (chanNo line)).pos = (s.chanOf (chanNo line)).pos
      ∧ (s.decodeLine ctx line orig).reliab.errors = Table.put 0 line 0 s.reliab.errors
      ∧ (errGroups (Table.get 0 line s.reliab.errors) ≠ [] →
          wbits ((s.decodeLine ctx line orig).bankOf (chanNo line / 64) bankDram).stat 0 16
            = min (wbits (s.bankOf (chanNo line / 64) bankDram).stat 0 16 + 1) 65535) := by
  match groups : errGroups (Table.get 0 line s.reliab.errors), few with
  | [], _ =>
    rw [h.decodeLine_clean ctx line orig groups]
    exact ⟨rfl, rfl, rfl, rfl, fun wrong => absurd rfl wrong⟩
  | [g], _ =>
    obtain ⟨r, plain, decoded⟩ := h.decodeLine_single ctx line orig groups
    obtain ⟨evseq, logged⟩ := (s.cleared line).logError_corrected (chanNo line / 64) bankDram plain
    have counted := (s.cleared line).logError_count (chanNo line / 64) bankDram plain
    have pos := State.watchRow_pos ((s.cleared line).logError (chanNo line / 64) bankDram true r) line
    rw [← decoded] at pos
    refine ⟨?_, ?_, pos.trans ?_, ?_, fun _ => ?_⟩
    · rw [decoded, logged]
      rfl
    · rw [decoded, logged]
      rfl
    · rw [logged]
      rfl
    · rw [decoded, logged]
      rfl
    · rw [decoded]
      exact counted

/-! ## The scrubber (25 R479) -/

/-- The scrubber's step neither fails a channel nor trains it. -/
theorem Channel.scrub_failed {c c' : Channel} {k : Nat} (h : c.scrub k = some c') : c'.failed = c.failed := by
  unfold Channel.scrub at h
  dsimp only at h
  split at h
  · cases h
    rfl
  · split at h
    · cases h
      rfl
    · split at h
      · cases h
        rfl
      · cases h

/-- A line that is not the scrubber's next is not read. -/
theorem exec_scrubRead_none {s : State} {line : Nat}
    (other : (s.chanOf (chanNo line)).scrub (line % 0x40000000 / 64) = none) : exec (.scrubRead line) s = .next s := by
  show execScrubRead line s = _
  simp [execScrubRead, State.scrubTo, other]

section
variable {s : State} {line : Nat} {c' : Channel} (dram : inDram line = true) (h : s.uninjected)
  (wf : Table.wf Channel.reset s.reliab.chans = true)
  (moved : (s.chanOf (chanNo line)).scrub (line % 0x40000000 / 64) = some c')
include dram h wf moved

/-- R479: the scrubber moves to its next line, and reads it at the array where its channel has not failed. -/
theorem exec_scrubRead :
    exec (.scrubRead line) s
      = .next (if (s.chanOf (chanNo line)).failed then s.setChan (chanNo line) c'
          else (s.setChan (chanNo line) c').decodeLine noCtx line 3) := by
  have chan : (s.setChan (chanNo line) c').chanOf (chanNo line) = c' := Table.get_put_same _ _ _ _ wf
  have idle : (s.setChan (chanNo line) c').uninjected := h
  show execScrubRead line s = _
  simp only [execScrubRead, State.scrubTo, dram, moved, if_true, Option.map_some, State.arrayAccess, idle.transfer, chan,
    Channel.scrub_failed moved]

/-- R479: the scrubber leaves its line with no error, where one pin group at most explains what it held. -/
theorem scrubRead_corrects (sound : (s.chanOf (chanNo line)).failed = false)
    (few : (errGroups (Table.get 0 line s.reliab.errors)).length ≤ 1) :
    ∃ t, exec (.scrubRead line) s = .next t ∧ t.mem = s.mem ∧ t.hart = s.hart ∧ (t.chanOf (chanNo line)).pos = c'.pos
      ∧ t.reliab.errors = Table.put 0 line 0 s.reliab.errors
      ∧ (errGroups (Table.get 0 line s.reliab.errors) ≠ [] →
          wbits (t.bankOf (chanNo line / 64) 0).stat 0 16
            = min (wbits (s.bankOf (chanNo line / 64) 0).stat 0 16 + 1) 65535) := by
  have chan : (s.setChan (chanNo line) c').chanOf (chanNo line) = c' := Table.get_put_same _ _ _ _ wf
  have idle : (s.setChan (chanNo line) c').uninjected := h
  have run := exec_scrubRead dram h wf moved
  rw [sound] at run
  obtain ⟨mem, hart, pos, errors, count⟩ := idle.decodeLine_corrects noCtx line 3 few
  exact ⟨_, run, mem, hart, pos.trans (congrArg Channel.pos chan), errors, count⟩

end

/-! ## Injections (25 R490, R491) -/

/-- The bits of ERRINJ that software writes. -/
def errinjMask : Word := 0xBFFFFC00000000FF#64

/-- What a write of a word to ERRINJ leaves in it: the bits that software writes, and FIRED cleared where it writes 1. -/
def errinjWritten (old v : Word) : Word :=
  let merged := mergeBits errinjMask old v
  if bitOf v.toNat 62 then wset merged 62 1 0 else merged

/-- A bit of ERRINJ that software writes holds what was written. -/
theorem getLsbD_errinjWritten (old v : Word) {i : Nat} (h : errinjMask.getLsbD i = true) :
    (errinjWritten old v).getLsbD i = v.getLsbD i := by
  have low : i < 64 := BitVec.lt_of_getLsbD h
  have ne : i ≠ 62 := by
    rintro rfl
    cases h
  have merged : (mergeBits errinjMask old v).getLsbD i = v.getLsbD i := by
    simp [mergeBits, h]
  unfold errinjWritten
  dsimp only
  split
  · have apart : ¬ (62 ≤ i ∧ i < 62 + 1) := by omega
    rw [← merged, wset, BitVec.getLsbD_ofNat, testBit_setField, if_neg apart, BitVec.testBit_toNat]
    simp [low]
  · exact merged

/-- A field of bits that software writes holds what was written. -/
theorem wbits_errinjWritten (old v : Word) {lo n : Nat} (h : ∀ i < n, errinjMask.getLsbD (lo + i) = true) :
    wbits (errinjWritten old v) lo n = wbits v lo n := by
  refine Nat.eq_of_testBit_eq fun i => ?_
  rw [wbits, wbits, testBit_field, testBit_field]
  by_cases hi : i < n
  · rw [BitVec.testBit_toNat, BitVec.testBit_toNat, getLsbD_errinjWritten old v (h i hi)]
  · simp [hi]

/-- Every bit of ERRINJ that software writes holds what was written. -/
theorem errinjWritten_and (old v : Word) : errinjWritten old v &&& errinjMask = v &&& errinjMask := by
  refine BitVec.eq_of_getLsbD_eq fun i _ => ?_
  rw [BitVec.getLsbD_and, BitVec.getLsbD_and]
  cases h : errinjMask.getLsbD i with
  | false => simp
  | true => rw [getLsbD_errinjWritten old v h]

/-- A write of ERRINJ by tenant 0 that arms a kind that exists, on a pin group that exists. -/
theorem State.writeErrinj_arms {s : State} {v : Word} (tenant : s.tenant = 0) (arm : bitOf v.toNat 63 = true)
    (kind : wbits v 59 3 < 4) (group : wbits v 54 5 ≤ 19) :
    s.writeErrinj v v = { s with reliab := { s.reliab with
      errinj := errinjWritten s.reliab.errinj v, armer := some s.hart.ctx, stuck := none, injStore := none } } := by
  have kind' := wbits_errinjWritten s.reliab.errinj v (lo := 59) (n := 3) (by decide)
  have group' := wbits_errinjWritten s.reliab.errinj v (lo := 54) (n := 5) (by decide)
  have arm' : bitOf (errinjWritten s.reliab.errinj v).toNat 63 = true := by
    rw [bitOf_eq, BitVec.testBit_toNat] at arm ⊢
    rw [getLsbD_errinjWritten _ _ (by decide), arm]
  have legal : ¬ (s.tenant ≠ 0 ∨ wbits (errinjWritten s.reliab.errinj v) 59 3 ≥ 4
      ∨ wbits (errinjWritten s.reliab.errinj v) 54 5 > 19) := by omega
  exact (if_neg legal).trans (if_pos arm')

/-- R490, R491: the supervisor of tenant 0 arms an injection of one of the three kinds. -/
theorem armInjection_arms {s : State} {v : Word} {kind : Nat} (empty : s.adds = []) (live : s.hart.live = true)
    (sup : s.hart.level = .supervisor) (tenant : s.tenant = 0) (arm : bitOf v.toNat 63 = true) (hk : wbits v 59 3 = kind)
    (known : kind < 4) (group : wbits v 54 5 ≤ 19) :
    s.armInjection kind v = { s with reliab := { s.reliab with
      errinj := errinjWritten s.reliab.errinj v, armer := some s.hart.ctx, stuck := none, injStore := none } } := by
  have supervises : s.supervises = true := by simp [State.supervises, live, sup]
  have drained : s.drainAdds s.hart.core s.hart.sq = s := by simp [State.drainAdds, empty]
  unfold State.armInjection
  simp only [supervises, arm, hk, drained, beq_self_eq_true, Bool.and_self, if_true]
  exact State.writeErrinj_arms tenant arm (hk ▸ known) group

/-! ## Sequencers by place -/

/-- The sequencer that is found at a place stands there. -/
theorem State.hartAt_place (s : State) (core sq : Nat) : (s.hartAt core sq).core = core ∧ (s.hartAt core sq).sq = sq := by
  unfold State.hartAt
  cases found : s.harts.find? fun h => h.at core sq with
  | none => exact ⟨rfl, rfl⟩
  | some h => simpa [Hart.at] using List.find?_some found

theorem State.sameSeqs.hartAt {s t : State} (h : s.sameSeqs t) (core sq : Nat) : t.hartAt core sq = s.hartAt core sq := by
  rw [State.hartAt, State.harts, h.1, h.2.1]
  rfl

/-- A sequencer that was put at its place is found there. -/
theorem State.hartAt_putHart (s : State) {h : Hart} {core sq : Nat} (hc : h.core = core) (hq : h.sq = sq) :
    (s.putHart h).hartAt core sq = h := by
  subst hc hq
  have self : h.at h.core h.sq = true := by simp [Hart.at]
  unfold State.putHart
  split
  · simp [State.hartAt, State.harts, self]
  · next acting =>
    split
    · next ran =>
      have found (l : List Hart) (any : l.any (fun x => x.at h.core h.sq) = true) :
          (l.map fun x => if x.at h.core h.sq then h else x).find? (fun x => x.at h.core h.sq) = some h := by
        induction l with
        | nil => cases any
        | cons x t ih =>
          by_cases hx : x.at h.core h.sq = true
          · simp [hx, self]
          · simp only [List.any_cons, hx, Bool.false_or] at any
            simpa [hx] using ih any
      simp [State.hartAt, State.harts, acting, found _ ran]
    · next ran =>
      have absent : s.rest.find? (fun x => x.at h.core h.sq) = none := by simpa using ran
      simp [State.hartAt, State.harts, acting, absent, self]

theorem State.putHart_inputs (s : State) (h : Hart) : (s.putHart h).inputs = s.inputs := by
  unfold State.putHart
  split
  · rfl
  · split
    · rfl
    · rfl

/-! ## A group of a vector register (25 R475) -/

/-- The poison bit of one group of one register set. -/
def Vec.poisonGroup (v : Vec) (reg group : Nat) : Vec :=
  { v with pois := v.pois.setIfInBounds reg (v.pois[reg]?.getD 0 ||| BitVec.twoPow 1024 group) }

/-- That bit is set, and every other poison bit stands. -/
theorem Vec.bitOf_poisonGroup (v : Vec) {reg group r g : Nat} (hr : r < 32) (hg : g < 1024) :
    bitOf ((v.poisonGroup reg group).poison r) g = (bitOf (v.poison r) g || decide (r = reg ∧ g = group)) := by
  have read (u : Vec) : bitOf (u.poison r) g = u.pois[r].getLsbD g := by
    rw [bitOf_eq, Vec.poison, BitVec.testBit_toNat, List.getD_eq_getElem?_getD, Vector.getElem?_toList,
      Vector.getElem?_eq_getElem hr, Option.getD_some]
  rw [read, read]
  by_cases h : r = reg
  · subst h
    simp [Vec.poisonGroup, hr, hg, eq_comm]
  · simp [Vec.poisonGroup, Ne.symm h, h]

/-- R475: two wrong bits in a group set its poison bit, and nothing else of its sequencer differs. -/
theorem State.vrfUpset_poisons (s : State) {core sq reg group : Nat} (hc : core < 256) (hq : sq < 4) (hr : reg < 32)
    (hg : group < 1024) :
    (s.vrfUpset core sq reg group true).inputs = s.inputs
      ∧ (s.vrfUpset core sq reg group true).hartAt core sq
        = { s.hartAt core sq with vec := (s.hartAt core sq).vec.poisonGroup reg group } := by
  obtain ⟨atCore, atSq⟩ := s.hartAt_place core sq
  have real : ¬ (coreCount ≤ core ∨ 4 ≤ sq ∨ 32 ≤ reg ∨ 1024 ≤ group) := by
    unfold coreCount
    omega
  let u := s.putHart { s.hartAt core sq with vec := (s.hartAt core sq).vec.poisonGroup reg group }
  obtain ⟨r, logged⟩ : ∃ r, s.vrfUpset core sq reg group true = u.logError (dieOf core) bankVrf false r :=
    ⟨_, if_neg real⟩
  have same := u.sameSeqs_logError (dieOf core) bankVrf false r
  have inputs : u.inputs = s.inputs := s.putHart_inputs _
  rw [logged]
  exact ⟨same.2.2.trans inputs, (same.hartAt core sq).trans (s.hartAt_putHart atCore atSq)⟩

/-- An error that physics brings is the next step, where nothing that is parked goes first. -/
theorem step_upset {s : State} {x : Upset} {rest : List Input} (ready : s.firstReady = none) (work : s.mgmtOnly = false)
    (next : s.inputs = .upset x :: rest) : step s = .next (State.upset { s with inputs := rest } x) := by
  unfold step
  simp only [ready, next, work]
  rfl

/-- Settles O52: the two ends of a migration, a line on its way to the array and under the scrubber, the retries of a link, the
three injections, a group of a vector register, and software at a bank. -/
theorem recovery : Obligations.Recovery := by
  unfold Obligations.Recovery
  intro s quiet
  refine ⟨?_, ?_, ?_, ?_, ?_, ?_, ?_⟩
  · intro ctx va l calm walk valid float unlocked still bases frames apart
    exact migrationStart_copies walk valid float unlocked still frames calm apart
  · intro n m wf hm idle
    obtain ⟨t, run, hart, migs, mem, leaf⟩ := migrationPublish_ends wf hm idle
    refine ⟨t, run, hart, migs, mem, fun held => ?_, fun written => ?_⟩
    · rw [leaf, Mig.leafAfter, if_pos held]
    · rw [leaf, Mig.leafAfter, if_neg written]
  · intro line dram (idle : s.uninjected) c e die
    have run := exec_lineWriteback dram idle
    refine ⟨fun sound wrong => ?_, fun sound right => ?_, lineWriteback_failed dram idle, fun c' wf moved => ⟨?_, ?_⟩,
      exec_scrubRead_none⟩
    · rw [run, if_neg (by simp [c, sound]), State.freshCode, if_neg wrong]
    · rw [run, if_neg (by simp [c, sound]), State.freshCode, if_pos right]
    · exact scrubRead_corrects dram idle wf moved
    · intro failed
      rw [exec_scrubRead dram idle wf moved, if_pos failed]
  · intro die link attempts hd hl ha
    refine ⟨_, exec_meshLinkRetry s hd hl ha, fun few => ?_, fun many => ?_⟩
    · rw [if_pos few]
      refine ⟨?_, ?_, s.logRetries_count die link attempts⟩
      all_goals
        rw [State.logRetries_same]
    · rw [if_neg (by omega)]
      rfl
  · intro i kind v hi empty live sup tenant arm hk group
    have armed (h : kind < 4) := armInjection_arms empty live sup tenant arm hk h group
    have run : kind < 4 ∧ exec (i v) s = .next (s.armInjection kind v) := by
      obtain ⟨rfl, rfl⟩ | ⟨rfl, rfl⟩ | ⟨rfl, rfl⟩ := hi
      · exact ⟨by decide, rfl⟩
      · exact ⟨by decide, rfl⟩
      · exact ⟨by decide, rfl⟩
    refine ⟨_, run.2, ?_⟩
    rw [armed run.1]
    exact ⟨rfl, rfl, rfl, errinjWritten_and _ _⟩
  · intro core sq reg group rest hc hq hr hg ready work next h
    obtain ⟨inputs, hart⟩ := State.vrfUpset_poisons { s with inputs := rest } hc hq hr hg
    have place : (State.upset { s with inputs := rest } (.vrfGroup core sq reg group)).hartAt core sq
        = { h with vec := h.vec.poisonGroup reg group } := hart
    refine ⟨_, step_upset ready work next, inputs, ?_⟩
    rw [place]
    exact ⟨rfl, fun r g hr' hg' => Vec.bitOf_poisonGroup _ hr' hg'⟩
  · intro die bank hd hb live sup k
    exact ⟨errbankStatRead_seen s hd hb live sup, exec_errbankClear s hd hb live sup⟩

end Sys2Proof.Machine
end
